-- ==== Sys2Proof/Word.lean ====
section
/-! DEFINITION. The word types of the EZ48 model and the names of its instance numbers
(spec/00_scope.md, Numbering). -/

namespace Sys2Proof

/-- One byte of a memory. -/
abbrev Byte := BitVec 8

/-- A 32-bit lane word. -/
abbrev W32 := BitVec 32

/-- Hemisphere H0 or H1. -/
abbrev Hemi := Fin 2

/-- A sector slot of a bundle, and the number of a stream context (R29, R34). -/
abbrev Slot := Fin 8

/-- Partition 0 to 15. -/
abbrev PartN := Fin 16

/-- Global facet number 0 to 255. -/
abbrev FacetN := Fin 256

/-- Port 0 to 47. -/
abbrev PortN := Fin 48

/-- Queue identifier 0 to 16,383. -/
abbrev QueueN := Fin 16384

/-- Function number: 0 the PF, 1 to 63 a VF (R256). -/
abbrev FnN := Fin 64

end Sys2Proof
end

