-- ==== Sys2Proof/Syntax.lean ====
section
/-! DEFINITION. The commands of the block: one constructor of `Instr` for each row of
spec/opcode_table.json, and the operand structures they carry. The table gives no bit fields;
the operands are those the governing rules name. -/

namespace Sys2Proof

/-- A stream context: hemisphere and context number (R29). -/
structure CtxId where
  h : Hemi
  n : Slot
deriving DecidableEq, Repr

/-- Where an op of a sector slot acts: the issuing context, the sector slot it drives and the
facet mask that gates it (R12, R34, R45). -/
structure Site where
  c : CtxId
  slot : Slot
  fmask : BitVec 16
deriving DecidableEq, Repr

/-- Local address operand LA (Table 03-1). -/
structure LA where
  off : BitVec 21
  ar : BitVec 5
  rm : Bool
  pi : Bool
deriving DecidableEq, Repr

/-- Global address operand GA (Table 03-2). -/
structure GA where
  off : BitVec 48
  br : BitVec 3
  bv : Bool
deriving DecidableEq, Repr

/-- MMA fields (Table 03-4). -/
structure MmaOp where
  fa : BitVec 4
  fb : BitVec 4
  acc : Bool
  clr : Bool
  sp : Bool
  bs : Bool
  pdi : BitVec 3
  drn : Bool
  ddi : BitVec 3
  laA : LA
  laB : LA
deriving DecidableEq, Repr

/-- DRAIN fields (Table 03-7). -/
structure DrainOp where
  acc : Bool
  ddi : BitVec 3
deriving DecidableEq, Repr

/-- PCFG fields (Table 03-7). -/
structure PcfgOp where
  d : BitVec 3
  la : LA
deriving DecidableEq, Repr

/-- PVLD fields (Table 03-7). -/
structure PvldOp where
  v : BitVec 2
  half : Bool
  la : LA
deriving DecidableEq, Repr

/-- Lane op fields beyond the opcode (Table 03-9). -/
structure LaneOp where
  pin : Bool
  pctx : BitVec 4
  vd : BitVec 6
  va : BitVec 6
  vb : BitVec 6
  vc : BitVec 6
  ge : Bool
  gn : Bool
  pg : BitVec 4
  pd : BitVec 4
  lt : BitVec 2
  bi : Bool
  imm : BitVec 32
  fo : BitVec 4
  rnd : BitVec 2
  sat : Bool
  cn : BitVec 4
  sub : BitVec 3
  m1 : BitVec 3
  pol : Bool
deriving DecidableEq, Repr

/-- LDV, STV and LDB fields (Table 03-13). -/
structure LsOp where
  pin : Bool
  pctx : BitVec 4
  vr : BitVec 6
  esz : BitVec 2
  lg : BitVec 2
  hi : Bool
  ge : Bool
  gn : Bool
  pg : BitVec 4
  la : LA
deriving DecidableEq, Repr

/-- AMOV, AADD and AMUL fields (Table 03-13). -/
structure AregOp where
  ad : BitVec 5
  src : BitVec 5
  imm : BitVec 48
deriving DecidableEq, Repr

/-- AFROMV fields (Table 03-13). -/
structure AfromvOp where
  pin : Bool
  pctx : BitVec 4
  vr : BitVec 6
  ad : BitVec 5
  lane : BitVec 9
deriving DecidableEq, Repr

/-- STDC fields (Table 03-13). -/
structure StdcOp where
  half : Bool
  la : LA
deriving DecidableEq, Repr

/-- XLD and XST fields (Table 03-13). -/
structure XldOp where
  ga : BitVec 5
  gpi : Bool
  la : LA
  len : BitVec 16
  tag : BitVec 6
  alloc : Bool
deriving DecidableEq, Repr

/-- MOVE fields (Table 03-14). -/
structure MoveOp where
  src : BitVec 5
  ad : BitVec 5
  spi : Bool
  dpi : Bool
  x : Bool
  dlt : BitVec 4
deriving DecidableEq, Repr

/-- FILL fields (Table 03-14). -/
structure FillOp where
  ad : BitVec 5
  dpi : Bool
  pattern : BitVec 32
deriving DecidableEq, Repr

/-- WCFG fields (Table 03-14). -/
structure WcfgOp where
  d : BitVec 3
  src : BitVec 5
deriving DecidableEq, Repr

/-- WEDGE fields (Table 03-14, R157). -/
structure WedgeOp where
  d : BitVec 3
  ph : Bool
  ar : BitVec 5
deriving DecidableEq, Repr

/-- PFS fields, and SDROP's (Table 03-15). -/
structure PfsOp where
  tag : BitVec 6
  src : GA
  len : BitVec 32
  spi : Bool
deriving DecidableEq, Repr

/-- XFER fields (Table 03-15). -/
structure XferOp where
  tag : BitVec 6
  src : GA
  dst : GA
  len : BitVec 32
  spi : Bool
  dpi : Bool
  bsect : BitVec 8
  bfmask : BitVec 16
deriving DecidableEq, Repr

/-- GATHER and SCATTER fields (Table 03-15). -/
structure GatherOp where
  tag : BitVec 6
  src : GA
  dst : GA
  len : BitVec 32
  spi : Bool
  dpi : Bool
  rsz : BitVec 24
  ib : BitVec 3
deriving DecidableEq, Repr

/-- STREAM fields (Table 03-15). -/
structure StreamOp where
  src : GA
  tidx : BitVec 13
  count : BitVec 13
deriving DecidableEq, Repr

/-- DFENCE fields (Table 03-15). -/
structure DfenceOp where
  tag : BitVec 6
  bound : BitVec 20
  cn : BitVec 4
  cv : Bool
deriving DecidableEq, Repr

/-- TBSET fields (Table 03-15). -/
structure TbsetOp where
  r : BitVec 3
  value : BitVec 48
deriving DecidableEq, Repr

/-- Barrov slot fields (Table 03-16). -/
structure BarrovOp where
  tag : BitVec 6
  grp : BitVec 8
  dtype : BitVec 4
  rop : BitVec 2
  src : GA
  dst : GA
  len : BitVec 32
  spi : Bool
  dpi : Bool
  slot : BitVec 16
  root : BitVec 14
deriving DecidableEq, Repr

/-- ITAKE fields (Table 03-17). -/
structure ItakeOp where
  tag : BitVec 6
  ring : BitVec 2
  dst : GA
  nrow : BitVec 16
  dpi : Bool
deriving DecidableEq, Repr

/-- IREL fields (Table 03-17). -/
structure IrelOp where
  ring : BitVec 2
  nrow : BitVec 16
deriving DecidableEq, Repr

/-- IROI fields (Table 03-17). -/
structure IroiOp where
  list : GA
  count : BitVec 7
  ftag : BitVec 32
deriving DecidableEq, Repr

/-- A write to BAR 2: byte offset, size in bytes, value (R259). -/
structure BellWrite where
  off : BitVec 24
  size : Nat
  value : BitVec 64
deriving DecidableEq, Repr

/-- A sample of a shard: partition, ring and sample index (R210). -/
structure SampleId where
  p : PartN
  ring : Fin 4
  sidx : Nat
deriving DecidableEq, Repr

/-- Barrov header fields (Table 10-2). -/
structure BarrovHdr where
  ver : BitVec 8
  op : BitVec 8
  flags : BitVec 8
  gid : BitVec 32
  src : BitVec 16
  dst : BitVec 16
  epoch : BitVec 32
  seq : BitVec 32
  stripe : BitVec 8
  dtype : BitVec 8
  plen : BitVec 16
  off : BitVec 64
deriving DecidableEq, Repr

/-- A received Barrov frame: the port, the partition whose address it names, its source address, header, payload as it
stands on the wire and the 16 B tag of a sealed frame (R196, R198). -/
structure BarrovFrame where
  port : PortN
  p : PartN
  ip : BitVec 128
  hdr : BarrovHdr
  payload : List Byte
  gcmTag : BitVec 128
deriving DecidableEq, Repr

/-- One stripe of one message of a group op (R197). -/
structure StripeId where
  g : BitVec 12
  epoch : BitVec 32
  peer : BitVec 16
  stripe : BitVec 8
deriving DecidableEq, Repr

/-- The protection of a received frame (R189): its SCI, association number and packet number, what its ICV covers, and
the ICV. -/
structure SecTag where
  sci : BitVec 64
  an : Fin 4
  pn : BitVec 64
  covered : List Byte
  icv : BitVec 128
deriving DecidableEq, Repr

/-- The IEEE 1588 event messages (R194). -/
inductive PtpMsg where
  | sync
  | delayReq
  | pdelayReq
  | pdelayResp
deriving DecidableEq, Repr

/-- A RoCE v2 packet at a queue pair (R195): requests of the peer, and its answers to this side's. -/
inductive RocePkt where
  | send (psn : BitVec 24) (payload : List Byte)
  | write (psn : BitVec 24) (va : BitVec 64) (payload : List Byte)
  | read (psn : BitVec 24) (va : BitVec 64) (len : BitVec 32)
  | atomic (psn : BitVec 24)
  | ack (psn : BitVec 24)
  | readResp (psn : BitVec 24) (payload : List Byte)
  | rnrNak (psn : BitVec 24)
deriving DecidableEq, Repr

/-- What a received frame carries: an MKA frame, a PTP event message with its sequence number, a Barrov frame with its VER
and TYPE and the stripe it belongs to, a RoCE packet of a queue pair, or something else. -/
inductive FrameBody where
  | mka (mkpdu : List Byte)
  | ptp (m : PtpMsg) (seq : BitVec 16)
  | barrov (ver ty : BitVec 8) (stripe : Option StripeId)
  | roce (qp : Fin 65536) (pkt : RocePkt)
  | other
deriving DecidableEq, Repr

/-- What the MAC and PHY of a port report of one received frame (R188, R189, R193, R194). -/
structure FrameInfo where
  port : PortN
  len : Nat
  prio : Fin 8
  fecCorrected : Nat
  fecUncorrectable : Bool
  fcsOk : Bool
  sec : Option SecTag
  ce : Bool
  body : FrameBody
deriving DecidableEq, Repr

/-- The outcome of 64 peer-delay exchanges: round trips answered, in ns, and the partner's identity
(R194). -/
structure PdelayMeas where
  roundTrips : List Nat
  pclk : BitVec 64
  pport : BitVec 16
deriving DecidableEq, Repr

/-- A flow-control happening on a port and priority (R191): a pause frame received or released by the
partner, or a new occupancy of the receive buffer in KiB. -/
inductive PfcEvent where
  | received (paused : Bool)
  | occupancy (kib : Nat)
deriving DecidableEq, Repr

/-- Whose rate R is meant (R193). -/
inductive RateTarget where
  | qp (i : Fin 65536)
  | stripe (s : StripeId)
deriving DecidableEq, Repr

/-- The result of reading one rim granule: which of the 42 code symbols are in error and by what
(position 0 is v0, 41 is p7; R171, R172). -/
abbrev SymErrs := List (Nat × BitVec 16)

/-- The staging-line errors that lookups met: an address of the line, and whether two bits were in error (R178). -/
abbrev StageErrs := List (BitVec 48 × Bool)

/-- Why a far-tier read failed (R181). -/
inductive FarFail where
  | barrov (cause : BitVec 16)
  | pcie (status : Nat)
  | flashUe (page : Nat)
  | bounds
deriving DecidableEq, Repr

/-- A host access through BAR 4 (R260). -/
structure Bar4Op where
  write : Bool
  off : BitVec 48
  len : Nat
  bytes : List Byte
deriving DecidableEq, Repr

/-- An MCTP or PLDM request (R322): PLDM type, command code, and for a firmware transfer the image
kind and bytes. -/
structure PldmReq where
  ptype : Nat
  code : Nat
  kind : Fin 5
  image : List Byte
deriving DecidableEq, Repr

/-- A request on a management path: PLDM (R322), or a read or a write of the FRU EEPROM at SMBus address 0x50 (R376). -/
inductive MgmtReq where
  | pldm (r : PldmReq)
  | eepromRead (off : BitVec 11) (len : Nat)
  | eepromWrite (off : BitVec 11) (v : Byte)
deriving DecidableEq, Repr

/-- What one governor period of 10 us reads and chooses (R338 to R349): power averages in 0.1 W, junction
temperatures in degrees C, the TCLK target and pacing of each hemisphere that its rules allow, whether floor fill
runs and meets the floor, and whether the cap or the ramp holds TCLK or pacing. -/
structure GovReading where
  p10us : BitVec 16
  p1ms : BitVec 16
  p100ms : BitVec 16
  tempH0 : BitVec 8
  tempH1 : BitVec 8
  tempAnn : BitVec 8
  tempStacks : List (BitVec 8)
  target0 : BitVec 11
  target1 : BitVec 11
  pace0 : BitVec 4
  pace1 : BitVec 4
  fill : Bool
  floorMet : Bool
  capped : Bool
  ramping : Bool
deriving DecidableEq, Repr

/-- A sensor that throttles (R349): H0, H1, the annulus, or a rim stack. -/
inductive ThermSource where
  | h0
  | h1
  | annulus
  | stack (x : Fin 8)
deriving DecidableEq, Repr

/-- A counter slot of the PMU (Table 16-1). -/
inductive PmuSlot where
  | facet (f : Fin 256) (k : Fin 8)
  | sector (g : Fin 16) (k : Fin 4)
  | memory (x : Fin 8) (c : Fin 32) (k : Fin 2)
  | port (n : Fin 48) (k : Fin 4)
  | ingest (cl : Fin 6) (k : Fin 4)
deriving DecidableEq, Repr

/-- How a boot stage ended (Table 20-2, R183, R360, R362): the stage; the failure code if it failed; for each image
kind whether its NEXT bank failed to start; failed NAND channels; which SerDes references are not qualified; the
pseudo-channels (x * 32 + c) with the number of their lines that failed training; the PCI Express link as trained
(HQ_LINK); and the strap SLOT_ID (R371, R374). -/
structure StageEnd where
  stage : BitVec 4
  code : BitVec 8
  nextFailed : BitVec 5
  nandFailed : BitVec 8
  serdesBad : BitVec 2
  badLines : List (Fin 256 × Nat)
  link : BitVec 10
  slot : BitVec 3
deriving DecidableEq, Repr

/-- What the sources of one shard outside the module's own reserve gave at a restore, in the order of Table 15-1 (R291, R300,
R301): the envelope that the rebuilt copy, the flash and the shared store gave; of a replica, the flash is that of the holder
with the lowest replica index that can be reached. -/
structure ShardSource where
  oid : BitVec 64
  prot : BitVec 2
  rebuilt : Option (List Byte)
  flash : Option (List Byte)
  shared : Option (List Byte)
deriving DecidableEq, Repr

/-- What a verified manifest says of a save (R293, R300, Table 15-3): the sectors held on each hemisphere, the SHA-256 of
each program image, and the DIGEST of each shard by OID. -/
structure SavedShape where
  sectors0 : Nat
  sectors1 : Nat
  programs : List (BitVec 256)
  digests : List (BitVec 64 × BitVec 256)
deriving DecidableEq, Repr

/-- What the Scangathen debug port reaches (R56, R57): a SEQ register or facet-window offset of BAR 0, a lane of a vector or
predicate register of a thread context, an accumulator total, or a local-store address. -/
inductive DebugTarget where
  | reg (off : BitVec 26)
  | vreg (f : FacetN) (k : Fin 16) (r : Fin 64) (lane : Fin 512)
  | preg (f : FacetN) (k : Fin 16) (p : Fin 16) (lane : Fin 512)
  | acc (f : FacetN) (set : Bool) (row col : Fin 128)
  | store (f : FacetN) (a : BitVec 21)
deriving DecidableEq, Repr

/-- Who writes a register: a function of the host at an offset of BAR 0, the debug port, or one cycle of TCK on the JTAG TAP that
the port is reached through, with TRST_N, TMS and TDI (R252, R373). -/
inductive Writer where
  | host (fn : FnN) (off : BitVec 26)
  | debug (t : DebugTarget)
  | tap (trstN tms tdi : Bool)
deriving DecidableEq, Repr

-- BEGIN INSTR
/-- The commands of the EZ48: one constructor for each row of spec/opcode_table.json, in its order. -/
inductive Instr where
  /-- BUNDLE_ISSUE (R39). The sequencer of a context issues the current bundle for one issue cycle, and every op of its owned slots acts. -/
  | bundleIssue (c : CtxId) (secded : Bool) (sc : StageErrs)
  /-- HINGE (R83). A hinge bundle samples its condition register and selects a branch successor, pushing a hinge-stack entry. -/
  | hinge (c : CtxId)
  /-- CLOSED_HINGE_PAD (R88). After a closed branch ends, gated idle issues pad until T issues have elapsed, and then JOIN issues. -/
  | closedHingePad (c : CtxId)
  /-- OPEN_HINGE_ALIGN (R89). After an open branch with ALIGN16, gated idle issues realign the ICOUNT phase before JOIN. -/
  | openHingeAlign (c : CtxId)
  /-- HINGE_BOUND (R90). An open hinge's bound B passes before JOIN, which raises a HINGE_BOUND timing fault and sets BFLT. -/
  | hingeBound (c : CtxId)
  /-- HALT (R54). A context stops issuing after HALT and becomes halted once its outstanding work completes. -/
  | halt (c : CtxId)
  /-- SPAN_FULL_STALL (R24). A send into a full span queue stalls the sending hemisphere until an entry frees. -/
  | spanFullStall (c : CtxId)
  /-- SPAN_TOKEN_ARRIVE (R26). A span token arrives at the receiver and is held, and overflow beyond 15 tokens is partition-fatal. -/
  | spanTokenArrive (h : Hemi)
  /-- SPAN_FENCE_WAIT (R26). A bundle with tfv = 1 waits before its first issue until it can consume a held token of tfid. -/
  | spanFenceWait (c : CtxId)
  /-- SPAN_FENCE_PASS (R27). A waiting fence consumes its arriving token and releases, with prior span data usable. -/
  | spanFencePass (c : CtxId)
  /-- SPAN_LATE (R28). The R25 bound passes while a fence still waits, which raises a SPAN_LATE timing fault. -/
  | spanLate (c : CtxId)
  /-- SPAN_WAIT (R28). A fence still waits 1,048,576 cycles after SPAN_LATE, which raises a partition-fatal error. -/
  | spanWait (c : CtxId)
  /-- FILL_WAIT (R49). A bundle whose fill bit is clear waits 1,048,576 cycles, which raises a partition-fatal error. -/
  | fillWait (c : CtxId)
  /-- STREAM_BUNDLE_LAND (R388). A streamed bundle lands, is checked, and has its fill bit set or the partition is stopped with STREAM. -/
  | streamBundleLand (c : CtxId)
  /-- MMA (R63). A prism MMA issue reads its operands and advances the target accumulator set by kps K-steps. -/
  | mma (s : Site) (o : MmaOp)
  /-- PRISM_ORDER_STALL (R23). A drain and accumulation would overlap on one set, so the hemisphere stalls with a PRISM_ORDER fault. -/
  | prismOrderStall (c : CtxId) (f : FacetN)
  /-- PRODUCT_LAND (R114). Products of an MMA issue land in their set 24 cycles later, with a clear and chunk promotion where due. -/
  | productLand (c : CtxId)
  /-- DRAIN (R68). A DRAIN issue copies its descriptor and vectors and starts reading rows of the set. -/
  | drain (s : Site) (o : DrainOp)
  /-- DRAIN_ROW_WRITE (R68). A drained row is scaled, biased, converted and written to local store at cycle d + r + 40. -/
  | drainRowWrite (c : CtxId)
  /-- PCFG (R67). PCFG loads and checks a prism descriptor, and an invalid one stops the partition. -/
  | pcfg (s : Site) (o : PcfgOp)
  /-- PVLD (R68). PVLD loads half of a prism vector RS, CS or BI. -/
  | pvld (s : Site) (o : PvldOp)
  /-- ADD (R70). Lane add. -/
  | add (s : Site) (o : LaneOp)
  /-- SUB (R70). Lane subtract. -/
  | sub (s : Site) (o : LaneOp)
  /-- MUL (R70). Lane multiply. -/
  | mul (s : Site) (o : LaneOp)
  /-- FMA (R70). Lane fused multiply-add with one rounding. -/
  | fma (s : Site) (o : LaneOp)
  /-- MIN (R70). Lane minimum. -/
  | laneMin (s : Site) (o : LaneOp)
  /-- MAX (R70). Lane maximum. -/
  | laneMax (s : Site) (o : LaneOp)
  /-- NEG (R70). Lane sign inversion or integer negation. -/
  | neg (s : Site) (o : LaneOp)
  /-- AND (R70). Lane bitwise AND. -/
  | laneAnd (s : Site) (o : LaneOp)
  /-- OR (R70). Lane bitwise OR. -/
  | laneOr (s : Site) (o : LaneOp)
  /-- XOR (R70). Lane bitwise XOR. -/
  | laneXor (s : Site) (o : LaneOp)
  /-- SHL (R70). Lane shift left. -/
  | shl (s : Site) (o : LaneOp)
  /-- SHR (R70). Lane shift right. -/
  | shr (s : Site) (o : LaneOp)
  /-- SEL (R70). Lane select by predicate. -/
  | sel (s : Site) (o : LaneOp)
  /-- CMP (R70). Lane compare into a predicate. -/
  | cmp (s : Site) (o : LaneOp)
  /-- PLOG (R70). Predicate logic. -/
  | plog (s : Site) (o : LaneOp)
  /-- MOVI (R70). Move an immediate into a vector register. -/
  | movi (s : Site) (o : LaneOp)
  /-- LANEID (R70). Write the lane, context or facet number into a vector register. -/
  | laneid (s : Site) (o : LaneOp)
  /-- CVT (R108). Lane format conversion. -/
  | cvt (s : Site) (o : LaneOp)
  /-- SFU (R385). Lane special function, correctly rounded. -/
  | sfu (s : Site) (o : LaneOp)
  /-- RED (R71). Tree reduction across the lanes of a facet. -/
  | red (s : Site) (o : LaneOp)
  /-- SHUF (R70). Lane shuffle. -/
  | shuf (s : Site) (o : LaneOp)
  /-- RAND (R128). One Philox evaluation per lane into four registers. -/
  | rand (s : Site) (o : LaneOp)
  /-- TOPK (R72). Insert a candidate into a ranked list. -/
  | topk (s : Site) (o : LaneOp)
  /-- DISP (R73). Assign expert slots and advance the dispatch counters. -/
  | disp (s : Site) (o : LaneOp)
  /-- DCLR (R145). Clear the facet's dispatch counters. -/
  | dclr (s : Site) (o : LaneOp)
  /-- CSET (R74). Reduce a predicate into one bit of a condition register. -/
  | cset (s : Site) (o : LaneOp)
  /-- CIDX (R74). Write a value into a condition register. -/
  | cidx (s : Site) (o : LaneOp)
  /-- CFLAG (R74). Sample numeric-event flags into a condition bit, optionally clearing them. -/
  | cflag (s : Site) (o : LaneOp)
  /-- CONDITION_WRITE (R74). A condition-register write becomes visible λ cycles after its source. -/
  | conditionWrite (c : CtxId)
  /-- LDV (R76). Vector load from local store. -/
  | ldv (s : Site) (o : LsOp)
  /-- STV (R76). Vector store to local store. -/
  | stv (s : Site) (o : LsOp)
  /-- LDB (R76). Broadcast load to every lane. -/
  | ldb (s : Site) (o : LsOp)
  /-- AMOV (R60). Set an address register to an immediate. -/
  | amov (s : Site) (o : AregOp)
  /-- AADD (R60). Add an immediate to an address register. -/
  | aadd (s : Site) (o : AregOp)
  /-- AMUL (R60). Multiply an address register by an immediate. -/
  | amul (s : Site) (o : AregOp)
  /-- AFROMV (R60). Copy one lane's vector register into an address register. -/
  | afromv (s : Site) (o : AfromvOp)
  /-- STDC (R145). Store half of the dispatch counters to local store. -/
  | stdc (s : Site) (o : StdcOp)
  /-- XLD (R77). Launch an asynchronous copy from a global address to local store. -/
  | xld (s : Site) (o : XldOp) (sc : StageErrs)
  /-- XST (R77). Launch an asynchronous copy from local store to a global address. -/
  | xst (s : Site) (o : XldOp)
  /-- MOVE (R45). Copy 128 B within a facet or from a neighbouring facet. -/
  | move (s : Site) (o : MoveOp)
  /-- FILL (R45). Write 128 B of a pattern. -/
  | fill (s : Site) (o : FillOp)
  /-- WCFG (R156). Load and check a wedge or box descriptor. -/
  | wcfg (s : Site) (o : WcfgOp)
  /-- WEDGE (R157). One MAC or write step of the sector's wedge engine. -/
  | wedge (s : Site) (o : WedgeOp)
  /-- WEDGE_PASS_READY (R158). A wedge pass reaches its ready cycle, and its tile is finished and its events are raised. -/
  | wedgePassReady (f : FacetN)
  /-- BOX (R161). One step of the hemisphere's box unit, starting or continuing a detection job. -/
  | box (s : Site) (d : BitVec 3)
  /-- PFS (R176). Prefetch a rim range into the partition's staging ways. -/
  | pfs (c : CtxId) (o : PfsOp) (sc : StageErrs)
  /-- XFER (R386). Launch a copy between global addresses, optionally replicated to facets. -/
  | xfer (c : CtxId) (o : XferOp) (sc : StageErrs)
  /-- GATHER (R78). Launch an indexed row gather. -/
  | gather (c : CtxId) (o : GatherOp) (sc : StageErrs)
  /-- SCATTER (R78). Launch an indexed row scatter. -/
  | scatter (c : CtxId) (o : GatherOp) (sc : StageErrs)
  /-- STREAM (R49). Start a program stream-in into instruction-store entries. -/
  | stream (c : CtxId) (o : StreamOp)
  /-- DFENCE (R79). Wait before issue until a tag's requests complete or the bound passes. -/
  | dfence (c : CtxId) (o : DfenceOp)
  /-- DFENCE_RELEASE (R79). A deadline fence releases on completion or bound, ending outstanding requests with DEADLINE. -/
  | dfenceRelease (c : CtxId)
  /-- TBSET (R60). Set a transfer base register. -/
  | tbset (c : CtxId) (o : TbsetOp)
  /-- SDROP (R176). Mark the staging lines of a range first for eviction. -/
  | sdrop (c : CtxId) (o : PfsOp)
  /-- REQUEST_COMPLETE (R78). A request's last write lands and it completes on its tag. -/
  | requestComplete (c : CtxId) (tag : BitVec 6)
  /-- DMA_ACCESS (R19). A facet DMA port attempts its head accesses in a cycle, proceeding or retrying. -/
  | dmaAccess (f : FacetN)
  /-- RSCAT (R204). Launch a chord reduce-scatter. -/
  | rscat (c : CtxId) (o : BarrovOp)
  /-- ARED (R204). Launch a chord all-reduce. -/
  | ared (c : CtxId) (o : BarrovOp)
  /-- AGATH (R200). Launch an all-gather. -/
  | agath (c : CtxId) (o : BarrovOp)
  /-- BCAST (R200). Launch a broadcast. -/
  | bcast (c : CtxId) (o : BarrovOp)
  /-- A2A (R200). Launch a fixed-slot all-to-all. -/
  | a2a (c : CtxId) (o : BarrovOp)
  /-- ITAKE (R225). Claim and copy the next staging-ring entries. -/
  | itake (c : CtxId) (o : ItakeOp)
  /-- IREL (R225). Release taken ring entries to ingest. -/
  | irel (c : CtxId) (o : IrelOp)
  /-- IROI (R226). Post a region-of-interest list for video steering. -/
  | iroi (c : CtxId) (o : IroiOp)
  /-- DHALT_REQ (R57). Debug-halt a context at its next bundle boundary. -/
  | dhaltReq (c : CtxId)
  /-- BREAKPOINT_HIT (R57). A context reaches its enabled breakpoint bundle and debug-halts. -/
  | breakpointHit (c : CtxId)
  /-- STEP (R57). Issue one whole bundle of a debug-halted context. -/
  | stepBundle (c : CtxId)
  /-- RESUME (R57). Restart both debug-halted contexts. -/
  | resume (c : CtxId)
  /-- START (R54). SEQ_CTX_n_CTRL.START starts a context. -/
  | start (c : CtxId)
  /-- SQ_TAIL (R259). A doorbell write of a submission-queue tail makes commands visible. -/
  | sqTail (fn : FnN) (w : BellWrite)
  /-- CQ_HEAD (R259). A doorbell write of a completion-queue head frees CQ entries. -/
  | cqHead (fn : FnN) (w : BellWrite)
  /-- COMMAND_FETCH (R272). An arbitration slot fetches a command from a queue under weighted round-robin and checks it. -/
  | commandFetch (entry : List Byte) (buf : List Byte)
  /-- INTERIM_COMPLETION (R267). 900 µs after the doorbell with no final completion, an interim completion is posted. -/
  | interimCompletion (q : QueueN) (cid : BitVec 32)
  /-- MSIX_AGGREGATE_TIMER (R274). AGGT expires after the first unsignalled entry, and the vector is signalled. -/
  | msixAggregateTimer (q : QueueN)
  /-- BAR4_ACCESS (R260). A host access through BAR 4 to rim memory is served or refused. -/
  | bar4Access (o : Bar4Op)
  /-- CONFIG_REQUEST (R257). A configuration request is answered with Request Retry Status until ready. -/
  | configRequest (vfs : Option FnN)
  /-- FLR (R256). Function Level Reset disables one function's queues and drops its completions. -/
  | flr (fn : FnN)
  /-- QUEUE_CREATE (R389). Create a queue pair. -/
  | queueCreate (q : QueueN)
  /-- QUEUE_DELETE (R277). Delete a queue pair, aborting unfetched commands. -/
  | queueDelete (q : QueueN)
  /-- QUEUE_ARB (R272). Set arbitration weights and burst. -/
  | queueArb (q : QueueN)
  /-- EVQ_SET (R389). Name a partition's or the device's event queue. -/
  | evqSet (q : QueueN)
  /-- VF_SET (R256). Bind a VF to a partition and admin queue. -/
  | vfSet (q : QueueN)
  /-- IDENTIFY (R275). Return GLB_ID and HQ_CAP. -/
  | identify (q : QueueN)
  /-- LOAD_PROGRAM (R52). Validate and load program images into a partition's contexts. -/
  | loadProgram (q : QueueN) (images : List (List Byte))
  /-- START_PROGRAM (R54). Start every context of a partition and complete when all halt. -/
  | startProgram (q : QueueN)
  /-- CLEAR_TFAULT (R55). Clear the timing-fault capture and overflow bits of a hemisphere. -/
  | clearTfault (q : QueueN)
  /-- KERNEL_RUN (R276). Build a profile's program and load and run it, or return its images. -/
  | kernelRun (q : QueueN)
  /-- NEV_CONFIG (R125). Configure the partition's numeric-event ring. -/
  | nevConfig (q : QueueN)
  /-- NEV_CLEAR (R121). Clear numeric-event captures, counter overflows and facet flags. -/
  | nevClear (q : QueueN)
  /-- RNG_SEED (R130). Seed every lane generator of a partition. -/
  | rngSeed (q : QueueN)
  /-- MEM_SCRUB_CFG (R185). Set the scrub interval and repair-candidate threshold. -/
  | memScrubCfg (q : QueueN)
  /-- FAR_WINDOW (R179). Configure a far-tier window. -/
  | farWindow (q : QueueN)
  /-- STACK_REPAIR (R184). Replace a rim row with a spare, soft or hard. -/
  | stackRepair (q : QueueN)
  /-- STACK_REPAIR_DONE (R184). A row repair finishes, and held requests to the channel proceed. -/
  | stackRepairDone (x : Fin 8) (pc : Fin 32)
  /-- MEM_CLEAR_ERR (R185). Clear a stack's error capture and counter overflows. -/
  | memClearErr (q : QueueN)
  /-- RIM_READ (R172). A rim granule read is decoded, corrected, or declared uncorrectable. -/
  | rimRead (addr : BitVec 48) (errs : SymErrs)
  /-- RIM_PARTIAL_WRITE (R173). A partial-granule write is performed as an atomic read-modify-write. -/
  | rimPartialWrite (addr : BitVec 48) (bytes : List Byte) (errs : SymErrs)
  /-- SCRUB_READ (R175). The paced scrub engine reads a granule and writes back a correction. -/
  | scrubRead (x : Fin 8) (pc : Fin 32) (errs : SymErrs)
  /-- FAR_READ_FAIL (R181). A far-tier read fails and ends its request. -/
  | farReadFail (c : CtxId) (tag : BitVec 6) (why : FarFail)
  /-- PORT_CFG (R187). Configure a port's mode, media, MTU, MACsec and PTP. -/
  | portCfg (q : QueueN)
  /-- FLOW_CFG (R191). Configure PFC and ECN thresholds of a port. -/
  | flowCfg (q : QueueN)
  /-- DIST_MEASURE (R194). Run peer-delay exchanges and set the distance class. -/
  | distMeasure (q : QueueN) (meas : List PdelayMeas)
  /-- ENDPOINT (R195). Set a partition's network address and serve windows. -/
  | endpoint (q : QueueN)
  /-- PEER_SET (R195). Write a peer entry. -/
  | peerSet (q : QueueN)
  /-- GROUP_CREATE (R199). Configure and enable a Barrov group. -/
  | groupCreate (q : QueueN)
  /-- GROUP_RESET (R202). Return a Barrov group to idle with EPOCH 0. -/
  | groupReset (q : QueueN)
  /-- QP_CONNECT (R195). Connect a RoCE QP. -/
  | qpConnect (q : QueueN)
  /-- LAYOUT (R206). Assign ports to groups by cut and distance class. -/
  | layout (q : QueueN)
  /-- PARITY (R205). Run a parity chord over shards. -/
  | parity (q : QueueN)
  /-- DATA (R197). A Barrov DATA frame is received, acknowledged, and NAKed on a gap. -/
  | data (f : BarrovFrame)
  /-- ACK (R197). A cumulative acknowledgement is received for a stripe. -/
  | ack (f : BarrovFrame)
  /-- NAK (R197). A NAK is received and the sender goes back to the missing frame. -/
  | nak (f : BarrovFrame)
  /-- RNR (R197). An RNR is received and the sender schedules a retry. -/
  | rnr (f : BarrovFrame)
  /-- RDV (R201). A rendezvous frame is received and compared with the member's own op. -/
  | rdv (f : BarrovFrame)
  /-- ABORT (R202). An ABORT is received, ending the epoch's op and faulting the group. -/
  | abort (f : BarrovFrame)
  /-- FAR_REQ (R209). A far-tier read request is received and served from serve windows. -/
  | farReq (f : BarrovFrame)
  /-- FAR_RSP (R198). A far-tier read response is received and delivered. -/
  | farRsp (f : BarrovFrame)
  /-- RTO_TIMEOUT (R197). No acknowledgement within RTO, so the stripe is resent. -/
  | rtoTimeout (s : StripeId)
  /-- RNR_RETRY_TIMER (R197). RNR_US passes and the refused frame is resent. -/
  | rnrRetryTimer (s : StripeId)
  /-- RENDEZVOUS_TIMEOUT (R201). A rendezvous not complete 1 ms after it began ends the op with TIMEOUT. -/
  | rendezvousTimeout (g : BitVec 12) (epoch : BitVec 32)
  /-- OPTMO_TIMEOUT (R203). An op passes the group's OPTMO and ends with TIMEOUT. -/
  | optmoTimeout (g : BitVec 12) (epoch : BitVec 32)
  /-- BARROV_OP_COMPLETE (R80). A Barrov op's result lands and it completes on its tag. -/
  | barrovOpComplete (g : BitVec 12) (epoch : BitVec 32)
  /-- FRAME_RECEIVE (R188). An Ethernet frame is received with FEC, FCS and MACsec checks and timestamped. -/
  | frameReceive (i : FrameInfo)
  /-- PFC_PAUSE (R191). A PFC pause is received or occupancy crosses XOFF or XON. -/
  | pfcPause (port : PortN) (prio : Fin 8) (e : PfcEvent)
  /-- PFC_WD (R192). A priority paused for MS milliseconds trips the PFC watchdog. -/
  | pfcWd (port : PortN) (prio : Fin 8)
  /-- PFC_WD_END (R192). The watchdog's discard period ends and normal operation resumes. -/
  | pfcWdEnd (port : PortN) (prio : Fin 8)
  /-- CNP (R193). A CNP or CE echo reduces a QP's or stripe's rate. -/
  | cnp (t : RateTarget)
  /-- RATE_INCREASE_TIMER (R193). 55 µs pass with no congestion, and the rate increases by RAI. -/
  | rateIncreaseTimer (t : RateTarget)
  /-- REKEY (R190). The transmit packet number reaches 2^64 − 2^32, and a rekey record is posted. -/
  | rekey (port : PortN)
  /-- ASSOCIATION_EXHAUSTED (R190). 10 ms pass after packet-number exhaustion with no new association, and the port goes down. -/
  | associationExhausted (port : PortN)
  /-- LINK_DOWN (R208). A port's link goes down, and its stripes move to another port. -/
  | linkDown (port : PortN)
  /-- LINK_UP (R194). A port's link comes up and distance measurement runs. -/
  | linkUp (port : PortN) (m : PdelayMeas)
  /-- QP_ERROR (R195). A QP exhausts its retries and enters the error state. -/
  | qpError (i : Fin 65536)
  /-- PTP_SYNC (R335). A PTP Sync is processed and the time base is stepped or adjusted. -/
  | ptpSync (offset : Int) (adj : Int)
  /-- PTP_HOLDOVER (R335). 4 Sync intervals pass with no Sync, and holdover begins. -/
  | ptpHoldover
  /-- ING_SCRATCH (R214). Set a partition's ingest scratch range. -/
  | ingScratch (q : QueueN)
  /-- ING_RING_CFG (R223). Configure and enable a staging ring. -/
  | ingRingCfg (q : QueueN)
  /-- ING_SHARD (R210). Queue a shard on a ring. -/
  | ingShard (q : QueueN)
  /-- ING_RESTORE (R231). Rebuild a ring from a cursor and replay its log. -/
  | ingRestore (q : QueueN)
  /-- ING_STOP (R234). Close the current row and end the ring's shards. -/
  | ingStop (q : QueueN)
  /-- ING_DICT_LOAD (R221). Validate and load a tokeniser dictionary. -/
  | ingDictLoad (q : QueueN)
  /-- ING_BUDGET (R228). Set decode budget FACTOR and CAP_MS. -/
  | ingBudget (q : QueueN)
  /-- ING_QUOTA (R233). Set an engine-class quota. -/
  | ingQuota (q : QueueN)
  /-- SAMPLE_START (R233). A sample with credit and scratch starts on a free engine. -/
  | sampleStart (i : SampleId)
  /-- SAMPLE_FETCHED (R213). A fetched object is checked, decrypted and authenticated. -/
  | sampleFetched (i : SampleId) (object : List Byte)
  /-- HEADER_PARSE (R215). Header limits are applied before decode allocation. -/
  | headerParse (i : SampleId)
  /-- SAMPLE_COMPLETE (R224). A decoded sample or video frame is transformed and packed into rows. -/
  | sampleComplete (i : SampleId) (engineUs : Nat)
  /-- BUDGET_EXPIRY (R229). A sample exceeds its decode budget and is abandoned and substituted. -/
  | budgetExpiry (i : SampleId)
  /-- FETCH_FAIL (R229). A sample's fetch fails, and it is abandoned and substituted. -/
  | fetchFail (i : SampleId)
  /-- ROW_WRITTEN (R225). A packed ring entry lands and WRITTEN advances. -/
  | rowWritten (p : PartN) (ring : Fin 4)
  /-- LOG_FULL (R230). The substitution log fills, and the shard ends. -/
  | logFull (p : PartN) (ring : Fin 4)
  /-- ROI_LIST_READ (R226). Ingest reads a posted ROI list. -/
  | roiListRead (p : PartN) (ring : Fin 4)
  /-- REPLAY_ROI_TIMEOUT (R232). Replay waits 1 s for an ROI list and the shard ends with REPLAY. -/
  | replayRoiTimeout (p : PartN) (ring : Fin 4)
  /-- ATTEST (R240). Generate a key pair and a signed attestation report. -/
  | attest (q : QueueN) (flashOk : Bool)
  /-- ATT_CERT (R238). Return the attestation public key and certificate. -/
  | attCert (q : QueueN)
  /-- REPORT_EXPIRY (R241). A report unopened for 60 s loses its decapsulation key. -/
  | reportExpiry (i : Fin 16)
  /-- SESSION_OPEN (R241). Decapsulate and derive a session's keys. -/
  | sessionOpen (q : QueueN)
  /-- SESSION_CLOSE (R241). End a session and zeroise its keys. -/
  | sessionClose (q : QueueN)
  /-- OWNER_SET (R251). Establish or replace the owner. -/
  | ownerSet (q : QueueN)
  /-- KEY_INSTALL (R242). Unwrap a key into a slot. -/
  | keyInstall (q : QueueN)
  /-- KEY_ERASE (R244). Mark a slot erasing and free it once uses end. -/
  | keyErase (q : QueueN)
  /-- POLICY_SET (R246). Set or clear a partition's EXPORT_CLEAR. -/
  | policySet (q : QueueN)
  /-- SEAL (R245). Encrypt a rim range into an envelope. -/
  | sealRange (q : QueueN)
  /-- UNSEAL (R245). Decrypt and verify an envelope into rim memory. -/
  | unsealRange (q : QueueN)
  /-- COPY_OUT (R246). Copy unsealed output where policy allows. -/
  | copyOut (q : QueueN)
  /-- FW_UPDATE (R323). Write or verify a firmware image and mark its bank NEXT. -/
  | fwUpdate (q : QueueN)
  /-- SVN_COMMIT (R238). Raise SVN_MIN to the running runtime's SVN. -/
  | svnCommit (q : QueueN)
  /-- ROOT_REVOKE (R238). Blow a vendor root's revocation fuse. -/
  | rootRevoke (q : QueueN)
  /-- KILL_FUSE (R253). Blow the kill fuse and disable debug. -/
  | killFuse (q : QueueN)
  /-- DEBUG_UNLOCK (R252). End partitions, zeroise and open the debug paths. -/
  | debugUnlock (q : QueueN)
  /-- DEBUG_LOCK (R252). Close the debug paths. -/
  | debugLock (q : QueueN)
  /-- LOCKOUT_EXPIRY (R251). A principal's lockout period ends. -/
  | lockoutExpiry (k : Fin 257)
  /-- PARTITION_CREATE (R279). Create a partition and assign its resources. -/
  | partitionCreate (q : QueueN)
  /-- PARTITION_DESTROY (R287). Destroy a partition and zeroise its sectors. -/
  | partitionDestroy (q : QueueN)
  /-- SECTOR_ZEROISED (R248). A dirty sector finishes zeroising and becomes clean. -/
  | sectorZeroised (g : Fin 16)
  /-- PRT_SLICE (R290). Set a partition's slice length. -/
  | prtSlice (q : QueueN)
  /-- PRT_PREEMPT (R283). Yield, park or unpark a partition. -/
  | prtPreempt (q : QueueN)
  /-- PRT_WAYS (R176). Add or return staging ways at the next residency. -/
  | prtWays (q : QueueN)
  /-- PARTITION_RESET (R358). Stop, clear facet state and return a partition to idle. -/
  | partitionReset (q : QueueN)
  /-- SLICE_END (R282). A member's slice time expires, and pre-emption begins. -/
  | sliceEnd (p : PartN)
  /-- PREEMPT_DRAIN_TIMEOUT (R283). Requests outstanding 2 ms into the drain end with DRAIN. -/
  | preemptDrainTimeout (p : PartN)
  /-- DRAIN_COMPLETE (R283). In-flight work drains, and sector images are saved. -/
  | drainComplete (p : PartN) (overrunUs : Nat)
  /-- SAVE_COMPLETE (R283). Images are sealed, and ways are handed over and restore begins. -/
  | saveComplete (p : PartN)
  /-- RESTORE_COMPLETE (R286). Images are verified and loaded, and the next member resumes. -/
  | restoreComplete (p : PartN) (badSectors : BitVec 16)
  /-- PSV_CONFIG (R292). Configure resilience for a partition. -/
  | psvConfig (q : QueueN)
  /-- PSV_PLAN (R293). Set the saved regions and their protection. -/
  | psvPlan (q : QueueN)
  /-- PSV_SAVE (R296). Arm a save at a target step. -/
  | psvSave (q : QueueN)
  /-- PSV_FAIL_NOTE (R298). Note a failure and update the interval estimate. -/
  | psvFailNote (q : QueueN)
  /-- PSV_RESTORE (R300). Restore shards from tiers and resume. -/
  | psvRestore (q : QueueN) (images : List (List Byte)) (saved : SavedShape) (sources : List ShardSource)
  /-- SAVE_POINT_REACHED (R295). A context reaches SPT with the condition set and stops for the save. -/
  | savePointReached (c : CtxId)
  /-- SAVE_POINT (R296). SAVE_TMO expires before both contexts stop, and the save is abandoned. -/
  | savePointTimeout (p : PartN)
  /-- SNAPSHOT_DONE (R296). The snapshot is sealed, and the contexts resume and the partner phase begins. -/
  | snapshotDone (p : PartN) (costUs : Nat)
  /-- PARTNER_PHASE_DONE (R296). Parity chords complete and the save commits. -/
  | partnerPhaseDone (p : PartN) (divergent : List Nat)
  /-- FLASH_PHASE_DONE (R296). The flash tier write lands and its bit is set. -/
  | flashPhaseDone (p : PartN)
  /-- SHARED_PHASE_DONE (R296). The shared-store write lands and its bit is set. -/
  | sharedPhaseDone (p : PartN)
  /-- SAVE_ABANDONED (R299). A failure during a save abandons it or clears a tier bit. -/
  | saveAbandoned (p : PartN)
  /-- DEEP_TIER (R302). A failure during rebuild sends a group to the flash tier. -/
  | deepTier (p : PartN) (grp : BitVec 8) (t : BitVec 64)
  /-- PMU_PROFILE (R315). Program counter slots for a profile. -/
  | pmuProfile (q : QueueN)
  /-- PMU_SAMPLE (R315). Program sampling slots and the sample ring. -/
  | pmuSample (q : QueueN)
  /-- PMU_BW (R315). Enable bandwidth windows. -/
  | pmuBw (q : QueueN)
  /-- PMU_SNAPSHOT (R315). Arm a snapshot and return the shadows. -/
  | pmuSnapshot (q : QueueN)
  /-- COUNTER_WRAP_SAMPLE (R311). A sampling slot wraps, reloads and captures the issue. -/
  | counterWrapSample (s : PmuSlot) (excess : Nat)
  /-- SAMPLE_DELIVERY (R312). A captured sample is delivered as a ring record within skid. -/
  | sampleDelivery (s : PmuSlot)
  /-- BW_WINDOW_END (R310). A bandwidth window ends and its counts are latched. -/
  | bwWindowEnd (n : Fin 49)
  /-- SNAPSHOT_FIRE (R313). The time base reaches T and every slot copies to its shadow. -/
  | snapshotFire
  /-- PMU_SNAP_AT (R314). A write arms or replaces a snapshot time, or sets LATE. -/
  | pmuSnapAt (t : BitVec 64)
  /-- FREEZE (R308). PMU_CTRL.FREEZE stops or restarts counting. -/
  | freeze (on : Bool)
  /-- CLEAR (R308). PMU_CTRL.CLEAR zeroes every count. -/
  | clearCounts
  /-- RT_INFO (R323). Return runtime SVN, cores online and image hash. -/
  | rtInfo (q : QueueN)
  /-- WDOG_CFG (R319). Set the core and cluster watchdog periods. -/
  | wdogCfg (q : QueueN)
  /-- FLF_CARVE (R169). Set the Flifin carve-out size for the next warm reset. -/
  | flfCarve (q : QueueN)
  /-- RT_CORE (R319). A core watchdog expires, and the core is reset and its commands end. -/
  | rtCore (core : Fin 16) (running : List (QueueN × BitVec 32))
  /-- RT_HANG (R320). The cluster watchdog expires, which is device-fatal. -/
  | rtHang
  /-- RT_UE (R318). A runtime uncorrectable error or self-check failure is device-fatal. -/
  | rtUe (kind : Fin 4)
  /-- CODE_DIGEST_CHECK (R318). The 10 s timer checks the runtime code-page digest. -/
  | codeDigestCheck (ok : Bool)
  /-- GOV_POWER_CAP (R342). Set CAP. -/
  | govPowerCap (q : QueueN)
  /-- GOV_CEIL_SET (R342). Set CEIL under owner authentication. -/
  | govCeilSet (q : QueueN)
  /-- GOV_RAMP_CFG (R344). Set RAMP and FLOOR. -/
  | govRampCfg (q : QueueN)
  /-- GOV_BRAKE_CFG (R346). Set BLEVEL and BRAMP. -/
  | govBrakeCfg (q : QueueN)
  /-- GOV_THERM_CFG (R349). Set THR. -/
  | govThermCfg (q : QueueN)
  /-- CLK_GATE (R331). Turn gates on or off by command. -/
  | clkGate (q : QueueN)
  /-- TCLK_LIMIT (R336). Set a hemisphere's FMAX. -/
  | tclkLimit (q : QueueN)
  /-- TB_CONFIG (R335). Configure PTP discipline or manual adjust and step. -/
  | tbConfig (q : QueueN)
  /-- GOVERNOR_TICK (R342). Every 10 µs the governor reads power and sets TCLK targets, pacing and fill. -/
  | governorTick (r : GovReading)
  /-- TPLL_STEP (R336). A 25 MHz TCLK step settles. -/
  | tpllStep (h : Hemi)
  /-- BRAKE (R346). PWRBRK_N is low for 20 µs, and the brake is asserted. -/
  | brake
  /-- BRAKE_RELEASE (R346). PWRBRK_N is high for 20 µs, and the brake is released. -/
  | brakeRelease
  /-- BRAKE_CHATTER (R347). Two falling edges within 50 µs assert the brake as chatter. -/
  | brakeChatter
  /-- CHATTER_RELEASE (R347). PWRBRK_N is high for 10 ms under chatter, and the brake is released. -/
  | chatterRelease
  /-- BRAKE_HELD_SECOND (R348). Each second of a held brake posts a BRAKE record. -/
  | brakeHeldSecond
  /-- THROTTLE (R349). A die reaches THR and throttling begins. -/
  | throttle (die : ThermSource)
  /-- THROTTLE_RECOVER (R349). Sensors are below THR − 2 for 10 ms, and recovery begins. -/
  | throttleRecover (die : ThermSource)
  /-- THERMTRIP (R350). A junction reaches 115 °C and the rails are removed. -/
  | thermtrip
  /-- INPUT_RANGE (R338). The input enters an out-of-range band, and ALERT_N is asserted. -/
  | inputRange (mv : BitVec 16)
  /-- INPUT_UNDERVOLTAGE (R338). The input is below 42 V for 100 µs, and the core rails are removed. -/
  | inputUndervoltage
  /-- INPUT_OVERVOLTAGE (R338). The input is above 60 V, and it is disconnected. -/
  | inputOvervoltage
  /-- RAIL_FAIL (R339). A rail misses 90 % in time, and the sequence is removed. -/
  | railFail
  /-- REFCLK25_QUALIFY (R326). REFCLK_25 shows amplitude for 131,072 cycles and qualifies. -/
  | refclk25Qualify
  /-- REF_WINDOW (R327). A 1 ms window judges a reference for qualification or loss. -/
  | refWindow (r : Fin 4) (count : Nat)
  /-- PLL_LOCK_WINDOW (R327). A lock window judges a PLL locked or LOCK_LOST. -/
  | pllLockWindow (n : Fin 13) (count : Nat)
  /-- CLK_REF (R328). A reference is lost, its PLLs coast and the governor acts. -/
  | clkRef (r : Fin 4)
  /-- CLK_COAST (R328). A LOCK_LOST PLL coasts and relock is attempted. -/
  | clkCoast (n : Fin 13)
  /-- CLK_LOCK (R328). Relock fails a third time, which is device-fatal. -/
  | clkLock (n : Fin 13)
  /-- CLK_GATE_OFF (R331). A write turns off gates that are not in use. -/
  | clkGateOff (mask : BitVec 128)
  /-- CLK_GATE_ON (R331). A write turns on gates and their ancestors. -/
  | clkGateOn (mask : BitVec 128)
  /-- CLK_TB_STEP (R334). A write steps the time base forward or absorbs a negative step. -/
  | clkTbStep (v : BitVec 32)
  /-- CLK_TB_ADJ (R333). A write sets the time-base rate adjustment. -/
  | clkTbAdj (v : BitVec 32)
  /-- TB_STEP_ABSORBED (R334). A negative step is fully absorbed and STEP_BUSY clears. -/
  | tbStepAbsorbed
  /-- COLD_RESET (R353). The input rises through 42 V and a cold boot begins. -/
  | coldReset
  /-- PERST_N_FALL (R354). A PERST_N falling edge held low 1 µs after stage 0x6 starts a warm reset. -/
  | perstFall
  /-- PERST_N_RELEASE (R359). PERST_N release allows link training stage 0xA. -/
  | perstRelease
  /-- HOT_RESET (R353). PCI Express Hot Reset or Link Disable starts a warm reset. -/
  | hotReset
  /-- WARM (R355). BOOT_CTRL.WARM with key 0xA5 starts a warm reset. -/
  | warm (v : BitVec 32)
  /-- WARM_RESET_ENTRY (R355). Warm reset stops work, lowers power, ends partitions and resumes boot. -/
  | warmResetEntry
  /-- BOOT_STAGE_END (R359). A boot stage ends and the next stages start. -/
  | bootStageEnd (e : StageEnd)
  /-- DEADLINE (R362). READY is not reached 990 ms after PERST_N release, and boot fails. -/
  | deadline
  /-- STACK_TEST_END (R361). The stack test ends, rewriting zeros and setting degradation bits. -/
  | stackTestEnd (x : Fin 8) (failed : List (BitVec 27))
  /-- GO (R363). BOOT_RCV_CTL.GO loads a recovery image. -/
  | go (v : BitVec 32)
  /-- RECOVERY_LOAD_DONE (R363). A recovery load finishes and sets RESULT. -/
  | recoveryLoadDone (image : List Byte) (flashOk : Bool)
  /-- BOOT_CFG (R364). A write is stored in the boot profile within 10 ms. -/
  | bootCfg (v : BitVec 32)
  /-- REGISTER_WRITE (R5). A host write to a register without behaviour of its own applies per access type and lock. -/
  | registerWrite (by_ : Writer) (size : Nat) (v : BitVec 64)
  /-- SEAL_COMPLETE (R245). A SEAL or UNSEAL finishes on the sealing engine, posting its completion or zeroing the destination on a tag failure. -/
  | sealComplete (q : QueueN) (cid : BitVec 32)
  /-- NEV_RING_RECORD_LAND (R124). A numeric-event or hinge ring record lands in rim memory up to 20 µs after its event, and RHEAD advances. -/
  | nevRingRecordLand (p : PartN)
  /-- SAMPLE_RECORD_LAND (R312). A PMU sample record lands in the partition's sample ring, HEAD advances and MSI-X vector SVEC is signalled. -/
  | sampleRecordLand (p : PartN)
  /-- INPUT_RANGE_EXIT (R372). The input voltage returns inside 46 to 58 V, so the input controller's own range test stops asserting ALERT_N. -/
  | inputRangeExit (mv : BitVec 16)
  /-- PEER_DELAY_TIMEOUT (R194). The peer-delay exchanges of a measurement end without enough responses, leaving VALID 0 and CLASS 3. -/
  | peerDelayTimeout (port : PortN)
  /-- QP_RETRY_TIMEOUT (R195). A RoCE QP's acknowledgement or RNR retry timer expires and the request is retransmitted, counting a retry. -/
  | qpRetryTimeout (i : Fin 65536)
  /-- PLDM_REQUEST (R322). An MCTP/PLDM request arrives over PCI Express VDM or DOE and is answered, including firmware-component transfer into an inactive bank. -/
  | pldmRequest (r : MgmtReq)
deriving DecidableEq, Repr
-- END INSTR

end Sys2Proof
end

