-- ==== Sys2Proof/Decode.lean ====
section
/-! DEFINITION. The fields of a bundle's ops (02_scangathen_bundle.md, Bundle layout;
03_scangathen_operations.md, Tables 03-1 to 03-17): reading them from their op words and writing them
back. spec/opcode_table.json gives no row of the block any bits, so no word spells a command. -/

namespace Sys2Proof

/-- The command that a word of the table's bits spells: the table gives no row bits, so none. -/
def decodeTableWord (_nbits _w : Nat) : Option Instr := none

/-! ## Operands common to all slots -/

/-- LA (Table 03-1). -/
def decLA (v : BitVec 32) : LA where
  off := v.extractLsb' 0 21
  ar := v.extractLsb' 21 5
  rm := v.getLsbD 26
  pi := v.getLsbD 27

/-- One bit as a word. -/
def bit1 (b : Bool) : BitVec 1 := BitVec.ofBool b

/-- LA written back, its reserved bits 0. -/
def encLA (a : LA) : BitVec 32 := 0#4 ++ bit1 a.pi ++ bit1 a.rm ++ a.ar ++ a.off

/-- GA (Table 03-2). -/
def decGA (v : BitVec 52) : GA where
  off := v.extractLsb' 0 48
  br := v.extractLsb' 48 3
  bv := v.getLsbD 51

/-- GA written back. -/
def encGA (a : GA) : BitVec 52 := bit1 a.bv ++ a.br ++ a.off

/-! ## Prism slot (Tables 03-4 and 03-7) -/

def decMma (v : BitVec 96) : MmaOp where
  fa := v.extractLsb' 8 4
  fb := v.extractLsb' 12 4
  acc := v.getLsbD 16
  clr := v.getLsbD 17
  sp := v.getLsbD 18
  bs := v.getLsbD 19
  pdi := v.extractLsb' 20 3
  drn := v.getLsbD 23
  ddi := v.extractLsb' 24 3
  laA := decLA (v.extractLsb' 28 32)
  laB := decLA (v.extractLsb' 60 32)

def encMma (o : MmaOp) : BitVec 96 :=
  0#4 ++ encLA o.laB ++ encLA o.laA ++ 0#1 ++ o.ddi ++ bit1 o.drn ++ o.pdi ++ bit1 o.bs ++ bit1 o.sp ++ bit1 o.clr ++
    bit1 o.acc ++ o.fb ++ o.fa ++ 0x01#8

def decDrain (v : BitVec 96) : DrainOp where
  acc := v.getLsbD 8
  ddi := v.extractLsb' 9 3

def encDrain (o : DrainOp) : BitVec 96 := 0#84 ++ o.ddi ++ bit1 o.acc ++ 0x02#8

def decPcfg (v : BitVec 96) : PcfgOp where
  d := v.extractLsb' 8 3
  la := decLA (v.extractLsb' 11 32)

def encPcfg (o : PcfgOp) : BitVec 96 := 0#53 ++ encLA o.la ++ o.d ++ 0x03#8

def decPvld (v : BitVec 96) : PvldOp where
  v := v.extractLsb' 8 2
  half := v.getLsbD 10
  la := decLA (v.extractLsb' 11 32)

def encPvld (o : PvldOp) : BitVec 96 := 0#53 ++ encLA o.la ++ bit1 o.half ++ o.v ++ 0x04#8

/-! ## Lane slot (Table 03-9) -/

def decLane (v : BitVec 128) : LaneOp where
  pin := v.getLsbD 8
  pctx := v.extractLsb' 9 4
  vd := v.extractLsb' 13 6
  va := v.extractLsb' 19 6
  vb := v.extractLsb' 25 6
  vc := v.extractLsb' 31 6
  ge := v.getLsbD 37
  gn := v.getLsbD 38
  pg := v.extractLsb' 39 4
  pd := v.extractLsb' 43 4
  lt := v.extractLsb' 47 2
  bi := v.getLsbD 49
  imm := v.extractLsb' 50 32
  fo := v.extractLsb' 82 4
  rnd := v.extractLsb' 86 2
  sat := v.getLsbD 88
  cn := v.extractLsb' 89 4
  sub := v.extractLsb' 93 3
  m1 := v.extractLsb' 96 3
  pol := v.getLsbD 99

def encLane (opc : BitVec 8) (o : LaneOp) : BitVec 128 :=
  0#28 ++ bit1 o.pol ++ o.m1 ++ o.sub ++ o.cn ++ bit1 o.sat ++ o.rnd ++ o.fo ++ o.imm ++ bit1 o.bi ++ o.lt ++ o.pd ++
    o.pg ++ bit1 o.gn ++ bit1 o.ge ++ o.vc ++ o.vb ++ o.va ++ o.vd ++ o.pctx ++ bit1 o.pin ++ opc

/-! ## Load/store slot (Table 03-13) -/

def decLs (v : BitVec 96) : LsOp where
  pin := v.getLsbD 8
  pctx := v.extractLsb' 9 4
  vr := v.extractLsb' 13 6
  esz := v.extractLsb' 19 2
  lg := v.extractLsb' 21 2
  hi := v.getLsbD 23
  ge := v.getLsbD 24
  gn := v.getLsbD 25
  pg := v.extractLsb' 26 4
  la := decLA (v.extractLsb' 30 32)

def encLs (opc : BitVec 8) (o : LsOp) : BitVec 96 :=
  0#34 ++ encLA o.la ++ o.pg ++ bit1 o.gn ++ bit1 o.ge ++ bit1 o.hi ++ o.lg ++ o.esz ++ o.vr ++ o.pctx ++ bit1 o.pin ++
    opc

/-- AMOV: ad and a 48-bit immediate. -/
def decAmov (v : BitVec 96) : AregOp where
  ad := v.extractLsb' 8 5
  src := 0
  imm := v.extractLsb' 13 48

/-- AADD: ad, as and a 43-bit signed immediate. -/
def decAadd (v : BitVec 96) : AregOp where
  ad := v.extractLsb' 8 5
  src := v.extractLsb' 13 5
  imm := (v.extractLsb' 18 43).signExtend 48

/-- AMUL: ad, as and a 16-bit immediate. -/
def decAmul (v : BitVec 96) : AregOp where
  ad := v.extractLsb' 8 5
  src := v.extractLsb' 13 5
  imm := (v.extractLsb' 18 16).setWidth 48

def decAfromv (v : BitVec 96) : AfromvOp where
  pin := v.getLsbD 8
  pctx := v.extractLsb' 9 4
  vr := v.extractLsb' 13 6
  ad := v.extractLsb' 19 5
  lane := v.extractLsb' 24 9

def decStdc (v : BitVec 96) : StdcOp where
  half := v.getLsbD 8
  la := decLA (v.extractLsb' 9 32)

def decXld (v : BitVec 96) : XldOp where
  ga := v.extractLsb' 8 5
  gpi := v.getLsbD 13
  la := decLA (v.extractLsb' 14 32)
  len := v.extractLsb' 46 16
  tag := v.extractLsb' 62 6
  alloc := v.getLsbD 68

def encXld (opc : BitVec 8) (o : XldOp) : BitVec 96 :=
  0#27 ++ bit1 o.alloc ++ o.tag ++ o.len ++ encLA o.la ++ bit1 o.gpi ++ o.ga ++ opc

/-! ## Wedge/move slot (Table 03-14, R157) -/

def decMove (v : BitVec 64) : MoveOp where
  src := v.extractLsb' 8 5
  ad := v.extractLsb' 13 5
  spi := v.getLsbD 18
  dpi := v.getLsbD 19
  x := v.getLsbD 20
  dlt := v.extractLsb' 21 4

def encMove (o : MoveOp) : BitVec 64 :=
  0#39 ++ o.dlt ++ bit1 o.x ++ bit1 o.dpi ++ bit1 o.spi ++ o.ad ++ o.src ++ 0x01#8

def decFill (v : BitVec 64) : FillOp where
  ad := v.extractLsb' 13 5
  dpi := v.getLsbD 19
  pattern := v.extractLsb' 20 32

def decWcfg (v : BitVec 64) : WcfgOp where
  d := v.extractLsb' 8 3
  src := v.extractLsb' 13 5

def decWedge (v : BitVec 64) : WedgeOp where
  d := v.extractLsb' 8 3
  ph := v.getLsbD 11
  ar := v.extractLsb' 12 5

/-! ## Transfer slot (Table 03-15) -/

def decPfs (v : BitVec 256) : PfsOp where
  tag := v.extractLsb' 8 6
  src := decGA (v.extractLsb' 14 52)
  len := v.extractLsb' 118 32
  spi := v.getLsbD 150

def decXfer (v : BitVec 256) : XferOp where
  tag := v.extractLsb' 8 6
  src := decGA (v.extractLsb' 14 52)
  dst := decGA (v.extractLsb' 66 52)
  len := v.extractLsb' 118 32
  spi := v.getLsbD 150
  dpi := v.getLsbD 151
  bsect := v.extractLsb' 152 8
  bfmask := v.extractLsb' 160 16

def encXfer (o : XferOp) : BitVec 256 :=
  0#80 ++ o.bfmask ++ o.bsect ++ bit1 o.dpi ++ bit1 o.spi ++ o.len ++ encGA o.dst ++ encGA o.src ++ o.tag ++ 0x02#8

def decGather (v : BitVec 256) : GatherOp where
  tag := v.extractLsb' 8 6
  src := decGA (v.extractLsb' 14 52)
  dst := decGA (v.extractLsb' 66 52)
  len := v.extractLsb' 118 32
  spi := v.getLsbD 150
  dpi := v.getLsbD 151
  rsz := v.extractLsb' 152 24
  ib := v.extractLsb' 176 3

def decStream (v : BitVec 256) : StreamOp where
  src := decGA (v.extractLsb' 14 52)
  tidx := v.extractLsb' 66 13
  count := v.extractLsb' 79 13

def decDfence (v : BitVec 256) : DfenceOp where
  tag := v.extractLsb' 8 6
  bound := v.extractLsb' 14 20
  cn := v.extractLsb' 34 4
  cv := v.getLsbD 38

def decTbset (v : BitVec 256) : TbsetOp where
  r := v.extractLsb' 8 3
  value := v.extractLsb' 11 48

/-! ## Barrov slot (Table 03-16) -/

def decBarrov (v : BitVec 256) : BarrovOp where
  tag := v.extractLsb' 8 6
  grp := v.extractLsb' 14 8
  dtype := v.extractLsb' 22 4
  rop := v.extractLsb' 26 2
  src := decGA (v.extractLsb' 28 52)
  dst := decGA (v.extractLsb' 80 52)
  len := v.extractLsb' 132 32
  spi := v.getLsbD 164
  dpi := v.getLsbD 165
  slot := v.extractLsb' 166 16
  root := v.extractLsb' 182 14

def encBarrov (opc : BitVec 8) (o : BarrovOp) : BitVec 256 :=
  0#60 ++ o.root ++ o.slot ++ bit1 o.dpi ++ bit1 o.spi ++ o.len ++ encGA o.dst ++ encGA o.src ++ o.rop ++ o.dtype ++
    o.grp ++ o.tag ++ opc

/-! ## Ingest hand-off slot (Table 03-17) -/

def decItake (v : BitVec 128) : ItakeOp where
  tag := v.extractLsb' 8 6
  ring := v.extractLsb' 14 2
  dst := decGA (v.extractLsb' 16 52)
  nrow := v.extractLsb' 68 16
  dpi := v.getLsbD 84

def decIrel (v : BitVec 128) : IrelOp where
  ring := v.extractLsb' 14 2
  nrow := v.extractLsb' 68 16

def decIroi (v : BitVec 128) : IroiOp where
  list := decGA (v.extractLsb' 16 52)
  count := v.extractLsb' 85 7
  ftag := v.extractLsb' 96 32

/-! ## The bundle (Tables 02-1 to 02-4) -/

/-- Bits of a bundle held as a number. -/
def bundleBits (b : Nat) (lo w : Nat) : BitVec w := BitVec.ofNat w (b >>> lo)

/-- The header fields (Table 02-2) and the shared fields of Table 02-4. -/
structure Header where
  chk : Nat
  rpt : Nat
  lop : Nat
  ldi : Nat
  hsel : Nat
  tsv : Bool
  tsid : Nat
  tfv : Bool
  tfid : Nat
  qsect : Nat
  qbank : Nat
  hinge : Nat
deriving DecidableEq, Repr

/-- A field of a bundle as a number. -/
def bundleFld (b lo w : Nat) : Nat := b >>> lo % 2 ^ w

def decHeader (b : Nat) : Header where
  chk := bundleFld b 0 16
  rpt := bundleFld b 16 16
  lop := bundleFld b 32 2
  ldi := bundleFld b 34 6
  hsel := bundleFld b 40 2
  tsv := b.testBit 42
  tsid := bundleFld b 43 4
  tfv := b.testBit 47
  tfid := bundleFld b 48 4
  qsect := bundleFld b 3840 8
  qbank := bundleFld b 3848 48
  hinge := bundleFld b 4032 64

/-- First bit of sector slot i (R34). -/
def slotBase (i : Nat) : Nat := 64 + 416 * i

def prismWord (b i : Nat) : BitVec 96 := bundleBits b (slotBase i) 96
def laneWord (b i : Nat) : BitVec 128 := bundleBits b (slotBase i + 96) 128
def lsWord (b i : Nat) : BitVec 96 := bundleBits b (slotBase i + 224) 96
def wmWord (b i : Nat) : BitVec 64 := bundleBits b (slotBase i + 320) 64
def slotMask (b i : Nat) : BitVec 16 := bundleBits b (slotBase i + 384) 16
def barrovWord (b : Nat) : BitVec 256 := bundleBits b 3392 256
def xferWord (b : Nat) : BitVec 256 := bundleBits b 3648 256
def ingestWord (b : Nat) : BitVec 128 := bundleBits b 3904 128

/-- Opcode of an op word. -/
def opcOf {w : Nat} (v : BitVec w) : Nat := v.toNat % 256

/-- One step of `bundle_crc` (R37). -/
def crcStep (crc : Nat) (b : Bool) : Nat :=
  let fb := (crc.testBit 15) != b
  let c := crc * 2 % 65536
  if fb then Nat.xor c 0x1021 else c

/-- `bundle_crc` of a bundle (R37). -/
def bundleCrc (b : Nat) : Nat := (List.range 4080).foldl (fun c i => crcStep c (b.testBit (16 + i))) 0xFFFF

end Sys2Proof
end

