-- ==== Sys2Proof/Machine/Data.lean ====
section
/-! DEFINITION. Plain data: sparse arrays in canonical form, byte memories, bit fields, little-endian bytes. -/

namespace Sys2Proof.Machine

/-- A byte memory: (address, byte) pairs, addresses strictly rising, no byte equal to 0, which is what
an unlisted address reads as (log 2, 3). -/
abbrev Memory := List Host.Cell

/-- A sparse array of numbers: (index, value) pairs, indices strictly rising, no value equal to 0,
which is what an unlisted index reads as. -/
abbrev NatMap := List (Nat × Nat)

/-- The value at index `k` of a sparse array, `d` where none is listed. -/
def alGet {α : Type} (d : α) : List (Nat × α) → Nat → α
  | [], _ => d
  | (j, x) :: m, k => if j = k then x else alGet d m k

/-- Puts `x` at index `k`, in place of what stood there, in rising order of the indices. -/
def alPut {α : Type} : List (Nat × α) → Nat → α → List (Nat × α)
  | [], k, x => [(k, x)]
  | (j, y) :: m, k, x =>
    if k < j then (k, x) :: (j, y) :: m
    else if k = j then (k, x) :: m
    else (j, y) :: alPut m k x

/-- Removes index `k`. -/
def alDrop {α : Type} : List (Nat × α) → Nat → List (Nat × α)
  | [], _ => []
  | (j, y) :: m, k => if j = k then alDrop m k else (j, y) :: alDrop m k

/-- Writes index `k` in canonical form: writing the default `d` removes the entry. -/
def alSet {α : Type} [DecidableEq α] (d : α) (m : List (Nat × α)) (k : Nat) (x : α) : List (Nat × α) :=
  if x = d then alDrop m k else alPut m k x

/-- The canonical form: indices strictly rising and no entry equal to the default. -/
def alWf {α : Type} [DecidableEq α] (d : α) : List (Nat × α) → Bool
  | [] => true
  | [(_, x)] => x ≠ d
  | (j, x) :: (k, y) :: m => x ≠ d && j < k && alWf d ((k, y) :: m)

/-- Index `k` of a sparse array of numbers. -/
def NatMap.get (m : NatMap) (k : Nat) : Nat := alGet 0 m k

/-- Writes index `k` of a sparse array of numbers. -/
def NatMap.set (m : NatMap) (k v : Nat) : NatMap := alSet 0 m k v

/-- Adds `v` at index `k`. -/
def NatMap.add (m : NatMap) (k v : Nat) : NatMap := m.set k (m.get k + v)

/-- Writes several entries in order. -/
def NatMap.setAll (m : NatMap) : List (Nat × Nat) → NatMap
  | [] => m
  | (k, v) :: l => NatMap.setAll (m.set k v) l

/-- Removes every index from `lo` to `hi - 1`. -/
def alClear {α : Type} (m : List (Nat × α)) (lo hi : Nat) : List (Nat × α) :=
  m.filter fun e => e.1 < lo || hi ≤ e.1

/-- The entries from `lo` to `hi - 1`. -/
def alRange {α : Type} (m : List (Nat × α)) (lo hi : Nat) : List (Nat × α) :=
  m.filter fun e => lo ≤ e.1 && e.1 < hi

/-- Byte `a` of a memory. -/
def Memory.byte (m : Memory) (a : Nat) : Byte := alGet 0 m a

/-- Writes byte `a`. -/
def Memory.put (m : Memory) (a : Nat) (b : Byte) : Memory := alSet 0 m a b

/-- The canonical form of a byte memory. -/
def Memory.wf (m : Memory) : Bool := alWf (0 : Byte) m

/-- Writes consecutive bytes from `a`. -/
def Memory.write (m : Memory) (a : Nat) : List Byte → Memory
  | [] => m
  | b :: bs => Memory.write (m.put a b) (a + 1) bs

/-- Writes bytes at the addresses given. -/
def Memory.writeAt (m : Memory) : List (Nat × Byte) → Memory
  | [] => m
  | (a, b) :: l => Memory.writeAt (m.put a b) l

/-- Reads `n` consecutive bytes from `a`. -/
def Memory.read (m : Memory) (a n : Nat) : List Byte := (List.range n).map fun i => m.byte (a + i)

/-- Zeroes every byte from `lo` to `hi - 1`. -/
def Memory.zero (m : Memory) (lo hi : Nat) : Memory := alClear m lo hi

/-- Bits hi to lo of a number. -/
def bits (v hi lo : Nat) : Nat := v / 2 ^ lo % 2 ^ (hi + 1 - lo)

/-- Bit i of a number. -/
def bit (v i : Nat) : Bool := v.testBit i

/-- The number with bits hi to lo replaced by `x`. -/
def setBits (v hi lo x : Nat) : Nat :=
  v - bits v hi lo * 2 ^ lo + x % 2 ^ (hi + 1 - lo) * 2 ^ lo

/-- 1 for true. -/
def b2n (b : Bool) : Nat := if b then 1 else 0

/-- The `n` low bytes of a number, least significant first. -/
def leBytes (n v : Nat) : List Byte := (List.range n).map fun i => BitVec.ofNat 8 (v >>> (8 * i))

/-- The number that bytes spell, least significant first. -/
def leNat : List Byte → Nat
  | [] => 0
  | b :: bs => b.toNat + 256 * leNat bs

/-- The number that bytes spell, most significant first. -/
def beNat (l : List Byte) : Nat := leNat l.reverse

/-- The `n` low bytes of a number, most significant first. -/
def beBytes (n v : Nat) : List Byte := (leBytes n v).reverse

/-- `n` bytes of a list from position `i`, short where the list ends. -/
def slice {α : Type} (l : List α) (i n : Nat) : List α := (l.drop i).take n

/-- Little-endian number of `n` bytes of a list from position `i`. -/
def leAt (l : List Byte) (i n : Nat) : Nat := leNat (slice l i n)

/-- Floor division by a power of two of a signed integer (an arithmetic shift right). -/
def ashr (z : Int) (k : Nat) : Int := Int.fdiv z (2 ^ k)

/-- Two's-complement reading of the low `n` bits. -/
def toSigned (n v : Nat) : Int :=
  if bit v (n - 1) then (v % 2 ^ n : Nat) - (2 ^ n : Nat) else (v % 2 ^ n : Nat)

/-- The low `n` bits of a signed integer. -/
def ofSigned (n : Nat) (z : Int) : Nat := (z % (2 ^ n : Nat)).toNat

/-- Ceiling division. -/
def ceilDiv (a b : Nat) : Nat := (a + b - 1) / b

/-- Round up to a multiple of `b`. -/
def roundUp (a b : Nat) : Nat := ceilDiv a b * b

/-- The number of elements of `l` for which `p` holds. -/
def countIf {α : Type} (p : α → Bool) (l : List α) : Nat := (l.filter p).length

/-- Folds a function over the numbers 0 to n - 1. -/
def forN {α : Type} (n : Nat) (f : Nat → α → α) (a : α) : α := (List.range n).foldl (fun a i => f i a) a

/-- Folds a function over a list. -/
def forL {α β : Type} (l : List β) (f : β → α → α) (a : α) : α := l.foldl (fun a b => f b a) a

end Sys2Proof.Machine
end

