-- ==== Sys2Proof/Machine/State.lean ====
section
/-! DEFINITION. The state of the EZ48 block: every register, memory, buffer, queue, counter and pin the
spec gives it, as plain data, and the queue of waiting commands. -/

namespace Sys2Proof.Machine

/-- Why a step stops with a fault. No command of the table raises one: every meaning ends in a next
state, so this type's one constructor is never answered (safe). -/
inductive Fault where
  /-- Raised by nobody: the model has no faulting command. Safe. -/
  | none
deriving DecidableEq, Repr

/-- Why a step is refused. -/
inductive Refusal where
  /-- A command whose meaning the model does not hold yet. Safe. -/
  | notModelled (mnemonic : String)
deriving DecidableEq, Repr

/-- STATE of SEQ_CTX_n_STATUS (Table 02-14). -/
inductive CtxState where
  | absent
  | idle
  | running
  | halted
  | debugHalted
  | stopped
  | preempted
deriving DecidableEq, Repr

/-- Where a running context stands in the steps of Table 02-5 and R88, R89. -/
inductive CtxPhase where
  /-- about to begin step 1 of the bundle at `bidx` -/
  | boundary
  /-- step 1 done, issues of the current bundle remain -/
  | issuing
  /-- waiting on the fill bit of the current bundle (R49) -/
  | fillWait
  /-- waiting on a span fence (R26) -/
  | fenceWait
  /-- waiting on a deadline fence (R79) -/
  | dfenceWait
  /-- last issue of a hinge bundle done, the successor not selected yet (R83) -/
  | hinge
  /-- last issue of a HALT bundle done (R54) -/
  | haltDue
  /-- padding a closed branch towards JOIN (R88) -/
  | padClosed
  /-- realigning after an open branch (R89) -/
  | padOpen
deriving DecidableEq, Repr

/-- A loop-stack entry (R42, Table 02-16). -/
structure LoopEntry where
  first : Nat
  last : Nat
  left : Nat
deriving DecidableEq, Repr

/-- A hinge-stack entry (R92, Table 04-9); `begun` says that the count of an open one has begun: its branch has issued, or
is empty (R90). -/
structure HingeEntry where
  isOpen : Bool
  align16 : Bool
  bflt : Bool
  inbr : Bool
  sel : Nat
  phase : Nat
  last : Nat
  join : Nat
  htab : Nat
  len : Nat
  elapsed : Nat
  bidx : Nat
  begun : Bool
deriving DecidableEq, Repr

/-- An element in internal form (R100): class 0 zero, 1 finite, 2 infinity, 3 NaN; sign; magnitude m and
exponent x with value m * 2^x. -/
structure Elem where
  cls : Fin 4
  neg : Bool
  m : Nat
  x : Int
deriving DecidableEq, Repr

/-- One K-step of an accumulator set: the block of scales it belongs to (clear count * 2^32 + block), the formats and codes of the 128
elements of A and, for each column, the code of B or none where 2:4 compression prunes it (R113, R136), and
whether block scales apply (R103). -/
structure KStep where
  blk : Nat
  fa : Nat
  fb : Nat
  a : List Nat
  b : List (Option Nat)
  bs : Bool
deriving DecidableEq, Repr

/-- An accumulator set of a facet (Table 01-3, R65): totals not listed read `base`; `intMode` and `issued`
(K-steps issued) are taken at the issues, `kcnt` counts the K-steps landed; the products of the open chunk are
held as the K-steps they come from. `sliceA` and `sliceB` are the elements of a K-step not yet complete, `vals`
and `metas` the 2:4 values and metadata of a group not yet complete, `scl` the block scales read since the last
clear, at 256 times the block, plus 128 for B, plus the row or column, each as scale + 1; `gen` counts the
clears issued. -/
structure AccSet where
  base : Nat
  totals : NatMap
  intMode : Bool
  issued : Nat
  gen : Nat
  kcnt : Nat
  chunk : List KStep
  sliceA : List Nat
  sliceB : List Nat
  stepsA : List (List Nat)
  vals : List Nat
  metas : List Nat
  scl : NatMap
deriving DecidableEq, Repr

/-- Who raised a numeric event, for a capture or a ring record (Table 06-6, Table 06-16). -/
structure NevSite where
  unit : Nat
  facet : Nat
  bidx : Nat
  ctx : Nat
  icount : Nat
  tctx : Nat
deriving DecidableEq, Repr

/-- Occurrences of one kind of event at one site, with the place of the first of them (R123, R124); of FLUSH
occurrences, `fin` are input flushes. `mode` 1 marks a hit that writes no ring record, 2 one that writes only that. -/
structure NevHit where
  site : NevSite
  kind : Nat
  count : Nat
  row : Nat
  col : Nat
  fin : Nat
  mode : Nat
deriving DecidableEq, Repr

/-- A drain in progress: the set as it was read with every chunk closed, the copied descriptor and vectors
of R68, the hits of the chunks it closed, and the hits of the rows written so far. -/
structure DrainJob where
  facet : Nat
  set : Bool
  base : Nat
  totals : NatMap
  intMode : Bool
  dst : Nat
  pitch : Nat
  ofmt : Nat
  flags : Nat
  rs : List Nat
  cs : List Nat
  bi : List Nat
  site : NevSite
  chunkHits : List NevHit
  seen : List NevHit
deriving DecidableEq, Repr

/-- An effect of an op that comes about after its issue. -/
inductive Effect where
  /-- lane results: (register * 512 + lane, value) for vector and predicate registers of one context of
  one facet, available 16 cycles after issue (R14, R70, R76); `half` 1 writes bits [15:0] of the vector
  registers alone, 2 bits [31:16] -/
  | lane (f ctx half : Nat) (vregs pregs : NatMap)
  /-- bytes landing in a facet's local store within `n` bytes from `a` (R76, Table 03-14), with the access
  order of their path (Table 01-4) -/
  | store (f ord bidx a n : Nat) (bytes : List (Nat × Byte))
  /-- a condition-register write: register, bits written, value (R74) -/
  | cond (r mask value : Nat)
  /-- the K-steps of one MMA issue landing in a set, after the clear of a clr issue (R22, R114), with the flushes of its
  operands, which its ring records count too (R124) -/
  | product (f : Nat) (set clr : Bool) (steps : List KStep) (chlen : Nat) (site : NevSite) (read : List NevHit)
  /-- row r of a drain is written (R22, R68) -/
  | drainRow (job : DrainJob) (r : Nat)
  /-- a prism descriptor is installed (R67) -/
  | prismDesc (f d : Nat) (bytes : List Byte)
  /-- half of a prism vector is installed (R68) -/
  | prismVec (f v : Nat) (half : Bool) (words : List Nat)
  /-- the oldest wedge pass of facet f that has issued its last step becomes ready (R158) -/
  | wedgeReady (f : Nat)
  /-- a wedge or box descriptor is installed (R156) -/
  | wedgeDesc (f d : Nat) (bytes : List Byte)
  /-- numeric events are raised (R122) -/
  | events (hits : List NevHit)
deriving DecidableEq, Repr

/-- An effect with the context cycle in which it comes about. -/
structure Delayed where
  due : Nat
  eff : Effect
deriving DecidableEq, Repr

/-- What an outstanding request is (R77, R78, R386, R225). -/
inductive ReqKind where
  /-- copies between global addresses: its pieces -/
  | copy
  /-- prefetch of `len` bytes from `src` into the staging ways -/
  | prefetch (src len : Nat)
  /-- the next `nrow` entries of a staging ring to `dst`; `first` once they are claimed -/
  | take (ring dst nrow : Nat) (first : Option Nat)
  /-- a Barrov op: group g = p * 256 + grp and its epoch -/
  | barrov (g epoch : Nat)
deriving DecidableEq, Repr

/-- A piece of a request that has not landed: `len` bytes from a global address to each of `dsts`; how many bytes have been
read, those delivered with their offsets, and whether they are in a span queue. -/
structure Piece where
  src : Nat
  dsts : List Nat
  len : Nat
  rd : Nat
  got : List (Nat × Byte)
  span : Bool
deriving DecidableEq, Repr

/-- An outstanding request on a tag (R78), numbered in launch order; `cut` once its pieces stand (those of a take are
formed when its entries have been written, R225); `failed` once a record has ended it while its other granules still
land (R174); `list` is the address of its index list where that lies in a far-tier window (R181). -/
structure Request where
  id : Nat
  tag : Nat
  kind : ReqKind
  pieces : List Piece
  cut : Bool
  allocate : Bool
  failed : Bool
  bidx : Nat
  list : Option Nat
deriving DecidableEq, Repr

/-- A program stream-in in progress (R49). -/
structure StreamJob where
  src : Nat
  next : Nat
  left : Nat
deriving DecidableEq, Repr

/-- A deadline fence a context waits on (R79). -/
structure FenceWait where
  tag : Nat
  bound : Nat
  cn : Nat
  cv : Bool
  waited : Nat
deriving DecidableEq, Repr

/-- A stream context (R29). The loop and hinge stacks have their innermost entry first; `sample` is what a hinge
bundle's last issue sampled (R83), `spanDone` and `fenceDone` say that the current bundle's span fence and
deadline fence have passed, `spanFull` that its full-queue stall has been reported, `late` that its span
fence is late (R28), `pastBrk` that it resumed from its breakpoint, `dhalt` that it debug-halts at its
next boundary, `saveStop` that it stands at an armed save point (R295); `joining` is the open hinge whose JOIN is selected
and has not issued (R90), and `tclk` counts the cycles of the hemisphere that count towards R28. -/
structure Ctx where
  state : CtxState
  phase : CtxPhase
  bidx : Nat
  rptLeft : Nat
  icount : Nat
  cyc : Nat
  part : Nat
  loops : List LoopEntry
  hinges : List HingeEntry
  conds : NatMap
  tokens : NatMap
  tb : NatMap
  inflight : List Delayed
  requests : List Request
  tagErr : List Nat
  streams : List StreamJob
  fence : Option FenceWait
  waited : Nat
  late : Bool
  spanDone : Bool
  fenceDone : Bool
  dhalt : Bool
  stepping : Bool
  pastBrk : Bool
  spanFull : Bool
  sample : Nat
  saveStop : Bool
  joining : Option HingeEntry
  tclk : Nat
deriving DecidableEq, Repr

/-- A wedge tile buffer (R159): for each MAC step the input codes by position and the weight codes by
channel; the ready cycle once its
last MAC step has issued; once ready, the output codes by channel and position; the write steps taken; its
place (R157), its buffer and the descriptor as copied. -/
structure WedgeTile where
  steps : List (List Nat × List Nat)
  ready : Option Nat
  out : List (List Nat)
  written : Nat
  wo0 : Nat
  ho : Nat
  block : Nat
  buf : Nat
  desc : Nat
  site : NevSite
deriving DecidableEq, Repr

/-- The wedge cell of a facet: pass number, step within the pass, and two tile buffers (R157, R159). -/
structure WedgeCell where
  pass : Nat
  step : Nat
  cur : Option WedgeTile
  tiles : List WedgeTile
deriving DecidableEq, Repr

/-- A job of a hemisphere's box unit (R161, R164): the words it has read of scores, deltas and anchors. -/
structure BoxJob where
  slot : Nat
  d : Nat
  facet : Nat
  desc : Nat
  done : Nat
  scr : List Nat
  dlt : List Nat
  anc : List Nat
  out : List Byte
  hits : List NevHit
  site : NevSite
deriving DecidableEq, Repr

/-- A span token under way to a hemisphere (R26), with the cycle count of the receiving context at its send (R28). -/
structure SpanToken where
  src : CtxId
  part : Nat
  tsid : Nat
  bidx : Nat
  sent : Nat
deriving DecidableEq, Repr

/-- An entry of a span queue (R24): the transfer of one sending cycle: its tokens, and of each piece it carries the request
and the source address. -/
structure SpanEntry where
  tokens : List SpanToken
  data : List (Nat × Nat)
deriving DecidableEq, Repr

/-- The current cycle of a hemisphere: who has acted in it (context n as n, the DMA ports of local facet f as
8 + f); the stall that its collisions have laid on it so far (R21); bytes sent over the span by each sector, and whether
they or a token have taken an entry of the queue (R24); and whether a send stands before a full queue. -/
structure HemiSt where
  acted : List Nat
  stall : Nat
  sent : NatMap
  entry : Bool
  full : Bool
deriving DecidableEq, Repr

/-- A staging-cache line: set, way and line address, and whether SDROP marked it (R176). -/
structure StageLine where
  set : Nat
  way : Nat
  line : Nat
  drop : Bool
deriving DecidableEq, Repr

/-- What the device holds of a queue pair beyond its registers (R259 to R268, R274). -/
structure QueueSt where
  head : Nat
  tail : Nat
  cqIdx : Nat
  cqHead : Nat
  phase : Bool
  posted : Nat
  deferred : Bool
  unsignalled : Nat
  closing : Option Nat
  owed : List (List Byte)
  held : List (Nat × Nat × Nat)
deriving DecidableEq, Repr

/-- A fetched command that lacks its final completion (R265, R267): the 128 B entry and the parameter
buffer as fetched, whether it has started, whether its interim completion has been posted, and whether its
completions are discarded (R256). -/
structure FetchedCmd where
  seq : Nat
  q : Nat
  sqhd : Nat
  entry : List Byte
  buf : List Byte
  started : Bool
  interim : Bool
  mute : Bool
deriving DecidableEq, Repr

/-- A hinge that the kernel library places: the fields of its bundle and of its branch table that a profile sets (Tables
04-1, 04-5, 04-6); `branches` says for values 0 to 3 what the successor is: none, EMPTY, or a branch. -/
structure KernelHinge where
  cn : Nat
  isOpen : Bool
  log : Bool
  align16 : Bool
  len : Nat
  branches : List (Option Bool)
deriving DecidableEq, Repr

/-- A step of the program that the kernel library builds from a profile: an op with the fields that the profile sets, in a
bundle of rpt + 1 issues; a prism or wedge descriptor that it installs; or a hinge. Register numbers, local addresses and the
placing in bundles are the library's own (log 7). -/
inductive KernelStep where
  | op (i : Instr) (rpt : Nat)
  | prismDesc (v : Nat)
  | wedgeDesc (v : Nat)
  | hinge (x : KernelHinge)
deriving DecidableEq, Repr

/-- What a program's START_PROGRAM or KERNEL_RUN waits for (R54), and what a kernel leaves in memory and in the dispatch
counters of its facets when its completion is due (log 7). -/
structure ProgramWait where
  seq : Nat
  p : Nat
  leaves : List (Nat × Byte) := []
  counters : List (Nat × Nat) := []
deriving DecidableEq, Repr

/-- The packet that a frame of the Barrov or RoCE transport travels in (10_barrov_network.md, The Barrov transport). -/
structure NetHdr where
  v6 : Bool
  sip : Nat
  dip : Nat
  smac : Nat
  dmac : Nat
  vid : Nat
  dscp : Nat
  sport : Nat
  dport : Nat
deriving DecidableEq, Repr

/-- A transmitted frame: its port; TYPE of the Barrov header, or a number above 0x80 for the other kinds (log 88); group
index, epoch, receiver's rank, STRIPE, SEQ, FLAGS, payload as on the wire, OP, GID, SRC, DTYPE, OFF, the bytes a FAR_REQ asks for and GCM tag (Table 10-2,
R197, R198); its packet and ECN codepoint; the association and packet number that protect it (R189); its timestamp (R194). -/
structure SentFrame where
  port : Nat
  ftype : Nat
  g : Nat
  epoch : Nat
  peer : Nat
  stripe : Nat
  seq : Nat
  flags : Nat
  payload : List Byte
  op : Nat := 0
  gid : Nat := 0
  src : Nat := 0
  dtype : Nat := 0
  off : Nat := 0
  want : Nat := 0
  gcmTag : BitVec 128 := 0
  net : Option NetHdr := none
  ecn : Nat := 2
  sec : Option (Nat × Nat) := none
  stamp : Nat := 0
deriving DecidableEq, Repr

/-- A stripe of the messages between this member and a peer at one epoch (R193, R197): what it carries and from which byte
of the message, frames to send, first unacknowledged frame, retries of it, port, whether an RNR retry is due, rate in Mb/s
and the time of its last reduction; next frame expected, frames received since the last ACK, whether that ACK will echo CE,
and the bytes received by their place in the message. -/
structure StripeSt where
  id : StripeId
  data : List Byte
  off : Nat
  frames : Nat
  acked : Nat
  retries : Nat
  port : Nat
  rnr : Bool
  rate : Nat
  cutAt : Nat
  expect : Nat
  sinceAck : Nat
  ce : Bool
  got : List (Nat × Byte)
deriving DecidableEq, Repr

/-- What an RDV frame says of a member's op (R201). -/
structure Rdv where
  g : Nat
  epoch : Nat
  rank : Nat
  op : Nat
  dtype : Nat
  len : Nat
  slot : Nat
  root : Nat
  nmem : Nat
deriving DecidableEq, Repr

/-- The PARITY command that a parity chord runs for, its data members and parity members (R205). -/
structure ParityRun where
  seq : Nat
  n : Nat
  r : Nat
deriving DecidableEq, Repr

/-- A launched Barrov op or parity chord (R200, R201, R205): `waiting` beyond 8 epochs in flight, `begun` its rendezvous,
`data` its data phase; the ranks whose RDV has arrived and those it has exchanged frames with; its contribution once read,
what has arrived of one that lies with a peer, and the ranks to which its message has gone. -/
structure BarrovJob where
  g : Nat
  epoch : Nat
  op : Nat
  c : CtxId
  o : BarrovOp
  src : Nat
  dst : Nat
  len : Nat
  bidx : Nat
  icount : Nat
  waiting : Bool
  begun : Bool
  data : Bool
  heard : List Nat
  met : List Nat
  own : Option (List Byte) := none
  far : List (Nat × Byte) := []
  sent : List Nat := []
  parity : Option ParityRun := none
deriving DecidableEq, Repr

/-- A work request of a queue pair: the ring and sample it fetches for, address and key at the peer, length, its packet
sequence number once it is outstanding (R195). -/
structure WorkReq where
  ring : Nat
  sidx : Nat
  va : Nat
  rkey : Nat
  len : Nat
  psn : Option Nat
deriving DecidableEq, Repr

/-- A RoCE queue pair context (R195). -/
structure Qp where
  idx : Nat
  part : Nat
  rqpn : Nat
  psn : Nat
  mtu : Nat
  path : Nat
  maxRetries : Nat
  retries : Nat
  error : Bool
  rate : Nat
  cutAt : Nat
  cnpAt : Nat
  wrs : List WorkReq := []
deriving DecidableEq, Repr

/-- An event message with its sequence number and timestamp (R194). -/
structure PtpStamp where
  msg : PtpMsg
  seq : Nat
  time : Nat
deriving DecidableEq, Repr

/-- The moving parts of a port (R187 to R194): its transmit packet number and association, whether that is exhausted; the
keys of its transmit and receive associations and their next packet numbers received; buffer occupancy by priority, the
pauses received and sent, the priorities whose pauses it ignores; frames held back; the second of its last error records; the
event messages received, and the timestamp of the last frame. -/
structure PortSt where
  txPn : Nat
  assoc : Nat
  exhausted : Bool
  txKeys : List (Nat × BitVec 256)
  rxKeys : List (Nat × BitVec 256)
  rxPn : NatMap
  occ : NatMap
  pauseRx : List Nat
  pauseTx : List Nat
  ignoring : List Nat
  queued : List SentFrame
  errAt : NatMap
  stamps : List PtpStamp
  lastRx : Nat
deriving DecidableEq, Repr

/-- An entry of a substitution log (R230): type, reason, sample index, and the two fields whose meaning the type
gives. -/
structure LogEnt where
  kind : Nat
  reason : Nat
  sidx : Nat
  x : Nat
  y : Nat
deriving DecidableEq, Repr

/-- A shard queued or active on a ring (R210, R230): descriptor and spare tables with their counts, log buffer and
capacity; the next sample to pack, the next spare to use and the next one as far as packed segments go; entries
logged, segments packed up to (sample and frame); where packing starts after a restore (frame and token offset);
the log entries still to replay, and the last segment they cover; and the command. -/
structure Shard where
  id : Nat
  descs : Nat
  count : Nat
  spares : Nat
  nspare : Nat
  log : Nat
  cap : Nat
  pack : Nat
  spareNext : Nat
  sparePack : Nat
  logged : Nat
  hwm : Option (Nat × Nat)
  fromFrame : Nat
  fromTok : Nat
  replay : List LogEnt
  replayHwm : Option (Nat × Nat)
  ending : Bool
  seq : Nat
deriving DecidableEq, Repr

/-- A packed token: its bytes, kind, crop index and position (R223). -/
structure Token where
  bytes : List Byte
  kind : Nat
  crop : Nat
  pos : Nat
deriving DecidableEq, Repr

/-- A segment ready to be packed, or a part of one packed into a row (Table 11-7), with the log entries that land
before it (R230). -/
structure Segment where
  sidx : Nat
  reason : Nat
  subst : Bool
  contIn : Bool
  contOut : Bool
  roi : Bool
  ncrop : Nat
  spare : Nat
  frame : Nat
  ftag : Nat
  roitag : Nat
  tokens : List Token
  log : List LogEnt
deriving DecidableEq, Repr

/-- A row closed by the packer (R224, R225), with the log position, next spare and frame tag at its first
segment (R231). -/
structure Row where
  rseq : Nat
  shard : Nat
  last : Bool
  segs : List Segment
  logptr : Nat
  spareNext : Nat
  ftag : Nat
deriving DecidableEq, Repr

/-- An ROI list: its tag and its corners (R226). -/
structure RoiList where
  tag : Nat
  corners : List (Nat × Nat)
deriving DecidableEq, Repr

/-- What the device holds of a staging ring beyond its registers (R210, R223 to R232): shards, active one first;
the open row and the row number it will have; rows closed and not written; rows written and not released;
segments ready and not packed, by sample, and the scratch that samples hold until they are packed; the frame-tag count; ROI lists read, newest first, and posted
(address, count, tag). -/
structure Ring where
  shards : List Shard
  openSegs : List Segment
  openLog : Nat
  openSpare : Nat
  openFtag : Nat
  rseq : Nat
  rows : List Row
  landed : List Row
  done : List (Nat × List Segment)
  held : List (Nat × Nat)
  ftag : Nat
  rois : List RoiList
  posted : List (Nat × Nat × Nat)
deriving DecidableEq, Repr

/-- What the headers of a stream say (R215, R217): the coding process or profile as its standard numbers it, its level in tenths,
whether it is an elementary stream of its codec; size, bit depth, colour components and chroma subsampling; channels, rate and
the samples claimed of each channel. -/
structure StreamInfo where
  profile : Nat
  level : Nat
  elementary : Bool
  width : Nat
  height : Nat
  depth : Nat
  comps : Nat
  subW : Nat
  subH : Nat
  channels : Nat
  rate : Nat
  samples : Nat
deriving DecidableEq, Repr

/-- How the planes of a decoded frame spell colour (R219 step 1): grey, R G B, JFIF, or luma and chroma under a matrix that the
VUI numbers, of full range or not. Planes after the colour ones are alpha. -/
inductive ColourForm where
  | grey
  | rgb
  | jfif
  | video (matrix : Nat) (full : Bool)
deriving DecidableEq, Repr

/-- A decoded frame: size, bit depth, colour form, chroma subsampling, and its planes in row-major order. -/
structure Raster where
  w : Nat
  h : Nat
  depth : Nat
  form : ColourForm
  subW : Nat
  subH : Nat
  planes : List (List Nat)
deriving DecidableEq, Repr

/-- A sample in progress (R213, R214, R228, R233): stage 1 started, 2 fetched, 3 parsed; class, scratch reserved,
spare in use, log entries made for it, descriptor, plaintext, frames decoded, its first frame tag, fetches retried in
replay, whether a segment has been emitted, and ns spent on its engine. -/
structure Sample where
  id : SampleId
  stage : Nat
  cls : Nat
  scratch : Nat
  spare : Nat
  log : List LogEnt
  desc : List Byte
  plain : List Byte
  frames : Nat
  firstTag : Nat
  tries : Nat
  emitted : Bool := false
  spent : Nat := 0
deriving DecidableEq, Repr

/-- A session or owner's keys (Table 12-1), its lockouts so far, and how many sessions were opened before it. -/
structure Principal where
  k : Nat
  kek : BitVec 256
  mac : BitVec 256
  lockouts : Nat
  born : Nat
deriving DecidableEq, Repr

/-- A report waiting for SESSION_OPEN (R240). -/
structure Report where
  idx : Nat
  part : Nat
  decaps : BitVec 256
  digest : BitVec 256
  expired : Bool
deriving DecidableEq, Repr

/-- A SEAL or UNSEAL running on a sealing engine (R245). -/
structure SealJob where
  seq : Nat
  p : Nat
  isUnseal : Bool
  slot : Nat
  dst : Nat
  len : Nat
  bytes : List Byte
  ok : Bool
deriving DecidableEq, Repr

/-- A partition's saved image (R285): the context state of each hemisphere and the facet state of its
sectors as it stood when saved, with those sectors and the save count it is sealed under. -/
structure SavedImage where
  p : Nat
  sectors : Nat
  count : Nat
  ctxs : List (Nat × Ctx)
  ls : Memory
  vregs : NatMap
  pregs : NatMap
  aregs : NatMap
  accs : List (Nat × AccSet)
  pds : NatMap
  pvs : NatMap
  wds : NatMap
  cells : List (Nat × WedgeCell)
  dcnt : NatMap
  rng : NatMap
  istore : NatMap
  fill : NatMap
  regs : NatMap
  boxes : List (Nat × BoxJob)
deriving DecidableEq, Repr

/-- What a partition's stop and drain are for (R283 steps 1 to 3). -/
inductive DrainGoal where
  | none
  /-- its slice has ended, or it is parked -/
  | switch
  /-- PARTITION_DESTROY (R287) -/
  | destroy
  /-- PARTITION_RESET (R358) -/
  | reset
deriving DecidableEq, Repr

/-- What the device holds of a partition beyond its registers (R279 to R287): its pre-emption key and save count; what
it is being stopped for; the ways (hemisphere, to add, to return) that PRT_WAYS has asked for its next residency; µs to
take from its next slice; the sectors that its destruction still zeroises; and the command that waits for the stop or
the zeroisation. -/
structure PartSt where
  preKey : BitVec 256
  saves : Nat
  goal : DrainGoal
  ways : List (Nat × Nat × Nat)
  cut : Nat
  zeroing : Nat
  cmd : Option Nat
deriving DecidableEq, Repr

/-- A region of a save plan (R293): address, length, protection, group, rank, n, r. -/
structure Region where
  addr : Nat
  len : Nat
  prot : Nat
  grp : Nat
  rank : Nat
  n : Nat
  r : Nat
deriving DecidableEq, Repr

/-- A save slot's contents (R292, R296): its identifier, the sealed shards and the digests by OID, the tiers it stands in,
divergent shards, the context shard, and the sidecar items of Table 15-3: register values (the step words at 1 and 2),
log buffers by ring, program digests; the save cost in µs, the plan it was made under, and the time base at its save point. -/
structure SaveSlot where
  saveId : Nat
  shards : List (Nat × List Byte)
  digests : List (Nat × BitVec 256)
  tiers : Nat
  divergent : List Nat
  image : Option SavedImage
  side : NatMap
  logs : List (Nat × List Byte)
  programs : List (BitVec 256)
  cost : Nat
  plan : List Region
  made : Nat
deriving DecidableEq, Repr

/-- What the device holds of a partition's resilience state (R293 to R302). -/
structure Psv where
  rank : Nat
  plan : List Region
  saves : List SaveSlot
  current : Option SaveSlot
  cmd : Option Nat
  target : Nat
  maxId : Nat
  background : List (Nat × Nat)
  firstSave : Bool
  lastFail : Option Nat
  programs : List (BitVec 256)
deriving DecidableEq, Repr

/-- A sample captured by a PMU slot and not delivered (R311): the slot, the context and its partition, the bundle index and
ICOUNT of the issue. -/
structure PmuSample where
  slot : PmuSlot
  h : Nat
  n : Nat
  part : Nat
  bidx : Nat
  icount : Nat
deriving DecidableEq, Repr

/-- A firmware image kind's banks (R323, R360): contents of banks A and B, active bank, NEXT mark. -/
structure FwBank where
  kind : Nat
  a : List Byte
  b : List Byte
  active : Bool
  next : Bool
  staged : Bool
deriving DecidableEq, Repr

/-- Custody state (12_custody.md): epoch fuses blown, leaves used of the tree in use, whether that tree was opened since
the last cold reset; SVN_MIN, revoked roots and the kill fuse; principals, reports, keys in slots, slots being erased
with their commands, running SEALs and UNSEALs, draws of the DRBG so far, and a DEBUG_UNLOCK that waits for zeroisation; the sessions opened so
far, and by slot how many had been opened before the one that installed it (R244). -/
structure Cus where
  epoch : Nat
  leaf : Nat
  signedSinceCold : Bool
  svnMin : Nat
  revoked : Nat
  killFuse : Bool
  principals : List Principal
  reports : List Report
  slotKeys : List (Nat × BitVec 256)
  erasing : List (Nat × Nat)
  seals : List SealJob
  draws : Nat
  unlock : Option Nat
  opened : Nat
  slotBy : NatMap
deriving DecidableEq, Repr

/-- Host-queue state (13_host_queues.md). -/
structure Hq where
  nextSeq : Nat
  queues : List (Nat × QueueSt)
  fetched : List FetchedCmd
  programs : List ProgramWait
  turnClass : Nat
  turnLeft : Nat
  burstLeft : NatMap
  lastServed : NatMap
  msix : NatMap
  msixMask : NatMap
  msixPend : NatMap
  dbRec : Option Nat
deriving DecidableEq, Repr

/-- Barrov state (10_barrov_network.md). -/
structure Brv where
  jobs : List BarrovJob
  stripes : List StripeSt
  sent : List SentFrame
  qps : List Qp
  regions : List (Nat × Nat × Nat)
  ports : List (Nat × PortSt)
  early : List Rdv
  aborted : List (Nat × Nat)
deriving DecidableEq, Repr

/-- Ingest state (11_ingest.md). -/
structure Ing where
  rings : List (Nat × Ring)
  samples : List Sample
  credit : NatMap
  nextPart : NatMap
  times : List (Nat × List Nat)
  dicts : List (Nat × List Byte)
deriving DecidableEq, Repr

/-- An access that met a pseudo-channel under repair and waits for its end (R184): the completion of a request by its
number, a host access through BAR 4 with the base in force at its acceptance (R383), the landing of a streamed bundle, the completion of a Barrov op, a read of a granule,
and a write of part of one. -/
inductive HeldAccess where
  | request (h n id : Nat)
  | bar4 (base : Nat) (o : Bar4Op)
  | stream (h n : Nat)
  | barrov (g epoch : Nat)
  | granule (a : Nat) (errs : SymErrs)
  | part (a : Nat) (bytes : List Byte) (errs : SymErrs)
deriving DecidableEq, Repr

/-- Rim-memory controller state (09_memory_tiers.md). -/
structure Mem where
  errs : List (Nat × SymErrs)
  held : List HeldAccess
  scrub : NatMap
  rows : List (Nat × List (Nat × Nat))
  repairs : List (Nat × Nat)
  repairing : List (Nat × Nat × Nat)
  spares : NatMap
  lines : List StageLine
  plru : NatMap
  flash : Memory
deriving DecidableEq, Repr

/-- The states of the TAP controller of IEEE 1149.1. -/
inductive TapSt where
  | testLogicReset | runTestIdle
  | selectDr | captureDr | shiftDr | exit1Dr | pauseDr | exit2Dr | updateDr
  | selectIr | captureIr | shiftIr | exit1Ir | pauseIr | exit2Ir | updateIr
deriving DecidableEq, Repr

/-- The JTAG TAP (R252, R373): its controller, the instruction in force, the shift register with the bit nearest TDO first, what
the last Update-DR holds, and TDO, none where it is high-impedance. -/
structure Tap where
  st : TapSt
  ir : Option (List Bool)
  shift : List Bool
  held : List Bool
  tdo : Option Bool
deriving DecidableEq, Repr

/-- An answer on a management path (R322, R376): data, a refusal by an error code, or no acknowledgement on the SMBus. -/
inductive Reply where
  | data (b : List Byte)
  | error
  | nack
deriving DecidableEq, Repr

/-- Clock, power and boot state (18 to 20), the part as shipped (R2) and the management paths (R322, R373, R376). -/
structure Sysctl where
  tb : Nat
  tbFrac : Nat
  negStep : Nat
  refWindows : NatMap
  pllWindows : NatMap
  relocks : NatMap
  ptpGood : Nat
  railsUp : Bool
  inputOn : Bool
  railLatched : Bool
  thermtrip : Bool
  inputBad : Bool
  chatterHeld : Bool
  brakeSecs : Nat
  throttled : List Nat
  thrTicks : Nat
  heldGov : List (Nat × Nat)
  fillSat : Bool
  pwrbrkHigh : Bool
  perstHigh : Bool
  stages : List Nat
  ended : List Nat
  coldBoot : Bool
  warmPending : Option Nat
  bootProfile : Nat
  banks : List FwBank
  ceilFlash : Nat
  ownerFlash : Option (BitVec 256 × BitVec 256 × Nat)
  attFlash : Nat × Nat × Bool
  coreRecent : NatMap
  testing : NatMap
  carve : Nat
  pldm : Option (Fin 5)
  snapCmd : Option Nat
  snapHeld : List Nat
  bw : NatMap
  variant : Nat
  slotId : Nat
  tap : Tap
  reply : Option Reply
deriving DecidableEq, Repr

/-- The device: everything but the command queue. -/
structure Dev where
  regs : NatMap
  ctxs : List (Nat × Ctx)
  istore : NatMap
  fill : NatMap
  spanQ : List (Nat × List SpanEntry)
  hemis : List (Nat × HemiSt)
  box : List (Nat × BoxJob)
  ls : Memory
  vregs : NatMap
  pregs : NatMap
  aregs : NatMap
  accs : List (Nat × AccSet)
  pds : NatMap
  pvs : NatMap
  wds : NatMap
  cells : List (Nat × WedgeCell)
  dcnt : NatMap
  rng : NatMap
  claims : List (Nat × List Nat)
  nextReq : Nat
  rim : Memory
  hostMem : Memory
  images : List SavedImage
  mem : Mem
  brv : Brv
  ing : Ing
  cus : Cus
  hq : Hq
  parts : List (Nat × PartSt)
  psv : List (Nat × Psv)
  nevRing : List (Nat × List (List Byte))
  smpRing : List (Nat × List (List Byte))
  samples : List PmuSample
  sys : Sysctl
  fresh : Nat
deriving DecidableEq, Repr

/-- The machine: the device and the queue of waiting commands, first in, first out. -/
structure State where
  dev : Dev
  pending : List Instr
deriving DecidableEq, Repr

/-- The TAP in Test-Logic-Reset, with TDO high-impedance and the instruction that this state puts in force. -/
def Tap.inReset : Tap where
  st := .testLogicReset
  ir := none
  shift := []
  held := []
  tdo := none

/-- A context that no partition holds (STATE 0, R58). -/
def Ctx.absent : Ctx where
  state := .absent
  phase := .boundary
  bidx := 0
  rptLeft := 0
  icount := 0
  cyc := 0
  part := 0
  loops := []
  hinges := []
  conds := []
  tokens := []
  tb := []
  inflight := []
  requests := []
  tagErr := []
  streams := []
  fence := none
  waited := 0
  late := false
  spanDone := false
  fenceDone := false
  dhalt := false
  stepping := false
  pastBrk := false
  spanFull := false
  sample := 0
  saveStop := false
  joining := none
  tclk := 0

/-- A hemisphere in whose first cycle nothing has acted. -/
def HemiSt.start : HemiSt where
  acted := []
  stall := 0
  sent := []
  entry := false
  full := false

/-- An accumulator set after reset: every total +0, FP32 mode, no chunk open (log 2). -/
def AccSet.zero : AccSet where
  base := 0
  totals := []
  intMode := false
  issued := 0
  gen := 0
  kcnt := 0
  chunk := []
  sliceA := []
  sliceB := []
  stepsA := []
  vals := []
  metas := []
  scl := []

/-- An idle wedge cell (R157). -/
def WedgeCell.idle : WedgeCell where
  pass := 0
  step := 0
  cur := none
  tiles := []

/-- A queue pair whose SQ and CQ are disabled (R261). -/
def QueueSt.off : QueueSt where
  head := 0
  tail := 0
  cqIdx := 0
  cqHead := 0
  phase := true
  posted := 0
  deferred := false
  unsignalled := 0
  closing := none
  owed := []
  held := []

/-- A port that is down (R187). -/
def PortSt.down : PortSt where
  txPn := 0
  assoc := 0
  exhausted := false
  txKeys := []
  rxKeys := []
  rxPn := []
  occ := []
  pauseRx := []
  pauseTx := []
  ignoring := []
  queued := []
  errAt := []
  stamps := []
  lastRx := 0

/-- A shard with nothing in it. -/
def Shard.none : Shard where
  id := 0
  descs := 0
  count := 0
  spares := 0
  nspare := 0
  log := 0
  cap := 0
  pack := 0
  spareNext := 0
  sparePack := 0
  logged := 0
  hwm := Option.none
  fromFrame := 0
  fromTok := 0
  replay := []
  replayHwm := Option.none
  ending := false
  seq := 0

/-- A staging ring that is not configured (R223). -/
def Ring.none : Ring where
  shards := []
  openSegs := []
  openLog := 0
  openSpare := 0
  openFtag := 0
  rseq := 0
  rows := []
  landed := []
  done := []
  held := []
  ftag := 0
  rois := []
  posted := []

/-- A partition number with no partition. -/
def PartSt.none : PartSt where
  preKey := 0
  saves := 0
  goal := DrainGoal.none
  ways := []
  cut := 0
  zeroing := 0
  cmd := Option.none

/-- A partition with no resilience state. -/
def Psv.none : Psv where
  rank := 0
  plan := []
  saves := []
  current := Option.none
  cmd := Option.none
  target := 0
  maxId := 0
  background := []
  firstSave := true
  lastFail := Option.none
  programs := []

/-- The device after a cold reset, at boot stage 0x1 (R353, R359, R364): every register at the value
its table gives (Machine/Regs.lean), every memory and array empty (log 1 to 3). -/
def Dev.reset : Dev where
  regs := []
  ctxs := []
  istore := []
  fill := []
  spanQ := []
  hemis := []
  box := []
  ls := []
  vregs := []
  pregs := []
  aregs := []
  accs := []
  pds := []
  pvs := []
  wds := []
  cells := []
  dcnt := []
  rng := []
  claims := []
  nextReq := 0
  rim := []
  hostMem := []
  images := []
  mem := { errs := [], held := [], scrub := [], rows := [], repairs := [], repairing := [], spares := [], lines := [],
           plru := [], flash := [] }
  brv := { jobs := [], stripes := [], sent := [], qps := [], regions := [], ports := [], early := [], aborted := [] }
  ing := { rings := [], samples := [], credit := [], nextPart := [], times := [], dicts := [] }
  cus := { epoch := 0, leaf := 0, signedSinceCold := false, svnMin := 0, revoked := 0, killFuse := false,
           principals := [], reports := [], slotKeys := [], erasing := [], seals := [], draws := 0,
           unlock := none, opened := 0, slotBy := [] }
  hq := { nextSeq := 0, queues := [], fetched := [], programs := [], turnClass := 3, turnLeft := 0,
          burstLeft := [], lastServed := [], msix := [], msixMask := [], msixPend := [], dbRec := none }
  parts := []
  psv := []
  nevRing := []
  smpRing := []
  samples := []
  sys := { tb := 0, tbFrac := 0, negStep := 0, refWindows := [], pllWindows := [], relocks := [], ptpGood := 0,
           railsUp := true, inputOn := true, railLatched := false, thermtrip := false,
           inputBad := false, chatterHeld := false, brakeSecs := 0, throttled := [], thrTicks := 0, heldGov := [], fillSat := false,
           pwrbrkHigh := true, perstHigh := false, stages := [1], ended := [],
           coldBoot := true, warmPending := none, bootProfile := 0, banks := [], ceilFlash := 0x4B0,
           ownerFlash := none, attFlash := (0, 0, true), coreRecent := [], testing := [], carve := 8,
           pldm := none, snapCmd := none, snapHeld := [], bw := [], variant := 0, slotId := 7,
           tap := Tap.inReset, reply := none }
  fresh := 0

/-- The machine right after reset: the device after a cold reset and no command waiting. -/
def State.reset : State where
  dev := Dev.reset
  pending := []

end Sys2Proof.Machine
end

