-- ==== Sys2Proof/Config.lean ====
section
/-! DEFINITION. What the model leaves uninterpreted: the free values and the functions of named standards
whose text is outside the spec. Every constant here is opaque and has no body, so nothing proved can
rest on a value of one (log entries 5, 6 and 7). -/

namespace Sys2Proof.Config

/-- A fresh free value, 32 bits at a time (log 5). -/
opaque free : Nat → BitVec 32

/-- A fresh random draw of the custody DRBG (12_custody.md, Key hierarchy; log 6). -/
opaque drbg : Nat → BitVec 256

/-- SHA-256 of a byte string (log 6). -/
opaque sha256 : List Byte → BitVec 256

/-- HMAC-SHA-256 of a byte string under a key (R249; log 6). -/
opaque hmac : BitVec 256 → List Byte → BitVec 256

/-- HKDF-Expand after HKDF-Extract with a salt (R241; log 6). -/
opaque hkdf : BitVec 256 → BitVec 256 → List Byte → BitVec 256

/-- AES-256-GCM encryption: key, nonce, additional data, plaintext; ciphertext and tag (log 6). -/
opaque gcmEnc : BitVec 256 → BitVec 96 → List Byte → List Byte → List Byte × BitVec 128

/-- AES-256-GCM decryption: the plaintext if the tag passes (log 6). -/
opaque gcmDec : BitVec 256 → BitVec 96 → List Byte → List Byte → BitVec 128 → Option (List Byte)

/-- AES-256-GCM decryption without the tag check, as plaintext lands before it (R245; log 6). -/
opaque gcmPlain : BitVec 256 → BitVec 96 → List Byte → List Byte → List Byte

/-- RFC 3394 key unwrap: key-encryption key and 40 B wrapped key (R242; log 6). -/
opaque unwrap : BitVec 256 → List Byte → Option (BitVec 256)

/-- ML-KEM-1024 key generation from a seed: encapsulation key and decapsulation key (R240; log 6). -/
opaque mlkemKeygen : BitVec 256 → List Byte × BitVec 256

/-- ML-KEM-1024 decapsulation, with implicit rejection (R241; log 6). -/
opaque mlkemDecaps : BitVec 256 → List Byte → BitVec 256

/-- HSS signature by level-1 tree and leaf over a message (R239; log 6). -/
opaque hssSign : Nat → Nat → List Byte → List Byte

/-- The attestation public key and certificate (R238, ATT_CERT; log 6). -/
opaque attCert : List Byte

/-- The vendor root index an image or statement names (R237; log 6). -/
opaque imageRoot : List Byte → Nat

/-- Whether the embedded key matches the fused hash of its root and the signature verifies
(R237 steps 3 and 4; log 6). -/
opaque imageSigned : List Byte → Bool

/-- The security version number of an image (R237; log 6). -/
opaque imageSvn : List Byte → Nat

/-- The vendor root that a revocation statement names for revocation (R238; log 6). -/
opaque revokedRoot : List Byte → Nat

/-- The program images that spell the steps of a kernel, one per hemisphere held, for a partition's sectors (R276; their
text is the kernel library's; log 7). -/
opaque kernelImages : List Machine.KernelStep → Nat → List (List Byte)

/-- An optimiser's new weight and states, in FP32, from its constants, the weight, the gradient and the old states (R133 gives
no update rule; log 7). -/
opaque optStep : List Nat → Nat → Nat → Nat → Nat → Nat × Nat × Nat

/-- NFC normalisation of UTF-8 text (R222; log 7). -/
opaque nfc : List Byte → List Byte

/-- What the headers of a stream of a codec say, none where they are malformed (R215, R217; log 7). -/
opaque header : Nat → List Byte → Option Machine.StreamInfo

/-- The frames of a stream of a codec, one for an image (R217; log 7). -/
opaque frames : Nat → List Byte → Nat

/-- Frame `k` in display order of a stream of a codec as its standard decodes it; else whether a feature outside its profile was
met, where the stream is not malformed (R217; log 7). -/
opaque decodeFrame : Nat → List Byte → Nat → Except Bool Machine.Raster

/-- The channels of a FLAC, Opus or MP3 stream as its standard decodes it, in FP32 of full scale 1; else as `decodeFrame`
(R217; log 7). -/
opaque decodeAudio : Nat → List Byte → Except Bool (List (List W32))

/-- Bytes of a far-tier target outside the package: peer rim or host memory as read at some moment
(R179, R180; log 5). -/
opaque farByte : Nat → Nat → Nat → Byte

/-- The bytes a 16 B attestation DEVID holds (Table 12-2; log 6). -/
opaque devId : List Byte

/-- The image that a context shard made by another module spells (R297; its format is not given; log 6). -/
opaque contextOf : List Byte → Option Machine.SavedImage

/-- The register values and log buffers that a sidecar record made by another module spells (R297; log 6). -/
opaque sidecarOf : List Byte → Machine.NatMap × List (Nat × List Byte)

/-- The lane clock in MHz of SPLL_0 to SPLL_2 as their lanes run (Table 18-2 gives no figure; log 5). -/
opaque laneMhz : Nat → Nat

/-- The SAK that an MKA protocol data unit distributes under a CAK (R189, R190; log 109). -/
opaque mkaSak : BitVec 256 → List Byte → Option (BitVec 256)

/-- The SAK that key agreement gives a port with a MACsec link-up, after association number `a` (R189; log 109). -/
opaque linkSak : Nat → Nat → BitVec 256

/-- Whether an ICV of GCM-AES-256-XPN passes under a SAK: SCI, packet number, what it covers, ICV (R189; log 109). -/
opaque icvOk : BitVec 256 → BitVec 64 → BitVec 64 → List Byte → BitVec 128 → Bool

/-- The size of the replay window in packets (R189 gives none; log 109). -/
opaque replayWindow : Nat

/-- The FRU fields written at manufacture that Table 21-7 leaves to the module: serial number, module revision, manufacture date and
MAC base (R376; log 114). -/
opaque fruSerial : List Byte
opaque fruRevision : List Byte
opaque fruDate : List Byte
opaque fruMac : List Byte

/-- A DSP0257 FRU record set of fields in the order of Table 21-7 (R376; its text is outside the spec; log 114). -/
opaque fruRecords : List (List Byte) → List Byte

/-- The answers of GetTID, GetPLDMVersion and GetPLDMCommands (R322; DSP0240's text is outside the spec; log 114). -/
opaque pldmBase : Nat → List Byte

/-- The instruction that Test-Logic-Reset puts in force, as long as the instruction register; what Capture-IR loads above its two
fixed bits; and what Capture-DR loads under an instruction (R373; log 115). -/
opaque tapReset : List Bool
opaque tapCaptureIr : List Bool
opaque tapCaptureDr : List Bool → List Bool

/-- MAC bytes of a sent frame of a type with a payload length (R310 gives one example; log 5). -/
opaque frameBytes : Nat → Nat → Nat

/-- Byte of a partition's reserve, modulo what the template leaves free of save slot 0, at which PSV_PLAN writes the manifest
template (Table 15-6 names no place; log 103). -/
opaque templateAt : Nat → Nat

/-- The plaintext of a context shard, and of a sidecar record over its registers, logs and program digests (R297 gives no layout;
log 6). -/
opaque contextShard : Machine.SavedImage → List Byte
opaque sidecarShard : Machine.NatMap → List (Nat × List Byte) → List (BitVec 256) → List Byte

/-- The header of a manifest over SAVE_ID, the step words, the time base at the save point, the shard count and the SHA-256 of
its records (R293 gives its items and no places; log 103). -/
opaque manifestHead : Nat → Nat → Nat → Nat → Nat → BitVec 256 → List Byte

/-- The header of a manifest template over its records, and of no other length than 64 B (R293 gives its items and no places;
log 103). -/
opaque templateHead : List Byte → List Byte

end Sys2Proof.Config
end

