-- ==== Sys2Proof/Machine/Regs.lean ====
section
/-! DEFINITION. The register file of BAR 0 (22_address_map.md, Table 22-2): for every assigned offset the
register that stands there, its width, reset value, fields with their access types (Table 00-6), lock
register and the function that may write it. The offsets are those of BAR 0. -/

namespace Sys2Proof.Machine

/-- Access types of Table 00-6. -/
inductive Acc where
  | ro
  | rw
  | wo
  | w1c
  | w1s
  | rwl
deriving DecidableEq, Repr

/-- A field: its highest and lowest bit and its access type. -/
structure Fld where
  hi : Nat
  lo : Nat
  acc : Acc
deriving DecidableEq, Repr

/-- Which functions reach an instance (R258): the PF alone, or the VF of one partition as well. -/
inductive Reach where
  | pf
  | part (p : Nat)
  | ctx (h n : Nat)
  | facet (f : Nat)
  | port (n : Nat)
  | queue (q : Nat)
  | peer (i : Nat)
deriving DecidableEq, Repr

/-- A register: BAR 0 offset, width in bytes, reset value, fields that are not RO, lock register. -/
structure RegDesc where
  base : Nat
  bytes : Nat
  reset : Nat := 0
  flds : List Fld := []
  lock : Nat := 0
  reach : Reach := .pf
deriving DecidableEq, Repr

/-- Index and remainder of an offset in an array of `n` elements of `stride` bytes. -/
def arrAt (off base stride n : Nat) : Option (Nat × Nat) :=
  if base ≤ off ∧ off < base + stride * n then some ((off - base) / stride, (off - base) % stride) else none

def Fld.rw (hi lo : Nat) : Fld := { hi, lo, acc := .rw }
def Fld.rwl (hi lo : Nat) : Fld := { hi, lo, acc := .rwl }
def Fld.wo (hi lo : Nat) : Fld := { hi, lo, acc := .wo }
def Fld.w1c (hi lo : Nat) : Fld := { hi, lo, acc := .w1c }
def Fld.w1s (hi lo : Nat) : Fld := { hi, lo, acc := .w1s }

/-! ## Offsets -/

def rGlbId : Nat := 0x0
def rGlbSig : Nat := 0x10
def rGovStatus : Nat := 0x10000
def rGovLock : Nat := 0x10004
def rGovCap : Nat := 0x10008
def rGovRamp : Nat := 0x1000C
def rGovBrake : Nat := 0x10010
def rGovTherm : Nat := 0x10014
def rGovPwr : Nat := 0x10018
def rGovVin : Nat := 0x10020
def rGovTemp : Nat := 0x10024
def rGovPace : Nat := 0x10028
def rGovBrakeCnt : Nat := 0x10030
def rGovThrotCnt : Nat := 0x10034
def rClkRef (r : Nat) : Nat := 0x20000 + r * 8
def rClkPll (n : Nat) : Nat := 0x20100 + n * 8
def rClkTpll (h : Nat) : Nat := 0x20200 + h * 8
def rClkGateEn : Nat := 0x20300
def rClkGateOn : Nat := 0x20310
def rClkGateOff : Nat := 0x20320
def rClkGateRef : Nat := 0x20330
def rClkTb : Nat := 0x20400
def rClkTbAdj : Nat := 0x20408
def rClkTbStep : Nat := 0x20410
def rClkTbStat : Nat := 0x20418
def rClkPtpCfg : Nat := 0x20420
def rClkPtpStat : Nat := 0x20428
def rClkLock : Nat := 0x20430
def rBootStatus : Nat := 0x30000
def rBootFw : Nat := 0x30008
def rBootDegr : Nat := 0x30010
def rBootCfg : Nat := 0x30014
def rBootCtrl : Nat := 0x30018
def rBootRcvAddr : Nat := 0x30020
def rBootRcvCtl : Nat := 0x30028
def rCusStatus : Nat := 0x40000
def rCusAtt : Nat := 0x40008
def rCusAuthfail : Nat := 0x40010
def rCusReplay : Nat := 0x40014
def rCusPrin (k : Nat) : Nat := 0x40100 + k * 0x10
def rCusSlot (n : Nat) : Nat := 0x42000 + n * 8
def rCusPol (p : Nat) : Nat := 0x50000 + p * 8
def rHqCap : Nat := 0x80000
def rHqArb : Nat := 0x80008
def rHqDevstat : Nat := 0x80010
def rHqLink : Nat := 0x80014
def rHqEvqDev : Nat := 0x80018
def rHqLock : Nat := 0x8001C
def rHqDbdrop : Nat := 0x80020
def rHqCqfull : Nat := 0x80024
def rHqBar4Base : Nat := 0x80028
def rHqEvdropDev : Nat := 0x80030
def rHqVec (q : Nat) : Nat := 0x90000 + q * 4
def rHqFn (f : Nat) : Nat := 0xA0000 + f * 0x10
def rHqPartEvq (p : Nat) : Nat := 0xB0000 + p * 0x10
def rHqPartStatus (p : Nat) : Nat := 0xB0004 + p * 0x10
def rHqPartEvdrop (p : Nat) : Nat := 0xB0008 + p * 0x10
def rHqSq (q : Nat) : Nat := 0xC0000 + q * 0x10
def rHqCq (q : Nat) : Nat := 0xC0008 + q * 0x10
def rPrtSectRes : Nat := 0x100000
def rPrtCfg (p : Nat) : Nat := 0x110000 + p * 0x100
def rPrtPorts (p : Nat) : Nat := 0x110008 + p * 0x100
def rPrtState (p : Nat) : Nat := 0x110010 + p * 0x100
def rPrtSlice (p : Nat) : Nat := 0x110014 + p * 0x100
def rPrtOverrun (p : Nat) : Nat := 0x110018 + p * 0x100
def rPrtDebt (p : Nat) : Nat := 0x110020 + p * 0x100
def rPrtPimg (p : Nat) : Nat := 0x110024 + p * 0x100
def rNevRbase (p : Nat) : Nat := 0x180000 + p * 0x1000
def rNevRcfg (p : Nat) : Nat := 0x180008 + p * 0x1000
def rNevRhead (p : Nat) : Nat := 0x180010 + p * 0x1000
def rNevRtail (p : Nat) : Nat := 0x180014 + p * 0x1000
def rNevRdrop (p : Nat) : Nat := 0x180018 + p * 0x1000
def rNevCnt (p k : Nat) : Nat := 0x180100 + p * 0x1000 + k * 8
def rNevCap (p k : Nat) : Nat := 0x180200 + p * 0x1000 + k * 0x10
def rIngLock : Nat := 0x200000
def rIngPart (p : Nat) : Nat := 0x210000 + p * 0x1000
def rIngScrBase (p : Nat) : Nat := rIngPart p
def rIngScrSize (p : Nat) : Nat := rIngPart p + 0x8
def rIngBudget (p : Nat) : Nat := rIngPart p + 0x10
def rIngQuota (p k : Nat) : Nat := rIngPart p + 0x20 + k * 8
def rIngRsn (p k : Nat) : Nat := rIngPart p + 0x100 + k * 8
def rIngRingBase (p r : Nat) : Nat := rIngPart p + 0x200 + r * 0x40
def rIngRingCfg (p r : Nat) : Nat := rIngPart p + 0x208 + r * 0x40
def rIngRingMel (p r : Nat) : Nat := rIngPart p + 0x210 + r * 0x40
def rIngRingEsz (p r : Nat) : Nat := rIngPart p + 0x218 + r * 0x40
def rIngRingPtr (p r : Nat) : Nat := rIngPart p + 0x220 + r * 0x40
def rIngCur (p r : Nat) : Nat := rIngPart p + 0x400 + r * 0x40
def rIngDict (p d : Nat) : Nat := rIngPart p + 0x600 + d * 0x10
def rIngLog (p r : Nat) : Nat := rIngPart p + 0x700 + r * 0x10
def rPort (n : Nat) : Nat := 0x400000 + n * 0x10000
def rPortCfg (n : Nat) : Nat := rPort n
def rPortStatus (n : Nat) : Nat := rPort n + 0x4
def rPortPfc (n : Nat) : Nat := rPort n + 0x8
def rPortEcn (n : Nat) : Nat := rPort n + 0xC
def rPortDist (n : Nat) : Nat := rPort n + 0x10
def rPortCnt (n k : Nat) : Nat := rPort n + 0x40 + k * 8
def rBrvCfg : Nat := 0x700000
def rBrvLock : Nat := 0x700004
def rBrvDistThr : Nat := 0x700008
def rBrvCc : Nat := 0x700010
def rBrvTmo : Nat := 0x700014
def rBrvPfcwd : Nat := 0x700018
def rBrvPartAddr (p : Nat) : Nat := 0x710000 + p * 0x80
def rBrvServe (p k : Nat) : Nat := 0x710020 + p * 0x80 + k * 0x10
def rBrvGid (g : Nat) : Nat := 0x720000 + g * 4
def rBrvGrp (g : Nat) : Nat := 0x740000 + g * 0x40
def rBrvPeer (i : Nat) : Nat := 0x780000 + i * 0x20
def rMemCfg : Nat := 0x800000
def rMemLock : Nat := 0x800004
def rMemStk (x : Nat) : Nat := 0x810000 + x * 0x1000
def rMemTemp (x : Nat) : Nat := rMemStk x + 0x8
def rMemUecap (x : Nat) : Nat := rMemStk x + 0x10
def rMemCe (x c : Nat) : Nat := rMemStk x + 0x100 + c * 8
def rMemUe (x c : Nat) : Nat := rMemStk x + 0x104 + c * 8
def rMemWaymap (h : Nat) : Nat := 0x820000 + h * 0x100
def rMemScCorr (h : Nat) : Nat := 0x820010 + h * 0x100
def rMemFwCfg (p w : Nat) : Nat := 0x840000 + p * 0x100 + w * 0x10
def rMemFwTgt (p w : Nat) : Nat := 0x840008 + p * 0x100 + w * 0x10
def rHemi (h : Nat) : Nat := 0x1000000 + h * 0x1000000
def rSeqIsbank (h : Nat) : Nat := rHemi h
def rSeqLock (h : Nat) : Nat := rHemi h + 0x4
def rSeqCollide (h : Nat) : Nat := rHemi h + 0x10
def rSeqTfault (h : Nat) : Nat := rHemi h + 0x14
def rSeqIsCorr (h : Nat) : Nat := rHemi h + 0x18
def rSeqTfaultCap (h : Nat) : Nat := rHemi h + 0x20
def rCtx (h n : Nat) : Nat := rHemi h + 0x10000 + n * 0x1000
def rCtxCtrl (h n : Nat) : Nat := rCtx h n
def rCtxStatus (h n : Nat) : Nat := rCtx h n + 0x8
def rCtxIcount (h n : Nat) : Nat := rCtx h n + 0x10
def rCtxEntry (h n : Nat) : Nat := rCtx h n + 0x18
def rCtxBrk (h n : Nat) : Nat := rCtx h n + 0x20
def rCtxCond (h n : Nat) : Nat := rCtx h n + 0x28
def rCtxHlog (h n : Nat) : Nat := rCtx h n + 0x30
def rCtxHstk (h n k : Nat) : Nat := rCtx h n + 0x40 + k * 0x10
def rCtxLstk (h n k : Nat) : Nat := rCtx h n + 0x100 + k * 8
def rCtxLdesc (h n d : Nat) : Nat := rCtx h n + 0x200 + d * 8
def rCtxBtab (h n t : Nat) : Nat := rHemi h + 0x20000 + n * 0x2000 + t * 0x20
def rFct (f : Nat) : Nat := rHemi (f / 128) + 0x100000 + f % 128 * 0x10000
def rFctId (f : Nat) : Nat := rFct f
def rFctRetry (f : Nat) : Nat := rFct f + 0x8
def rFctPstat (f : Nat) : Nat := rFct f + 0x10
def rFctFlushIn (f : Nat) : Nat := rFct f + 0x20
def rFctFlushOut (f : Nat) : Nat := rFct f + 0x24
def rFctNev (f : Nat) : Nat := rFct f + 0x30
def rFctSpmeta (f : Nat) : Nat := rFct f + 0x40
def rFctRng (f l : Nat) : Nat := rFct f + 0x4000 + l * 0x20
def rPmuCtrl : Nat := 0x3000000
def rPmuSnapAt : Nat := 0x3000008
def rPmuSnapStat : Nat := 0x3000010
def rPmuTime : Nat := 0x3000018
def rPmuSrBase (p : Nat) : Nat := 0x3020000 + p * 0x40
def rPmuSrCfg (p : Nat) : Nat := rPmuSrBase p + 0x8
def rPmuSrHead (p : Nat) : Nat := rPmuSrBase p + 0x10
def rPmuSrTail (p : Nat) : Nat := rPmuSrBase p + 0x14
def rPmuSrDrop (p : Nat) : Nat := rPmuSrBase p + 0x18
def rPmuBw (n : Nat) : Nat := 0x3160000 + n * 0x40
def rPsv (p : Nat) : Nat := 0x3410000 + p * 0x1000
def rPsvCfg (p : Nat) : Nat := rPsv p
def rPsvRsv (p : Nat) : Nat := rPsv p + 0x8
def rPsvSpt (p : Nat) : Nat := rPsv p + 0x10
def rPsvStepw (p : Nat) : Nat := rPsv p + 0x18
def rPsvClamp (p : Nat) : Nat := rPsv p + 0x20
def rPsvMtbf (p : Nat) : Nat := rPsv p + 0x28
def rPsvCost (p : Nat) : Nat := rPsv p + 0x30
def rPsvTau (p : Nat) : Nat := rPsv p + 0x34
def rPsvLastfail (p : Nat) : Nat := rPsv p + 0x38
def rPsvSave (p : Nat) : Nat := rPsv p + 0x40
def rPsvCnt (p k : Nat) : Nat := rPsv p + 0x60 + k * 8
def rPsvEvcap (p : Nat) : Nat := rPsv p + 0x80
def rFlfStatus : Nat := 0x3600000
def rFlfWdog : Nat := 0x3600008
def rFlfCorr : Nat := 0x3600010
def rFlfCore (c : Nat) : Nat := 0x3600100 + c * 8
def rFlfMbxHead (m : Nat) : Nat := 0x3680000 + m * 0x10000
def rFlfMbxTail (m : Nat) : Nat := rFlfMbxHead m + 0x4
def rFlfMbxDrop (m : Nat) : Nat := rFlfMbxHead m + 0x8
def rFlfLog (m i : Nat) : Nat := rFlfMbxHead m + 0x8000 + i * 0x40

/-! ## Layouts shared by several registers -/

/-- The OVF and COUNT layout of FCT_LS_RETRY (Table 01-7). -/
def cntDesc (base : Nat) (reach : Reach) : RegDesc :=
  { base, bytes := 4, flds := [.w1c 31 31], reach }

/-- The layout of PRT_p_NEV_CNT_k (Table 06-15). -/
def cnt64Desc (base : Nat) (reach : Reach) : RegDesc :=
  { base, bytes := 8, flds := [.w1c 63 63], reach }

/-- A lock register: bit 0 LOCK, W1S. -/
def lockDesc (base : Nat) : RegDesc := { base, bytes := 4, flds := [.w1s 0 0] }

/-- A read-only register. -/
def roDesc (base bytes reset : Nat) (reach : Reach := .pf) : RegDesc := { base, bytes, reset, reach }

/-! ## The blocks -/

def glbReg (off : Nat) : Option RegDesc :=
  if off < 4 then some (roDesc rGlbId 4 0xE4800010)
  else if 0x10 ≤ off ∧ off < 0x14 then some (roDesc rGlbSig 4 0x8007)
  else none

/-- Tables 19-7 to 19-11. -/
def govReg (o : Nat) : Option RegDesc :=
  if o < 0x4 then some { base := rGovStatus, bytes := 4, flds := [.w1c 30 30, .w1c 25 25, .w1c 24 24] }
  else if o < 0x8 then some (lockDesc rGovLock)
  else if o < 0xC then some { base := rGovCap, bytes := 4, reset := 0x4B0 * 2 ^ 16 + 0x4B0, flds := [.rw 10 0] }
  else if o < 0x10 then some { base := rGovRamp, bytes := 4, reset := 0x12C * 2 ^ 16 + 0x46,
                               flds := [.rwl 26 16, .rwl 6 0], lock := rGovLock }
  else if o < 0x14 then some { base := rGovBrake, bytes := 4, reset := 0x7D0 * 2 ^ 16 + 0x190,
                               flds := [.rwl 28 16, .rwl 9 0], lock := rGovLock }
  else if o < 0x18 then some { base := rGovTherm, bytes := 4, reset := 0x69, flds := [.rwl 7 0], lock := rGovLock }
  else if o < 0x20 then some (roDesc rGovPwr 8 0)
  else if o < 0x24 then some (roDesc rGovVin 4 0)
  else if o < 0x28 then some (roDesc rGovTemp 4 0)
  else if o < 0x2C then some (roDesc rGovPace 4 0)
  else if 0x30 ≤ o ∧ o < 0x34 then some (cntDesc rGovBrakeCnt .pf)
  else if 0x34 ≤ o ∧ o < 0x38 then some (cntDesc rGovThrotCnt .pf)
  else none

/-- Tables 18-9 to 18-14. -/
def clkReg (o : Nat) : Option RegDesc :=
  match arrAt o 0 8 4, arrAt o 0x100 8 13, arrAt o 0x200 8 2 with
  | some (r, k), _, _ => if k < 4 then some { base := rClkRef r, bytes := 4, flds := [.w1c 30 30] } else none
  | _, some (n, k), _ =>
    if k < 4 then some { base := rClkPll n, bytes := 4, flds := [.w1c 29 29, .w1c 28 28] } else none
  | _, _, some (h, k) =>
    if k < 4 then some { base := rClkTpll h, bytes := 4, reset := 0x5DC * 2 ^ 16 + 0x258,
                         flds := [.rwl 26 16], lock := rClkLock } else none
  | _, _, _ =>
    if 0x300 ≤ o ∧ o < 0x310 then some (roDesc rClkGateEn 16 (2 ^ 100 - 1))
    else if 0x310 ≤ o ∧ o < 0x320 then some { base := rClkGateOn, bytes := 16, flds := [.wo 127 0] }
    else if 0x320 ≤ o ∧ o < 0x330 then some { base := rClkGateOff, bytes := 16, flds := [.wo 127 0] }
    else if 0x330 ≤ o ∧ o < 0x334 then some { base := rClkGateRef, bytes := 4, flds := [.w1c 31 31] }
    else if 0x400 ≤ o ∧ o < 0x408 then some (roDesc rClkTb 8 0)
    else if 0x408 ≤ o ∧ o < 0x40C then some { base := rClkTbAdj, bytes := 4, flds := [.rw 31 0] }
    else if 0x410 ≤ o ∧ o < 0x414 then some { base := rClkTbStep, bytes := 4, flds := [.wo 31 0] }
    else if 0x418 ≤ o ∧ o < 0x41C then some { base := rClkTbStat, bytes := 4, flds := [.w1c 30 30] }
    else if 0x420 ≤ o ∧ o < 0x424 then
      some { base := rClkPtpCfg, bytes := 4, flds := [.rw 31 31, .rw 30 30, .rw 29 24, .rw 21 16, .rw 15 8] }
    else if 0x428 ≤ o ∧ o < 0x430 then some (roDesc rClkPtpStat 8 0)
    else if 0x430 ≤ o ∧ o < 0x434 then some (lockDesc rClkLock)
    else none

/-- Tables 20-6 to 20-10. -/
def bootReg (o : Nat) : Option RegDesc :=
  if o < 0x8 then some (roDesc rBootStatus 8 (0x1 * 2 ^ 60))
  else if o < 0x10 then some (roDesc rBootFw 8 0)
  else if o < 0x14 then some (roDesc rBootDegr 4 0)
  else if o < 0x18 then some { base := rBootCfg, bytes := 4, flds := [.rw 1 0] }
  else if o < 0x1C then some { base := rBootCtrl, bytes := 4, flds := [.wo 15 8, .wo 0 0] }
  else if 0x20 ≤ o ∧ o < 0x28 then some { base := rBootRcvAddr, bytes := 8, flds := [.rw 63 12] }
  else if 0x28 ≤ o ∧ o < 0x2C then
    some { base := rBootRcvCtl, bytes := 4, flds := [.wo 31 31, .rw 26 24, .rw 16 0] }
  else none

/-- Tables 12-7 to 12-12. -/
def cusReg (o : Nat) : Option RegDesc :=
  match arrAt o 0x100 0x10 257, arrAt o 0x2000 8 4096, arrAt o 0x10000 8 16 with
  | some (k, _), _, _ => some (roDesc (rCusPrin k) 16 0)
  | _, some (n, _), _ => some (roDesc (rCusSlot n) 8 0)
  | _, _, some (p, _) => some (roDesc (rCusPol p) 8 0 (.part p))
  | _, _, _ =>
    if o < 0x8 then some (roDesc rCusStatus 8 0)
    else if o < 0x10 then some (roDesc rCusAtt 8 0)
    else if o < 0x14 then some (cntDesc rCusAuthfail .pf)
    else if o < 0x18 then some (cntDesc rCusReplay .pf)
    else none

/-- Tables 13-8 to 13-14. Only the PF writes them (R278). -/
def hqReg (o : Nat) : Option RegDesc :=
  match arrAt o 0x10000 4 16384, arrAt o 0x20000 0x10 64, arrAt o 0x30000 0x10 16, arrAt o 0x40000 0x10 16384 with
  | some (q, _), _, _, _ =>
    some { base := rHqVec q, bytes := 4, flds := [.rw 31 21, .rw 20 20, .rw 15 8, .rw 7 0] }
  | _, some (f, k), _, _ =>
    if k < 4 ∧ f ≠ 0 then some { base := rHqFn f, bytes := 4, flds := [.rw 23 20, .rw 19 19, .rw 13 0] } else none
  | _, _, some (p, k), _ =>
    if k < 4 then some { base := rHqPartEvq p, bytes := 4, flds := [.rw 31 31, .rw 13 0] }
    else if k < 8 then some (roDesc (rHqPartStatus p) 4 0)
    else if k < 12 then some (cntDesc (rHqPartEvdrop p) .pf)
    else none
  | _, _, _, some (q, k) =>
    if k < 8 then some { base := rHqSq q, bytes := 8,
                         flds := [.rw 63 12, .rw 11 7, .rw 6 5, .rw 4 4, .rw 3 0] }
    else some { base := rHqCq q, bytes := 8, flds := [.rw 63 12, .rw 11 7, .rw 6 6, .rw 5 0] }
  | _, _, _, _ =>
    if o < 0x8 then some (roDesc rHqCap 8 (0x3F * 2 ^ 32 + 0x800 * 2 ^ 16 + 0x4000))
    else if o < 0xC then some { base := rHqArb, bytes := 4, reset := 0x1248,
                                flds := [.rwl 17 16, .rwl 15 12, .rwl 11 8, .rwl 7 4, .rwl 3 0], lock := rHqLock }
    else if 0x10 ≤ o ∧ o < 0x14 then some (roDesc rHqDevstat 4 0)
    else if 0x14 ≤ o ∧ o < 0x18 then some (roDesc rHqLink 4 0)
    else if 0x18 ≤ o ∧ o < 0x1C then some { base := rHqEvqDev, bytes := 4, flds := [.rw 31 31, .rw 13 0] }
    else if 0x1C ≤ o ∧ o < 0x20 then some (lockDesc rHqLock)
    else if 0x20 ≤ o ∧ o < 0x24 then some (cntDesc rHqDbdrop .pf)
    else if 0x24 ≤ o ∧ o < 0x28 then some (cntDesc rHqCqfull .pf)
    else if 0x28 ≤ o ∧ o < 0x30 then some { base := rHqBar4Base, bytes := 8, flds := [.rwl 47 30], lock := rHqLock }
    else if 0x30 ≤ o ∧ o < 0x34 then some (cntDesc rHqEvdropDev .pf)
    else none

/-- Tables 14-6 to 14-9 and 06-13 to 06-16. -/
def prtReg (o : Nat) : Option RegDesc :=
  match arrAt o 0x10000 0x100 16, arrAt o 0x80000 0x1000 16 with
  | some (p, k), _ =>
    if k < 0x8 then some (roDesc (rPrtCfg p) 8 (0xF * 2 ^ 56))
    else if k < 0x10 then some (roDesc (rPrtPorts p) 8 0)
    else if k < 0x14 then some (roDesc (rPrtState p) 4 0)
    else if k < 0x18 then some { base := rPrtSlice p, bytes := 4, reset := 0x2710, flds := [.rw 19 0] }
    else if k < 0x20 then some { base := rPrtOverrun p, bytes := 8, flds := [.w1c 63 63] }
    else if k < 0x24 then some (roDesc (rPrtDebt p) 4 0)
    else if k < 0x28 then some (roDesc (rPrtPimg p) 4 0)
    else none
  | _, some (p, k) =>
    if k < 0x8 then some { base := rNevRbase p, bytes := 8, flds := [.rw 47 12], reach := .part p }
    else if k < 0xC then some { base := rNevRcfg p, bytes := 4, reset := 0x17 * 2 ^ 16 + 2 ^ 15 + 0x10,
                                flds := [.rw 31 31, .rw 23 16, .rw 15 15, .rw 4 0], reach := .part p }
    else if k < 0x10 then none
    else if k < 0x14 then some (roDesc (rNevRhead p) 4 0 (.part p))
    else if k < 0x18 then some { base := rNevRtail p, bytes := 4, flds := [.rw 31 0], reach := .part p }
    else if k < 0x1C then some (cntDesc (rNevRdrop p) (.part p))
    else if 0x100 ≤ k ∧ k < 0x140 then some (cnt64Desc (rNevCnt p ((k - 0x100) / 8)) (.part p))
    else if 0x200 ≤ k ∧ k < 0x280 then
      some { base := rNevCap p ((k - 0x200) / 16), bytes := 16, flds := [.w1c 127 127], reach := .part p }
    else none
  | _, _ => if o < 0x10 then some (roDesc rPrtSectRes 16 0) else none

/-- Tables 11-11 to 11-13. -/
def ingReg (o : Nat) : Option RegDesc :=
  match arrAt o 0x10000 0x1000 16 with
  | some (p, k) =>
    let pt : Reach := .part p
    match arrAt k 0x20 8 6, arrAt k 0x108 8 16, arrAt k 0x200 0x40 4, arrAt k 0x400 0x40 4,
          arrAt k 0x600 0x10 4, arrAt k 0x700 0x10 4 with
    | some (c, _), _, _, _, _, _ => some { base := rIngQuota p c, bytes := 8, flds := [.rw 63 32, .rw 31 0] }
    | _, some (i, _), _, _, _, _ => some (cnt64Desc (rIngRsn p (i + 1)) pt)
    | _, _, some (r, j), _, _, _ =>
      if j < 0x8 then some { base := rIngRingBase p r, bytes := 8, flds := [.rw 63 48, .rw 47 12], reach := pt }
      else if j < 0x10 then
        some { base := rIngRingCfg p r, bytes := 8, reach := pt,
               flds := [.rw 63 63, .rw 62 62, .rw 61 60, .rw 59 56, .rw 55 45, .rw 44 27, .rw 26 11] }
      else if j < 0x18 then
        some { base := rIngRingMel p r, bytes := 8, reach := pt,
               flds := [.rw 63 62, .rw 61 48, .rw 47 40, .rw 39 24, .rw 23 8, .rw 7 0] }
      else if j < 0x1C then some (roDesc (rIngRingEsz p r) 4 0 pt)
      else if 0x20 ≤ j ∧ j < 0x30 then some (roDesc (rIngRingPtr p r) 16 0 pt)
      else none
    | _, _, _, some (r, _), _, _ =>
      some { base := rIngCur p r, bytes := 64, reach := pt,
             flds := [.rw 511 448, .rw 447 416, .rw 415 384, .rw 383 352, .rw 351 320, .rw 319 288, .rw 287 256,
                      .rw 255 226] }
    | _, _, _, _, some (d, _), _ => some (roDesc (rIngDict p d) 16 0 pt)
    | _, _, _, _, _, some (r, _) => some (roDesc (rIngLog p r) 16 0 pt)
    | _, _, _, _, _, _ =>
      if k < 0x8 then some { base := rIngScrBase p, bytes := 8, flds := [.rw 47 24] }
      else if k < 0xC then some { base := rIngScrSize p, bytes := 4, flds := [.rw 15 0] }
      else if 0x10 ≤ k ∧ k < 0x14 then
        some { base := rIngBudget p, bytes := 4, reset := 0x32 * 2 ^ 8 + 0x8, flds := [.rw 13 8, .rw 6 0], reach := pt }
      else none
  | none => if o < 4 then some (lockDesc rIngLock) else none

/-- Tables 10-5 to 10-11. -/
def brvReg (off : Nat) : Option RegDesc :=
  match arrAt off 0x400000 0x10000 48 with
  | some (n, k) =>
    let pt : Reach := .port n
    if k < 0x4 then
      some { base := rPortCfg n, bytes := 4, reset := 0x2400, reach := pt,
             flds := [.rw 31 31, .rw 30 28, .rw 27 26, .rw 20 20, .rw 19 19, .rw 18 18, .rw 17 17, .rw 15 0] }
    else if k < 0x8 then some { base := rPortStatus n, bytes := 4, flds := [.w1c 27 27, .w1c 26 26], reach := pt }
    else if k < 0xC then some { base := rPortPfc n, bytes := 4, reset := 0x28 * 2 ^ 24 + 0x200 * 2 ^ 12 + 0x180,
                                flds := [.rw 31 24, .rw 23 12, .rw 11 0], reach := pt }
    else if k < 0x10 then some { base := rPortEcn n, bytes := 4, reset := 0x80, flds := [.rw 15 0], reach := pt }
    else if k < 0x20 then some (roDesc (rPortDist n) 16 (0x3 * 2 ^ 46) pt)
    else if 0x40 ≤ k ∧ k < 0x80 then some (cnt64Desc (rPortCnt n ((k - 0x40) / 8)) pt)
    else none
  | none =>
    if off < 0x700000 then none else
    let o := off - 0x700000
    match arrAt o 0x10000 0x80 16, arrAt o 0x20000 4 4096, arrAt o 0x40000 0x40 4096, arrAt o 0x80000 0x20 16384 with
    | some (p, k), _, _, _ =>
      if k < 0x20 then
        some { base := rBrvPartAddr p, bytes := 32, reach := .part p,
               flds := [.rw 255 255, .rw 254 254, .rw 249 244, .rw 235 224, .rw 223 176, .rw 127 0] }
      else if k < 0x60 then
        some { base := rBrvServe p ((k - 0x20) / 0x10), bytes := 16, reach := .part p,
               flds := [.rw 80 80, .rw 79 74, .rw 47 0] }
      else none
    | _, some (g, _), _, _ => some { base := rBrvGid g, bytes := 4, flds := [.rw 31 0], reach := .part (g / 256) }
    | _, _, some (g, _), _ =>
      some { base := rBrvGrp g, bytes := 64, reset := 0x2710 * 2 ^ 192 + 0x2 * 2 ^ 168, reach := .part (g / 256),
             flds := [.rw 223 192, .rw 177 177, .rw 176 176, .rw 169 168, .rw 167 152, .rw 143 96, .rw 79 64,
                      .rw 63 32, .rw 31 16, .rw 15 0] }
    | _, _, _, some (i, _) =>
      some { base := rBrvPeer i, bytes := 32, reach := .peer i,
             flds := [.rw 255 255, .rw 254 254, .rw 253 250, .rw 235 224, .rw 223 176, .rw 175 160, .rw 127 0] }
    | _, _, _, _ =>
      if o < 0x4 then some { base := rBrvCfg, bytes := 4, reset := 0x3 * 2 ^ 20 + 0x5 * 2 ^ 16 + 0x5398,
                             flds := [.rwl 15 0, .rwl 19 16, .rwl 23 20], lock := rBrvLock }
      else if o < 0x8 then some (lockDesc rBrvLock)
      else if o < 0x10 then some { base := rBrvDistThr, bytes := 8, reset := 0x03E800FA0032,
                                   flds := [.rwl 15 0, .rwl 31 16, .rwl 47 32], lock := rBrvLock }
      else if o < 0x14 then some { base := rBrvCc, bytes := 4, reset := 0x01 * 2 ^ 24 + 0x32 * 2 ^ 8 + 0x40,
                                   flds := [.rwl 7 0, .rwl 23 8, .rwl 31 24], lock := rBrvLock }
      else if o < 0x18 then some { base := rBrvTmo, bytes := 4, reset := 0x014 * 2 ^ 20 + 0x7 * 2 ^ 16 + 0x64,
                                   flds := [.rwl 15 0, .rwl 19 16, .rwl 31 20], lock := rBrvLock }
      else if o < 0x1C then some { base := rBrvPfcwd, bytes := 4, reset := 0x64, flds := [.rwl 15 0], lock := rBrvLock }
      else none

/-- Tables 09-6 to 09-11. -/
def memReg (o : Nat) : Option RegDesc :=
  match arrAt o 0x10000 0x1000 8, arrAt o 0x20000 0x100 2, arrAt o 0x40000 0x100 16 with
  | some (x, k), _, _ =>
    if k < 0x8 then some (roDesc (rMemStk x) 8 (0x4000 * 2 ^ 32))
    else if k < 0xC then some (roDesc (rMemTemp x) 4 0)
    else if 0x10 ≤ k ∧ k < 0x20 then some { base := rMemUecap x, bytes := 16, flds := [.w1c 127 127] }
    else if 0x100 ≤ k ∧ k < 0x200 then
      if k % 8 < 4 then some (cntDesc (rMemCe x ((k - 0x100) / 8)) .pf)
      else some (cntDesc (rMemUe x ((k - 0x100) / 8)) .pf)
    else none
  | _, some (h, k), _ =>
    if k < 0x10 then some (roDesc (rMemWaymap h) 16 0)
    else if k < 0x14 then some (cntDesc (rMemScCorr h) .pf)
    else none
  | _, _, some (p, k) =>
    let w := k / 0x10
    if k % 0x10 < 4 then
      some { base := rMemFwCfg p w, bytes := 4, flds := [.rw 31 31, .rw 30 29, .rw 28 23], reach := .part p }
    else if 8 ≤ k % 0x10 then some { base := rMemFwTgt p w, bytes := 8, flds := [.rw 63 0], reach := .part p }
    else none
  | _, _, _ =>
    if o < 0x4 then some { base := rMemCfg, bytes := 4, reset := 0x8 * 2 ^ 16 + 0x8 * 2 ^ 8 + 0x18,
                           flds := [.rwl 20 16, .rw 15 8, .rw 7 0], lock := rMemLock }
    else if o < 0x8 then some (lockDesc rMemLock)
    else none

/-- Tables 02-11 to 02-17 and 04-7 to 04-9. -/
def seqReg (h o : Nat) : Option RegDesc :=
  match arrAt o 0x10000 0x1000 8, arrAt o 0x20000 0x2000 8 with
  | some (n, k), _ =>
    let pt : Reach := .ctx h n
    if k < 0x4 then some { base := rCtxCtrl h n, bytes := 4, flds := [.wo 3 3, .wo 2 2, .wo 1 1, .wo 0 0], reach := pt }
    else if 0x8 ≤ k ∧ k < 0x10 then some (roDesc (rCtxStatus h n) 8 0 pt)
    else if 0x10 ≤ k ∧ k < 0x18 then some (roDesc (rCtxIcount h n) 8 0 pt)
    else if 0x18 ≤ k ∧ k < 0x1C then some { base := rCtxEntry h n, bytes := 4, flds := [.rw 12 0], reach := pt }
    else if 0x20 ≤ k ∧ k < 0x24 then
      some { base := rCtxBrk h n, bytes := 4, flds := [.rw 31 31, .rw 12 0], reach := pt }
    else if 0x28 ≤ k ∧ k < 0x2C then some (roDesc (rCtxCond h n) 4 0 pt)
    else if 0x30 ≤ k ∧ k < 0x34 then some (cntDesc (rCtxHlog h n) pt)
    else if 0x40 ≤ k ∧ k < 0x80 then some (roDesc (rCtxHstk h n ((k - 0x40) / 0x10)) 16 0 pt)
    else if 0x100 ≤ k ∧ k < 0x140 then some (roDesc (rCtxLstk h n ((k - 0x100) / 8)) 8 0 pt)
    else if 0x200 ≤ k ∧ k < 0x400 then
      some { base := rCtxLdesc h n ((k - 0x200) / 8), bytes := 8, flds := [.rw 36 13, .rw 12 0], reach := pt }
    else none
  | _, some (n, k) =>
    some { base := rCtxBtab h n (k / 0x20), bytes := 32, reach := .ctx h n,
           flds := [.rw 192 192, .rw 191 160, .rw 145 145, .rw 144 132, .rw 127 96, .rw 95 64, .rw 63 32, .rw 31 0] }
  | _, _ =>
    if o < 0x4 then some { base := rSeqIsbank h, bytes := 4, reset := 0xFFFFFFFF, flds := [.rwl 31 0], lock := rSeqLock h }
    else if o < 0x8 then some (lockDesc (rSeqLock h))
    else if 0x10 ≤ o ∧ o < 0x14 then some (cntDesc (rSeqCollide h) .pf)
    else if 0x14 ≤ o ∧ o < 0x18 then some (cntDesc (rSeqTfault h) .pf)
    else if 0x18 ≤ o ∧ o < 0x1C then some (cntDesc (rSeqIsCorr h) .pf)
    else if 0x20 ≤ o ∧ o < 0x28 then some { base := rSeqTfaultCap h, bytes := 8, flds := [.w1c 63 63] }
    else none

/-- Table 22-3: the facet window. The descriptors, prism vectors, address registers and dispatch counters
are read-only to the host (R82, R166). -/
def fctReg (f k : Nat) : Option RegDesc :=
  let pt : Reach := .facet f
  if k < 0x4 then some (roDesc (rFctId f) 4 f pt)
  else if 0x8 ≤ k ∧ k < 0xC then some (cntDesc (rFctRetry f) pt)
  else if 0x10 ≤ k ∧ k < 0x18 then some (roDesc (rFctPstat f) 8 0 pt)
  else if 0x20 ≤ k ∧ k < 0x24 then some (cntDesc (rFctFlushIn f) pt)
  else if 0x24 ≤ k ∧ k < 0x28 then some (cntDesc (rFctFlushOut f) pt)
  else if 0x30 ≤ k ∧ k < 0x34 then
    some { base := rFctNev f, bytes := 4, reach := pt,
           flds := [.w1c 5 5, .w1c 4 4, .w1c 3 3, .w1c 2 2, .w1c 1 1, .w1c 0 0] }
  else if 0x40 ≤ k ∧ k < 0x44 then some (cntDesc (rFctSpmeta f) pt)
  else if 0x4000 ≤ k ∧ k < 0x8000 then
    some { base := rFctRng f ((k - 0x4000) / 0x20), bytes := 32, flds := [.rw 191 64, .rw 63 0], reach := pt }
  else none

/-- Base of a PMU counter slot and whether it may sample (Table 16-6). -/
def pmuSlotAt (o : Nat) : Option (Nat × Bool) :=
  match arrAt o 0x100000 0x20 2048, arrAt o 0x110000 0x20 64, arrAt o 0x120000 0x20 512, arrAt o 0x130000 0x20 192,
        arrAt o 0x140000 0x20 24 with
  | some (i, _), _, _, _, _ => some (0x100000 + i * 0x20, true)
  | _, some (i, _), _, _, _ => some (0x110000 + i * 0x20, true)
  | _, _, some (i, _), _, _ => some (0x120000 + i * 0x20, false)
  | _, _, _, some (i, _), _ => some (0x130000 + i * 0x20, false)
  | _, _, _, _, some (i, _) => some (0x140000 + i * 0x20, false)
  | _, _, _, _, _ => none

/-- Tables 16-6 to 16-8. -/
def pmuReg (o : Nat) : Option RegDesc :=
  match pmuSlotAt o with
  | some (b, smp) =>
    let a := 0x3000000 + b
    let k := o - b
    if k < 0x4 then
      some { base := a, bytes := 4,
             flds := [.rw 31 31, .rw 29 29, .rw 27 24, .rw 15 8, .rw 7 0] ++ if smp then [.rw 30 30] else [] }
    else if 0x8 ≤ k ∧ k < 0x10 then some { base := a + 0x8, bytes := 8, flds := [.w1c 63 63, .rw 47 0] }
    else if 0x10 ≤ k ∧ k < 0x18 then some (roDesc (a + 0x10) 8 0)
    else if 0x18 ≤ k then some { base := a + 0x18, bytes := 8, flds := [.rw 47 0] }
    else none
  | none =>
    match arrAt o 0x20000 0x40 16, arrAt o 0x160000 0x40 49 with
    | some (p, k), _ =>
      if k < 0x8 then some { base := rPmuSrBase p, bytes := 8, flds := [.rw 47 12], reach := .part p }
      else if k < 0xC then some { base := rPmuSrCfg p, bytes := 4, reset := 0x10,
                                  flds := [.rw 31 31, .rw 30 20, .rw 4 0], reach := .part p }
      else if k < 0x10 then none
      else if k < 0x14 then some (roDesc (rPmuSrHead p) 4 0 (.part p))
      else if k < 0x18 then some { base := rPmuSrTail p, bytes := 4, flds := [.rw 31 0], reach := .part p }
      else if k < 0x1C then some (cntDesc (rPmuSrDrop p) (.part p))
      else none
    | _, some (n, k) =>
      if k < 0x4 then some { base := rPmuBw n, bytes := 4, flds := [.rw 31 31, .wo 30 30, .rw 19 0] }
      else if 0x8 ≤ k ∧ k < 0x30 then some (roDesc (rPmuBw n + k / 8 * 8) 8 0)
      else none
    | _, _ =>
      if o < 0x4 then some { base := rPmuCtrl, bytes := 4, flds := [.rw 31 31, .wo 0 0] }
      else if 0x8 ≤ o ∧ o < 0x10 then some { base := rPmuSnapAt, bytes := 8, flds := [.rw 63 0] }
      else if 0x10 ≤ o ∧ o < 0x18 then some { base := rPmuSnapStat, bytes := 8, flds := [.w1c 30 30] }
      else if 0x18 ≤ o ∧ o < 0x20 then some (roDesc rPmuTime 8 0)
      else none

/-- Tables 15-7 to 15-11. -/
def psvReg (o : Nat) : Option RegDesc :=
  match arrAt o 0x10000 0x1000 16 with
  | none => none
  | some (p, k) =>
    let pt : Reach := .part p
    if k < 0x8 then
      some { base := rPsvCfg p, bytes := 8, reach := pt,
             reset := 0xFFFF * 2 ^ 32 + 0x40 * 2 ^ 24 + 0x08 * 2 ^ 16 + 0x01 * 2 ^ 8 + 0x1E,
             flds := [.rw 63 63, .rw 52 52, .rw 51 48, .rw 47 32, .rw 31 24, .rw 23 16, .rw 15 8, .rw 5 0] }
    else if k < 0xC then some { base := rPsvRsv p, bytes := 4, flds := [.rw 15 0], reach := pt }
    else if k < 0x10 then none
    else if k < 0x18 then
      some { base := rPsvSpt p, bytes := 8, reach := pt,
             flds := [.rw 63 63, .rw 51 48, .rw 44 32, .rw 31 31, .rw 19 16, .rw 12 0] }
    else if k < 0x20 then some { base := rPsvStepw p, bytes := 8, flds := [.rw 47 6], reach := pt }
    else if k < 0x24 then
      some { base := rPsvClamp p, bytes := 4, reset := 0x5460001E, flds := [.rw 31 16, .rw 15 0], reach := pt }
    else if k < 0x28 then none
    else if k < 0x30 then some { base := rPsvMtbf p, bytes := 8, reset := 0x05265C00, flds := [.rw 63 0], reach := pt }
    else if k < 0x34 then some (roDesc (rPsvCost p) 4 0 pt)
    else if k < 0x38 then some (roDesc (rPsvTau p) 4 0 pt)
    else if k < 0x40 then some (roDesc (rPsvLastfail p) 8 0 pt)
    else if k < 0x50 then some (roDesc (rPsvSave p) 16 0 pt)
    else if 0x60 ≤ k ∧ k < 0x80 then some (cnt64Desc (rPsvCnt p ((k - 0x60) / 8)) pt)
    else if 0x80 ≤ k ∧ k < 0xA0 then some { base := rPsvEvcap p, bytes := 32, flds := [.w1c 255 255], reach := pt }
    else none

/-- Tables 17-7 to 17-9. -/
def flfReg (o : Nat) : Option RegDesc :=
  match arrAt o 0x100 8 16, arrAt o 0x80000 0x10000 17 with
  | some (c, _), _ => some (roDesc (rFlfCore c) 8 0)
  | _, some (m, k) =>
    let pt : Reach := if m < 16 then .part m else .pf
    if k < 0x4 then some (roDesc (rFlfMbxHead m) 4 0 pt)
    else if k < 0x8 then some { base := rFlfMbxTail m, bytes := 4, flds := [.rw 31 0], reach := pt }
    else if k < 0xC then some (cntDesc (rFlfMbxDrop m) pt)
    else if 0x8000 ≤ k then some (roDesc (rFlfLog m ((k - 0x8000) / 0x40)) 64 0 pt)
    else none
  | _, _ =>
    if o < 0x8 then some (roDesc rFlfStatus 8 0)
    else if o < 0xC then some { base := rFlfWdog, bytes := 4, reset := 0x03E80064, flds := [.rw 31 16, .rw 15 0] }
    else if 0x10 ≤ o ∧ o < 0x14 then some (cntDesc rFlfCorr .pf)
    else none

/-- The register that holds byte offset `off` of BAR 0; none where the offset is not assigned (R13, R381). -/
def regAt (off : Nat) : Option RegDesc :=
  if off < 0x10000 then glbReg off
  else if off < 0x20000 then govReg (off - 0x10000)
  else if off < 0x30000 then clkReg (off - 0x20000)
  else if off < 0x40000 then bootReg (off - 0x30000)
  else if off < 0x80000 then cusReg (off - 0x40000)
  else if off < 0x100000 then hqReg (off - 0x80000)
  else if off < 0x200000 then prtReg (off - 0x100000)
  else if off < 0x400000 then ingReg (off - 0x200000)
  else if off < 0x800000 then brvReg off
  else if off < 0x1000000 then memReg (off - 0x800000)
  else if off < 0x3000000 then
    let h := off / 0x1000000 - 1
    let o := off % 0x1000000
    if o < 0x100000 then seqReg h o
    else if o < 0x900000 then fctReg (h * 128 + (o - 0x100000) / 0x10000) ((o - 0x100000) % 0x10000)
    else none
  else if off < 0x3400000 then pmuReg (off - 0x3000000)
  else if off < 0x3600000 then psvReg (off - 0x3400000)
  else if off < 0x3800000 then flfReg (off - 0x3600000)
  else none

/-- The reset value of the register at BAR 0 offset `off`, 0 where none stands there. -/
def regReset (off : Nat) : Nat :=
  match regAt off with
  | some d => if d.base = off then d.reset else 0
  | none => 0

end Sys2Proof.Machine
end

