-- ==== Sys2Proof/Machine/Ops.lean ====
section
/-! DEFINITION. The named operations over the state: registers and their counters, the keyed parts of the
device, partitions and contexts, free values, error records, completions and the end of work by a fatal
error. -/

namespace Sys2Proof.Machine

/-- A command whose effect on the device is `f`; the queue of waiting commands is not its concern. While the core
rails are down nothing in the package runs, and no command has an effect (R338, R339, R350). -/
def State.act (s : State) (f : Dev → Dev) : Host.Outcome State Fault Refusal :=
  .next { s with dev := if s.dev.sys.railsUp then f s.dev else s.dev }

/-! ## Registers -/

/-- The value of the register at BAR 0 offset `off`. -/
def Dev.reg (d : Dev) (off : Nat) : Nat := alGet (regReset off) d.regs off

/-- Sets the register at BAR 0 offset `off`. -/
def Dev.setReg (d : Dev) (off v : Nat) : Dev := { d with regs := alSet (regReset off) d.regs off v }

/-- A field of a register. -/
def Dev.fld (d : Dev) (off hi lo : Nat) : Nat := bits (d.reg off) hi lo

/-- A one-bit field. -/
def Dev.flag (d : Dev) (off i : Nat) : Bool := bit (d.reg off) i

/-- Sets a field of a register. -/
def Dev.setFld (d : Dev) (off hi lo v : Nat) : Dev := d.setReg off (setBits (d.reg off) hi lo v)

/-- Sets a one-bit field. -/
def Dev.setFlag (d : Dev) (off i : Nat) (b : Bool) : Dev := d.setFld off i i (b2n b)

/-- The device answers the host: HQ_DEVSTAT.READY (R257). -/
def Dev.hostUp (d : Dev) : Bool := d.flag rHqDevstat 31

/-- Returns a register to its reset value. -/
def Dev.resetReg (d : Dev) (off : Nat) : Dev := { d with regs := alDrop d.regs off }

/-- Returns every register from `lo` to `hi - 1` to its reset value. -/
def Dev.resetRegs (d : Dev) (lo hi : Nat) : Dev := { d with regs := alClear d.regs lo hi }

/-- Adds `n` to a counter with the layout of FCT_LS_RETRY: OVF is set when COUNT wraps (Table 01-7). -/
def Dev.bump (d : Dev) (off : Nat) (n : Nat := 1) : Dev :=
  let c := bits (d.reg off) 30 0 + n
  let o := bit (d.reg off) 31 || decide (2 ^ 31 ≤ c)
  d.setReg off (c % 2 ^ 31 + b2n o * 2 ^ 31)

/-- Adds `n` to a counter with the layout of PRT_p_NEV_CNT_k (Table 06-15). -/
def Dev.bump64 (d : Dev) (off : Nat) (n : Nat := 1) : Dev :=
  let c := bits (d.reg off) 62 0 + n
  let o := bit (d.reg off) 63 || decide (2 ^ 63 ≤ c)
  d.setReg off (c % 2 ^ 63 + b2n o * 2 ^ 63)

/-! ## Keyed parts -/

/-- The stream context n of hemisphere h. -/
def Dev.ctx (d : Dev) (h n : Nat) : Ctx := alGet Ctx.absent d.ctxs (h * 8 + n)

/-- Replaces a stream context. -/
def Dev.setCtx (d : Dev) (h n : Nat) (c : Ctx) : Dev := { d with ctxs := alSet Ctx.absent d.ctxs (h * 8 + n) c }

/-- Changes a stream context. -/
def Dev.modCtx (d : Dev) (h n : Nat) (f : Ctx → Ctx) : Dev := d.setCtx h n (f (d.ctx h n))

/-- The current cycle of hemisphere h. -/
def Dev.hemi (d : Dev) (h : Nat) : HemiSt := alGet HemiSt.start d.hemis h

/-- Replaces the current cycle of hemisphere h. -/
def Dev.setHemi (d : Dev) (h : Nat) (x : HemiSt) : Dev := { d with hemis := alSet HemiSt.start d.hemis h x }

/-- Agent `a` of hemisphere h acts: in the current cycle, or in the next one if it has acted in this (log 90). -/
def Dev.agentActs (d : Dev) (h a : Nat) : Dev :=
  let x := d.hemi h
  if x.acted.contains a then d.setHemi h { HemiSt.start with acted := [a], full := x.full }
  else d.setHemi h { x with acted := x.acted ++ [a] }

/-- Accumulator set of a facet: A for false, B for true. -/
def Dev.acc (d : Dev) (f : Nat) (set : Bool) : AccSet := alGet AccSet.zero d.accs (f * 2 + b2n set)

/-- Replaces an accumulator set. -/
def Dev.setAcc (d : Dev) (f : Nat) (set : Bool) (a : AccSet) : Dev :=
  { d with accs := alSet AccSet.zero d.accs (f * 2 + b2n set) a }

/-- The wedge cell of a facet. -/
def Dev.cell (d : Dev) (f : Nat) : WedgeCell := alGet WedgeCell.idle d.cells f

/-- Replaces the wedge cell of a facet. -/
def Dev.setCell (d : Dev) (f : Nat) (c : WedgeCell) : Dev := { d with cells := alSet WedgeCell.idle d.cells f c }

/-- What the device holds of queue pair q. -/
def Dev.queue (d : Dev) (q : Nat) : QueueSt := alGet QueueSt.off d.hq.queues q

/-- Replaces what the device holds of queue pair q. -/
def Dev.setQueue (d : Dev) (q : Nat) (x : QueueSt) : Dev :=
  { d with hq := { d.hq with queues := alSet QueueSt.off d.hq.queues q x } }

/-- The moving parts of port n. -/
def Dev.port (d : Dev) (n : Nat) : PortSt := alGet PortSt.down d.brv.ports n

/-- Replaces the moving parts of port n. -/
def Dev.setPort (d : Dev) (n : Nat) (x : PortSt) : Dev :=
  { d with brv := { d.brv with ports := alSet PortSt.down d.brv.ports n x } }

/-- Staging ring r of partition p. -/
def Dev.ring (d : Dev) (p r : Nat) : Ring := alGet Ring.none d.ing.rings (p * 4 + r)

/-- Replaces staging ring r of partition p. -/
def Dev.setRing (d : Dev) (p r : Nat) (x : Ring) : Dev :=
  { d with ing := { d.ing with rings := alSet Ring.none d.ing.rings (p * 4 + r) x } }

/-- What the device holds of partition p beyond its registers. -/
def Dev.part (d : Dev) (p : Nat) : PartSt := alGet PartSt.none d.parts p

/-- Replaces what the device holds of partition p. -/
def Dev.setPart (d : Dev) (p : Nat) (x : PartSt) : Dev := { d with parts := alSet PartSt.none d.parts p x }

/-- The resilience state of partition p. -/
def Dev.psvOf (d : Dev) (p : Nat) : Psv := alGet Psv.none d.psv p

/-- Replaces the resilience state of partition p. -/
def Dev.setPsv (d : Dev) (p : Nat) (x : Psv) : Dev := { d with psv := alSet Psv.none d.psv p x }

/-- Takes a fresh free value of 32 bits (log 5). -/
def Dev.takeFree (d : Dev) : Nat × Dev := ((Config.free d.fresh).toNat, { d with fresh := d.fresh + 1 })

/-- Takes a fresh draw of the DRBG (log 6). -/
def Dev.draw (d : Dev) : BitVec 256 × Dev :=
  (Config.drbg d.cus.draws, { d with cus := { d.cus with draws := d.cus.draws + 1 } })

/-- The device time base in ns (CLK_TB). -/
def Dev.now (d : Dev) : Nat := d.sys.tb

/-! ## Partitions (14_partitions.md) -/

/-- PRT_p_CFG.VALID. -/
def Dev.partValid (d : Dev) (p : Nat) : Bool := d.flag (rPrtCfg p) 63

/-- PRT_p_CFG.SECTORS. -/
def Dev.sectors (d : Dev) (p : Nat) : Nat := d.fld (rPrtCfg p) 15 0

/-- Whether partition p holds global sector g. -/
def Dev.holds (d : Dev) (p g : Nat) : Bool := bit (d.sectors p) g

/-- The lowest sector slot that p holds on hemisphere h, which numbers its stream context there (R29). -/
def Dev.ctxNum (d : Dev) (p h : Nat) : Option Nat := (List.range 8).find? fun i => d.holds p (h * 8 + i)

/-- The hemisphere and number of each stream context of p. -/
def Dev.ctxsOf (d : Dev) (p : Nat) : List (Nat × Nat) :=
  [0, 1].filterMap fun h => (d.ctxNum p h).map fun n => (h, n)

/-- STATE of PRT_p_STATE: 0 absent, 1 resident, 2 waiting, 3 stopping, 4 saving, 5 restoring,
6 destroying. -/
def Dev.partState (d : Dev) (p : Nat) : Nat := d.fld (rPrtState p) 29 27

/-- Sets STATE of PRT_p_STATE. -/
def Dev.setPartState (d : Dev) (p v : Nat) : Dev := d.setFld (rPrtState p) 29 27 v

/-- Partition p is stopped by a partition-fatal error. -/
def Dev.partFatal (d : Dev) (p : Nat) : Bool := d.flag (rPrtState p) 30

/-- Whether partition p holds the facets of its sectors (R282). -/
def Dev.resident (d : Dev) (p : Nat) : Bool :=
  d.partValid p && (d.partState p == 1 || d.partState p == 3)

/-- The partition resident on global sector g (PRT_SECT_RES). -/
def Dev.residentOf (d : Dev) (g : Nat) : Option Nat :=
  let b := bits (d.reg rPrtSectRes) (8 * g + 7) (8 * g)
  if bit b 7 then some (b % 16) else none

/-- Names p, or nobody, as resident on global sector g. -/
def Dev.setResident (d : Dev) (g : Nat) (p : Option Nat) : Dev :=
  d.setFld rPrtSectRes (8 * g + 7) (8 * g) (match p with | some p => 0x80 + p | none => 0)

/-- Global facet number of facet index j of sector slot i of hemisphere h. -/
def facetOf (h i j : Nat) : Nat := h * 128 + i * 16 + j

/-- Global sector of a facet. -/
def sectorOf (f : Nat) : Nat := f / 16

/-- The facets of partition p, in increasing number. -/
def Dev.facetsOf (d : Dev) (p : Nat) : List Nat := (List.range 256).filter fun f => d.holds p (sectorOf f)

/-- A partition's image saved at pre-emption. -/
def Dev.image (d : Dev) (p : Nat) : Option SavedImage := d.images.find? fun i => i.p == p

/-- A switch of p is in progress, from its stop to its restore (R283). -/
def Dev.switching (d : Dev) (p : Nat) : Bool :=
  let s := d.partState p
  d.partValid p && ((s == 3 && (d.part p).goal == .switch) || s == 4 || s == 5)

/-- p is being pre-empted, or is and is not resident again (R283 step 1). -/
def Dev.switchedOut (d : Dev) (p : Nat) : Bool :=
  d.switching p || (d.partValid p && d.partState p == 2 && match d.image p with
    | some i => i.ctxs.any fun e => e.2.state == .preempted
    | none => false)

/-- Replaces, adds or removes p's saved image. -/
def Dev.setImage (d : Dev) (p : Nat) (i : Option SavedImage) : Dev :=
  { d with images := (d.images.filter fun x => x.p != p) ++ i.toList }

/-- The context of p on hemisphere h: the hemisphere's context n where it is p's, else the one in p's image. -/
def Dev.ctxFor (d : Dev) (p h n : Nat) : Ctx :=
  let x := d.ctx h n
  if x.state ≠ .absent ∧ x.part = p then x else
  match d.image p with
  | some i => alGet Ctx.absent i.ctxs (h * 8 + n)
  | none => Ctx.absent

/-- Changes the context of p, where it stands. -/
def Dev.modCtxFor (d : Dev) (p h n : Nat) (f : Ctx → Ctx) : Dev :=
  let x := d.ctx h n
  if x.state ≠ .absent ∧ x.part = p then d.setCtx h n (f x) else
  match d.image p with
  | some i => d.setImage p (some { i with ctxs := alSet Ctx.absent i.ctxs (h * 8 + n) (f (alGet Ctx.absent i.ctxs (h * 8 + n))) })
  | none => d

/-- Whether every context of p is idle or halted (R52, R186). -/
def Dev.quiet (d : Dev) (p : Nat) : Bool :=
  (d.ctxsOf p).all fun x => let s := (d.ctxFor p x.1 x.2).state; s == .idle || s == .halted

/-! ## Completions and records (13_host_queues.md, Completions and error records) -/

/-- The severity classes of Table 00-8, as CLASS encodes them. -/
abbrev clsCorrected : Nat := 0
abbrev clsRequest : Nat := 1
abbrev clsPartition : Nat := 2
abbrev clsDevice : Nat := 3

/-- Bytes received and sent by bandwidth unit n (R310). -/
def Dev.addBytes (d : Dev) (n rx tx : Nat) : Dev :=
  if d.flag (rPmuBw n) 31 then { d with sys := { d.sys with bw := (d.sys.bw.add (n * 4) rx).add (n * 4 + 1) tx } } else d

/-- The bandwidth unit of the PCI Express link. -/
abbrev pcieUnit : Nat := 48

/-- Entries of the completion queue of q. -/
def Dev.cqSize (d : Dev) (q : Nat) : Nat := 2 ^ d.fld (rHqCq q) 11 7

/-- The CQ of q is enabled (HQ_Q_n_VEC.IEN). -/
def Dev.cqOn (d : Dev) (q : Nat) : Bool := d.flag (rHqVec q) 20

/-- The CQ of q is full (R261). -/
def Dev.cqFull (d : Dev) (q : Nat) : Bool := ((d.queue q).cqIdx + 1) % d.cqSize q == (d.queue q).cqHead

/-- MSI-X key of function fn and vector v. -/
def msixKey (fn v : Nat) : Nat := fn * 2048 + v

/-- Signals the vector of q's CQ (R274): a masked vector sets its pending bit. -/
def Dev.signal (d : Dev) (q : Nat) : Dev :=
  let k := msixKey (d.fld (rHqCq q) 5 0) (d.fld (rHqVec q) 31 21)
  let d := d.setQueue q { d.queue q with unsignalled := 0 }
  if d.hq.msixMask.get k = 0 then ({ d with hq := { d.hq with msix := d.hq.msix.add k 1 } } : Dev).addBytes pcieUnit 0 4
  else { d with hq := { d.hq with msixPend := d.hq.msixPend.set k 1 } }

/-- Writes an entry to the CQ of q, which is enabled and not full, with the PHASE of the pass, and signals
it as R274 says; `urgent` entries signal at once. -/
def Dev.writeCqe (d : Dev) (q : Nat) (e : List Byte) (urgent : Bool) : Dev :=
  let x := d.queue q
  let st := leAt e 8 2 % 2 ^ 15 + b2n x.phase * 2 ^ 15
  let e := e.take 8 ++ leBytes 2 st ++ e.drop 10
  let a := d.fld (rHqCq q) 63 12 * 4096 + x.cqIdx * 32
  let i := (x.cqIdx + 1) % d.cqSize q
  let d := ({ d with hostMem := d.hostMem.write a e } : Dev).addBytes pcieUnit 0 32
  let u := x.unsignalled + 1
  let d := d.setQueue q { x with cqIdx := i, phase := if i = 0 then !x.phase else x.phase, unsignalled := u }
  let aggn := d.fld (rHqVec q) 15 8
  let aggt := d.fld (rHqVec q) 7 0
  if urgent || (aggn == 0 && aggt == 0) || (aggn != 0 && decide (aggn ≤ u)) then d.signal q else d

/-- Posts a completion entry to the CQ of q: a disabled CQ takes nothing (R261), a full one keeps it
waiting (R277). -/
def Dev.pushCqe (d : Dev) (q : Nat) (e : List Byte) (urgent : Bool) : Dev :=
  if !d.cqOn q then d
  else if d.cqFull q || !(d.queue q).owed.isEmpty then d.setQueue q { d.queue q with owed := (d.queue q).owed ++ [e] }
  else d.writeCqe q e urgent

/-- DETAIL of a record or error completion (Table 13-4). -/
def detail (addr bidx ctx tag value : Nat) : Nat :=
  addr % 2 ^ 64 + bidx % 2 ^ 13 * 2 ^ 64 + ctx % 8 * 2 ^ 77 + tag % 256 * 2 ^ 80 + value % 2 ^ 40 * 2 ^ 88

/-- An error record (R269, R387): its partition or none for the device, class, cause, block, unit and
DETAIL. -/
structure ErrRec where
  part : Option Nat
  cls : Nat
  cause : Nat
  block : Nat
  unit : Nat := 0
  det : Nat := 0
deriving DecidableEq, Repr

/-- The command identifier of a fetched command (Table 13-3). -/
def FetchedCmd.cid (c : FetchedCmd) : Nat := leAt c.entry 4 4
/-- Its opcode. -/
def FetchedCmd.opc (c : FetchedCmd) : Nat := leAt c.entry 0 2
/-- Its PART byte. -/
def FetchedCmd.part (c : FetchedCmd) : Nat := leAt c.entry 8 1
/-- Its PROFILE byte. -/
def FetchedCmd.profile (c : FetchedCmd) : Nat := leAt c.entry 9 1
/-- FLAGS.CRIT. -/
def FetchedCmd.crit (c : FetchedCmd) : Bool := bit (leAt c.entry 2 2) 0
/-- FLAGS.FENCE. -/
def FetchedCmd.fence (c : FetchedCmd) : Bool := bit (leAt c.entry 2 2) 1
/-- PLEN. -/
def FetchedCmd.plen (c : FetchedCmd) : Nat := leAt c.entry 0xC 4

/-- A completion queue entry without its PHASE (Table 13-4). -/
def cqeBytes (cid sqhd part type : Nat) (cls : Option Nat) (cause result : Nat) : List Byte :=
  let st := type * 2 ^ 13 + (match cls with | some k => 2 ^ 12 + k * 2 ^ 10 | none => 0)
  leBytes 4 cid ++ leBytes 2 sqhd ++ leBytes 2 part ++ leBytes 2 st ++ leBytes 2 cause ++ leBytes 4 0 ++
    leBytes 16 result

/-- The fetched command with serial number `seq`. -/
def Dev.fetchedCmd (d : Dev) (seq : Nat) : Option FetchedCmd := d.hq.fetched.find? fun c => c.seq == seq

/-- Replaces a fetched command's record. -/
def Dev.setFetched (d : Dev) (c : FetchedCmd) : Dev :=
  { d with hq := { d.hq with fetched := d.hq.fetched.map fun x => if x.seq = c.seq then c else x } }

/-- Takes a fetched command off and posts its final completion: `cls` none for success with RESULT `res`, otherwise
the class, cause and DETAIL `res`. -/
def Dev.postFinal (d : Dev) (c : FetchedCmd) (cls : Option Nat) (cause res : Nat) : Dev :=
  let d := { d with hq := { d.hq with fetched := d.hq.fetched.filter fun x => x.seq != c.seq } }
  if c.mute then d
  else d.pushCqe c.q (cqeBytes c.cid c.sqhd c.part 0 cls cause res) cls.isSome

/-- `old` with the bits of `m` taken from `raw`. -/
def mixBits (old m raw : Nat) : Nat := old - (old &&& m) + (raw &&& m)

/-! ## Queue registers (R261, R274, R278) -/

/-- The SQ of q is enabled. -/
def Dev.sqOn (d : Dev) (q : Nat) : Bool := d.flag (rHqSq q) 4

/-- Either half of a queue pair is enabled. -/
def Dev.queueOn (d : Dev) (q : Nat) : Bool := d.sqOn q || d.cqOn q

/-- A write of HQ_Q_n_SQ: while the pair is on only EN changes; EN needs LOG2SZ 4 to 16, and starts head and tail at 0. -/
def Dev.writeSq (d : Dev) (q v : Nat) : Dev :=
  let old := d.reg (rHqSq q)
  let v := if d.queueOn q then setBits old 4 4 (bits v 4 4) else v
  let on := bit v 4 && decide (4 ≤ bits v 11 7 ∧ bits v 11 7 ≤ 16)
  let d' := d.setReg (rHqSq q) (setBits v 4 4 (b2n on))
  if on && !bit old 4 then d'.setQueue q { d.queue q with head := 0, tail := 0, deferred := false } else d'

/-- A write of HQ_Q_n_CQ: ignored while the pair is on. -/
def Dev.writeCq (d : Dev) (q v : Nat) : Dev := if d.queueOn q then d else d.setReg (rHqCq q) (bits v 63 12 * 4096 + bits v 11 0)

/-- Entries of a function's MSI-X table (R274). -/
def vecLimit (fn : Nat) : Nat := if fn = 0 then 1040 else 16

/-- A write of HQ_Q_n_VEC: while the pair is on only IEN changes; IEN needs a vector of the owning function's table and
a CQ size of 4 to 16, and starts the CQ at entry 0 with PHASE 1. -/
def Dev.writeVec (d : Dev) (q v : Nat) : Dev :=
  let old := d.reg (rHqVec q)
  let v := if d.queueOn q then setBits old 20 20 (bits v 20 20) else setBits v 19 16 0
  let cq := d.reg (rHqCq q)
  let on := bit v 20 && decide (bits v 31 21 < vecLimit (bits cq 5 0)) && decide (4 ≤ bits cq 11 7 ∧ bits cq 11 7 ≤ 16)
  let d' := d.setReg (rHqVec q) (setBits v 20 20 (b2n on))
  if on && !bit old 20 then
    d'.setQueue q { d.queue q with cqIdx := 0, cqHead := 0, phase := true, posted := 0, unsignalled := 0, owed := [] }
  else if !on && bit old 20 then d'.setQueue q { d.queue q with unsignalled := 0, owed := [] }
  else d'

/-- The host writes that were held while the queue was being deleted take effect in the order they came (R9): to HQ_Q_n_SQ
(0), HQ_Q_n_CQ (1) or HQ_Q_n_VEC (2), the bits written and the value. -/
def Dev.applyQueueWrites (d : Dev) (q : Nat) (l : List (Nat × Nat × Nat)) : Dev :=
  forL l (fun e d =>
    if e.1 = 0 then d.writeSq q (mixBits (d.reg (rHqSq q)) e.2.1 e.2.2)
    else if e.1 = 1 then d.writeCq q (mixBits (d.reg (rHqCq q)) e.2.1 e.2.2)
    else d.writeVec q (mixBits (d.reg (rHqVec q)) e.2.1 e.2.2)) d

/-- A queue being deleted (R277) whose other commands have all posted their final completions: its CQ is disabled and
the deleting command completes on its own queue, or, where that is the queue itself, with the last entry its CQ
receives. Host writes to the queue's registers that were held follow (R9). -/
def Dev.tryClose (d : Dev) (q : Nat) : Dev :=
  let x := d.queue q
  match x.closing with
  | none => d
  | some seq =>
    if !x.owed.isEmpty || d.hq.fetched.any (fun c => c.q == q && c.seq != seq) then d else
    match d.fetchedCmd seq with
    | none => ((d.setFlag (rHqVec q) 20 false).setQueue q { x with closing := none, held := [] }).applyQueueWrites q x.held
    | some c =>
      if c.q = q then
        let d := d.postFinal c none 0 0
        if !(d.queue q).owed.isEmpty then d else
        ((d.setFlag (rHqVec q) 20 false).setQueue q { d.queue q with closing := none, held := [] }).applyQueueWrites q x.held
      else (((d.setFlag (rHqVec q) 20 false).setQueue q { x with closing := none, held := [] }).postFinal c none 0 0).applyQueueWrites
        q x.held

/-- Posts the final completion of a fetched command (R267), and ends the deletion of its queue if that waited for it. -/
def Dev.finish (d : Dev) (c : FetchedCmd) (cls : Option Nat) (cause res : Nat) : Dev :=
  (d.postFinal c cls cause res).tryClose c.q

/-- Success with RESULT `res`. -/
def Dev.done (d : Dev) (c : FetchedCmd) (res : Nat := 0) : Dev := d.finish c none 0 res

/-- A request-ended completion with a cause and DETAIL. -/
def Dev.fail (d : Dev) (c : FetchedCmd) (cause : Nat) (det : Nat := 0) : Dev := d.finish c (some clsRequest) cause det

/-- Ends with cause PARAM, naming a parameter (R271). -/
def Dev.param (d : Dev) (c : FetchedCmd) (i : Nat) : Dev := d.fail c 0x1 (detail 0 0 0 0 i)

/-- Ends with cause LOCKED, naming the register (R10). -/
def Dev.locked (d : Dev) (c : FetchedCmd) (off : Nat) : Dev := d.fail c 0x3 (detail 0 0 0 0 off)

/-- Posts the interim completion of a fetched command, once (R267). -/
def Dev.interim (d : Dev) (c : FetchedCmd) : Dev :=
  if c.interim then d else
  let d := d.setFetched { c with interim := true }
  if c.mute then d else d.pushCqe c.q (cqeBytes c.cid c.sqhd c.part 1 none 0 0) true

/-- Posts the final completion of the command with serial number `seq`, if it still lacks one. -/
def Dev.finishSeq (d : Dev) (seq : Nat) (cls : Option Nat) (cause res : Nat) : Dev :=
  match d.fetchedCmd seq with
  | some c => d.finish c cls cause res
  | none => d

/-- Ends every program of p that awaits its completion (R54). -/
def Dev.endPrograms (d : Dev) (p : Nat) (cls : Option Nat) (cause : Nat) : Dev :=
  let ws := d.hq.programs.filter fun w => w.p == p
  let d := { d with hq := { d.hq with programs := d.hq.programs.filter fun w => w.p != p } }
  forL ws (fun w d => d.finishSeq w.seq cls cause 0) d

/-- Stops the contexts of p with STATE 5. -/
def Dev.stopCtxs (d : Dev) (p : Nat) : Dev :=
  forL (d.ctxsOf p) (fun x d => d.modCtxFor p x.1 x.2 fun c => if c.state = .absent then c else { c with state := .stopped }) d

/-- What a partition-fatal record does beside being posted: FATAL and FCAUSE are latched (R269), the
contexts stop, and programs end with cause PART_FATAL (R54, R270). -/
def Dev.fatalPart (d : Dev) (p cause : Nat) : Dev :=
  let d := if d.flag (rHqPartStatus p) 30 then d
           else (d.setFlag (rHqPartStatus p) 30 true).setFld (rHqPartStatus p) 15 0 cause
  let d := d.setFlag (rPrtState p) 30 true
  let d := d.stopCtxs p
  d.endPrograms p (some clsPartition) 0x9

/-- What a device-fatal record does beside being posted: HQ_DEVSTAT latches it, every context stops, and
every fetched command ends with cause DEV_FATAL (R269, R270). -/
def Dev.fatalDev (d : Dev) (cause : Nat) : Dev :=
  let d := if d.flag rHqDevstat 30 then d else (d.setFlag rHqDevstat 30 true).setFld rHqDevstat 15 0 cause
  let d := forL (List.range 16) (fun p d => d.stopCtxs p) d
  let d := { d with hq := { d.hq with programs := [] } }
  forL d.hq.fetched (fun c d => d.finish c (some clsDevice) 0xA 0) d

/-- Puts a record on event queue `evq` (its register value), or counts it as dropped in `drop`. -/
def Dev.putRecord (d : Dev) (evq drop : Nat) (r : ErrRec) : Dev :=
  let q := evq % 2 ^ 14
  if bit evq 31 && d.cqOn q && !d.cqFull q then
    let x := d.queue q
    let st := 2 * 2 ^ 13 + 2 ^ 12 + r.cls * 2 ^ 10
    let e := leBytes 4 x.posted ++ leBytes 2 r.block ++ leBytes 2 (match r.part with | some p => p | none => 0xFF) ++
      leBytes 2 st ++ leBytes 2 r.cause ++ leBytes 4 r.unit ++ leBytes 16 r.det
    (d.setQueue q { x with posted := (x.posted + 1) % 2 ^ 32 }).writeCqe q e true
  else d.bump drop

/-- Posts an error record to the event queue of its partition or of the device (R269). -/
def Dev.record (d : Dev) (r : ErrRec) : Dev :=
  let d := match r.part with
    | some p => d.putRecord (d.reg (rHqPartEvq p)) (rHqPartEvdrop p) r
    | none => d.putRecord (d.reg rHqEvqDev) rHqEvdropDev r
  if r.cls = clsPartition then
    match r.part with
    | some p => d.fatalPart p r.cause
    | none => d
  else if r.cls = clsDevice then d.fatalDev r.cause
  else d

/-- UNIT of a record of block SEQ (Table 13-15). -/
def seqUnit (h n : Nat) (f : Option Nat) : Nat :=
  h + n * 2 + match f with | some f => 2 ^ 31 + f * 2 ^ 16 | none => 0

/-- A partition-fatal record of block SEQ for context n of hemisphere h. -/
def Dev.seqFatal (d : Dev) (h n cause bidx value : Nat) : Dev :=
  d.record { part := some (d.ctx h n).part, cls := clsPartition, cause, block := 10, unit := seqUnit h n none,
             det := detail 0 bidx n 0 value }

/-- A partition-fatal record of block FCT for facet f. -/
def Dev.fctFatal (d : Dev) (h n f cause bidx addr value : Nat) : Dev :=
  d.record { part := some (d.ctx h n).part, cls := clsPartition, cause, block := 11, unit := f,
             det := detail addr bidx n 0 value }

/-- A timing-fault event (R55): it is counted, and if no capture stands it is captured and recorded. The record holds the
capture's fields, its ICOUNT in the address field, which has no other use there (DEDUCED, log 97). -/
def Dev.tfault (d : Dev) (h n cause bidx icount : Nat) (f : Option Nat := none) : Dev :=
  let d := d.bump (rSeqTfault h)
  if d.flag (rSeqTfaultCap h) 63 then d else
  let cap := 2 ^ 63 + cause * 2 ^ 59 + n * 2 ^ 56 + b2n f.isSome * 2 ^ 55 + f.getD 0 * 2 ^ 47 +
    bidx % 2 ^ 13 * 2 ^ 34 + icount % 2 ^ 34
  let d := d.setReg (rSeqTfaultCap h) cap
  d.record { part := some (d.ctx h n).part, cls := clsCorrected, cause := 0x40, block := 10, unit := seqUnit h n f,
             det := detail (icount % 2 ^ 34) bidx n 0 cause }

/-! ## Functions and vectors (R256, R274) -/

/-- The partition to which VF fn is bound. -/
def Dev.fnPart (d : Dev) (fn : Nat) : Option Nat :=
  if fn ≠ 0 ∧ d.flag (rHqFn fn) 19 then some (d.fld (rHqFn fn) 23 20) else none

/-- The partition that function fn reaches: that of a VF which SR-IOV has enabled (R256). -/
def Dev.vfPart (d : Dev) (fn : Nat) : Option Nat := if d.flag (rHqFn fn) 31 then d.fnPart fn else none

/-- The function bound to partition p, the PF where none is. -/
def Dev.fnOf (d : Dev) (p : Nat) : Nat := ((List.range 64).find? fun f => d.fnPart f == some p).getD 0

/-- Signals vector v of function fn: a masked vector sets its pending bit. -/
def Dev.signalVec (d : Dev) (fn v : Nat) : Dev :=
  let k := msixKey fn v
  if d.hq.msixMask.get k = 0 then ({ d with hq := { d.hq with msix := d.hq.msix.add k 1 } } : Dev).addBytes pcieUnit 0 4
  else { d with hq := { d.hq with msixPend := d.hq.msixPend.set k 1 } }

/-! ## Counter slots (16_pmu.md, R306 to R311) -/

/-- BAR 0 offset of a counter slot (Table 16-6). -/
def ctrBase : PmuSlot → Nat
  | .facet f k => 0x3100000 + f.val * 0x100 + k.val * 0x20
  | .sector g k => 0x3110000 + g.val * 0x80 + k.val * 0x20
  | .memory x c k => 0x3120000 + x.val * 0x800 + c.val * 0x40 + k.val * 0x20
  | .port n k => 0x3130000 + n.val * 0x80 + k.val * 0x20
  | .ingest cl k => 0x3140000 + cl.val * 0x80 + k.val * 0x20

/-- Watchdog expiries of core c within the last 60 s: of the times of its last three. -/
def Dev.wdRecent (d : Dev) (c : Nat) : Nat :=
  countIf (fun i => let t := d.sys.coreRecent.get (c * 4 + i); t != 0 && decide (d.now < t - 1 + 60000000000)) (List.range 3)

/-- A slot that counts stands at this offset. -/
def slotCounts (off v : Nat) : Bool := decide (0x3100000 ≤ off ∧ off < 0x3160000) && off % 0x20 == 0 && bit v 31

/-- The context that owns the sector of a facet or sector slot: hemisphere and number. -/
def Dev.slotOwner (d : Dev) (s : PmuSlot) : Option (Nat × Nat) :=
  let g := match s with | .facet f _ => some (f.val / 16) | .sector g _ => some g.val | _ => none
  match g with
  | none => none
  | some g => match d.residentOf g with
    | none => none
    | some p => (d.ctxNum p (g / 8)).map fun n => (g / 8, n)

/-- A sampling slot captures the issue its owning context is in (R311); while it holds a sample, the wrap counts in DROP. -/
def Dev.captureSample (d : Dev) (s : PmuSlot) : Dev :=
  match d.slotOwner s with
  | none => d
  | some (h, n) =>
    let x := d.ctx h n
    if x.state = .absent then d
    else if d.samples.any fun y => y.slot == s then d.bump (rPmuSrDrop x.part)
    else { d with samples := d.samples ++ [{ slot := s, h, n, part := x.part, bidx := x.bidx, icount := x.icount }] }

/-- A slot adds n occurrences (R307, R308, R311). -/
def Dev.slotAdd (d : Dev) (s : PmuSlot) (n : Nat) : Dev :=
  let a := ctrBase s
  let c := d.fld (a + 8) 47 0 + n
  if c < 2 ^ 48 then d.setFld (a + 8) 47 0 c
  else if d.flag a 30 then (d.setReg (a + 8) (2 ^ 63 + (d.fld (a + 0x18) 47 0 + (c - 2 ^ 48)) % 2 ^ 48)).captureSample s
  else d.setReg (a + 8) (2 ^ 63 + c % 2 ^ 48)

/-- The slots given count n occurrences of an event on behalf of a partition; `sub` says which SUB counts them. -/
def Dev.countOn (d : Dev) (slots : List PmuSlot) (evt : Nat) (sub : Nat → Bool) (part : Option Nat) (n : Nat) : Dev :=
  if n = 0 || !(d.regs.any fun e => slotCounts e.1 e.2) || d.flag rPmuCtrl 31 then d else
  forL slots (fun s d =>
    let v := d.reg (ctrBase s)
    if bit v 31 && bits v 7 0 == evt && sub (bits v 15 8) && (!bit v 29 || part == some (bits v 27 24)) then d.slotAdd s n else d) d

/-- SUB of an event that does not use it (R307). -/
def noSub (s : Nat) : Bool := s == 0

/-- An event of facet f. -/
def Dev.countFacet (d : Dev) (f evt : Nat) (sub : Nat → Bool) (n : Nat) : Dev :=
  d.countOn ((List.range 8).map fun k => .facet (Fin.ofNat 256 f) (Fin.ofNat 8 k)) evt sub (d.residentOf (f / 16)) n

/-- An event of global sector g. -/
def Dev.countSector (d : Dev) (g evt : Nat) (sub : Nat → Bool) (n : Nat) : Dev :=
  d.countOn ((List.range 4).map fun k => .sector (Fin.ofNat 16 g) (Fin.ofNat 4 k)) evt sub (d.residentOf g) n

/-- An event of pseudo-channel c of stack x, on behalf of a partition or of none. -/
def Dev.countMem (d : Dev) (x c evt : Nat) (part : Option Nat) (n : Nat) : Dev :=
  d.countOn ((List.range 2).map fun k => .memory (Fin.ofNat 8 x) (Fin.ofNat 32 c) (Fin.ofNat 2 k)) evt noSub part n

/-- An event of port n. -/
def Dev.countPort (d : Dev) (n evt : Nat) (sub : Nat → Bool) (k : Nat) : Dev :=
  let part := if d.flag (rPortCfg n) 21 then some (d.fld (rPortCfg n) 25 22) else none
  d.countOn ((List.range 4).map fun j => .port (Fin.ofNat 48 n) (Fin.ofNat 4 j)) evt sub part k

/-- An event of ingest class cl, for partition p. -/
def Dev.countIngest (d : Dev) (cl p evt : Nat) (sub : Nat → Bool) (n : Nat) : Dev :=
  d.countOn ((List.range 4).map fun j => .ingest (Fin.ofNat 6 cl) (Fin.ofNat 4 j)) evt sub (some p) n

/-- `k` stall cycles of hemisphere h, with their cause of Table 02-9. -/
def Dev.countStall (d : Dev) (h cause k : Nat) : Dev :=
  forN 8 (fun i (d : Dev) => d.countSector (h * 8 + i) 2 (fun s => s == 0 || s == cause) k) d

/-- An event of the sectors that the context n of hemisphere h owns. -/
def Dev.countCtx (d : Dev) (h n evt : Nat) (sub : Nat → Bool) (k : Nat) : Dev :=
  let p := (d.ctx h n).part
  forL ((List.range 8).filter fun i => d.holds p (h * 8 + i)) (fun i d => d.countSector (h * 8 + i) evt sub k) d

end Sys2Proof.Machine
end

