-- ==== Sys2Proof/Machine/Commands.lean ====
section
/-! DEFINITION. How a host command comes to run: its fetch under weighted round-robin, the checks of R264,
its parameters (R263), the critical-command checks (R249), and the wrapper that every command row goes
through. -/

namespace Sys2Proof.Machine

/-! ## Opcodes (Table 13-6 and the chapters' command tables) -/

/-- Whether a defined opcode is critical, and whether only the PF may issue it. -/
structure OpInfo where
  crit : Bool
  pf : Bool
deriving DecidableEq, Repr

/-- The opcodes of Table 13-6 with their later ranges (Tables 14-5, 15-6, 16-5, 17-6, 19-6). -/
def opInfo (opc : Nat) : Option OpInfo :=
  let hi := opc / 256
  let lo := opc % 256
  let i (crit pf : Bool) : Option OpInfo := some { crit, pf }
  match hi with
  | 0x00 => if 1 ≤ lo ∧ lo ≤ 5 then i false true else if lo = 6 then i false false else none
  | 0x01 => if 1 ≤ lo ∧ lo ≤ 4 then i false false else none
  | 0x02 => if 1 ≤ lo ∧ lo ≤ 3 then i false false else none
  | 0x03 => if lo = 1 ∨ lo = 4 then i false true else if lo = 2 then i false false
            else if lo = 3 then i true true else none
  | 0x04 => if 1 ≤ lo ∧ lo ≤ 0xA then i false false else none
  | 0x05 => if lo = 1 ∨ lo = 8 then i false true else if 2 ≤ lo ∧ lo ≤ 7 then i false false else none
  | 0x06 => if 4 ≤ lo ∧ lo ≤ 8 ∨ 0xC ≤ lo ∧ lo ≤ 0x10 then i true false
            else if 1 ≤ lo ∧ lo ≤ 0x11 then i false false else none
  | 0x07 => if lo = 1 ∨ lo = 2 then i true true else if 3 ≤ lo ∧ lo ≤ 6 then i false true else none
  | 0x08 => if 1 ≤ lo ∧ lo ≤ 5 then i false false else none
  | 0x09 => if lo = 3 ∨ lo = 4 then i false true else if 1 ≤ lo ∧ lo ≤ 2 then i false false else none
  | 0x0A => if lo = 2 then i true true else if 1 ≤ lo ∧ lo ≤ 8 then i false true else none
  | 0x0B => if lo = 1 then i false false else if 2 ≤ lo ∧ lo ≤ 3 then i false true else none
  | _ => none

/-- The commands that still run while their partition is stopped by a partition-fatal error: those of R288
(PRT_PREEMPT only with PARK, which its own meaning checks), and PARTITION_RESET, which ends that state
(R7, R358). -/
def runsWhenFatal (opc : Nat) : Bool :=
  opc == 0x702 || opc == 0x704 || opc == 0x607 || opc == 0x604 || opc == 0x006 || opc == 0x706

/-! ## Queues -/

/-- Entries of the submission queue of q. -/
def Dev.sqSize (d : Dev) (q : Nat) : Nat := 2 ^ d.fld (rHqSq q) 11 7

/-- The queue serves no partition: DEV = 1 and the PF owns it (R261). -/
def Dev.devQueue (d : Dev) (q : Nat) : Bool := d.flag (rHqCq q) 6 && d.fld (rHqCq q) 5 0 == 0

/-- The partition of a queue that has one. -/
def Dev.queuePart (d : Dev) (q : Nat) : Option Nat :=
  if d.devQueue q then none else some (d.fld (rHqSq q) 3 0)

/-- CQ entries held for fetched commands of q that lack a final completion (R268). -/
def Dev.cqHeld (d : Dev) (q : Nat) : Nat :=
  (d.hq.fetched.filter fun c => c.q == q).foldl (fun n c => n + if c.interim then 1 else 2) 0

/-- Free entries of the CQ of q. -/
def Dev.cqFree (d : Dev) (q : Nat) : Nat :=
  let x := d.queue q
  let n := d.cqSize q
  n - 1 - (x.cqIdx + n - x.cqHead) % n

/-- The CQ has two free entries beyond those held (R268). A disabled CQ binds nothing (R261). -/
def Dev.fetchRoom (d : Dev) (q : Nat) : Bool := !d.cqOn q || decide (d.cqHeld q + 2 ≤ d.cqFree q)

/-- Queues with a pending command. -/
def Dev.pendingQueues (d : Dev) : List Nat :=
  (d.hq.queues.filter fun e => e.2.head != e.2.tail && d.sqOn e.1 && e.2.closing.isNone).map Prod.fst

/-- Marks and counts the pending queues whose fetch is deferred, once until they have fetched (R268). -/
def Dev.deferQueues (d : Dev) : Dev :=
  forL d.pendingQueues (fun q d =>
    if d.fetchRoom q || (d.queue q).deferred then d
    else (d.setQueue q { d.queue q with deferred := true }).bump rHqCqfull) d

/-- Weight of class c. -/
def Dev.weight (d : Dev) (c : Nat) : Nat := d.fld rHqArb (4 * c + 3) (4 * c)

/-- The class whose slot this is, among the classes that hold fetchable commands: the class in turn while
its share lasts, else the next in increasing order, round and round (R272). -/
def Dev.pickClass (d : Dev) (cands : List Nat) : Option Nat :=
  let has (c : Nat) : Bool := cands.any fun q => d.fld (rHqSq q) 6 5 == c
  if d.hq.turnLeft != 0 && has d.hq.turnClass then some d.hq.turnClass
  else ((List.range 4).map fun i => (d.hq.turnClass + 1 + i) % 4).find? has

/-- The queue whose turn it is within class c: the one last served while its burst lasts, else the next in
increasing queue number (R272). -/
def Dev.pickQueue (d : Dev) (c : Nat) (cands : List Nat) : Option (Nat × Bool) :=
  let qs := cands.filter fun q => d.fld (rHqSq q) 6 5 == c
  let last := d.hq.lastServed.get c
  if d.hq.burstLeft.get c ≠ 0 ∧ qs.contains (last - 1) ∧ last ≠ 0 then some (last - 1, false)
  else
    match qs.find? (fun q => decide (last ≤ q)) with
    | some q => some (q, true)
    | none => qs.head?.map fun q => (q, true)

/-- A 128 B entry: the bytes given, cut or filled up with zeros. -/
def entryOf (l : List Byte) : List Byte := (l ++ List.replicate (128 - l.length) 0).take 128

/-- The reserved bytes of a command entry are 0 (Table 13-3). -/
def entryClean (e : List Byte) : Bool :=
  leAt e 2 2 < 4 && (leAt e 0 2 == 0x104 || leAt e 9 1 == 0) && leAt e 0xA 2 == 0 && leAt e 0x18 8 == 0 &&
    decide (leAt e 0xC 4 ≤ 2 ^ 24)

/-- Steps 1 to 4 of R264, with R270 before them and the PF commands of R275 beside step 4: the class and
cause with which the command ends at its fetch. -/
def Dev.fetchCheck (d : Dev) (c : FetchedCmd) : Option (Nat × Nat) :=
  if d.flag rHqDevstat 30 then some (clsDevice, 0xA)
  else if (match d.queuePart c.q with | some p => d.partFatal p | none => false) && !runsWhenFatal c.opc then
    some (clsPartition, 0x9)
  else match opInfo c.opc with
    | none => some (clsRequest, 0x1)
    | some i =>
      if i.crit ≠ c.crit then some (clsRequest, 0x1)
      else if !entryClean c.entry then some (clsRequest, 0x1)
      else if i.pf && d.fld (rHqCq c.q) 5 0 != 0 then some (clsRequest, 0x2)
      else match d.queuePart c.q with
        | some p => if c.part = p then none else some (clsRequest, 0x2)
        | none => if c.part < 16 ∨ c.part = 0xFF then none else some (clsRequest, 0x2)

/-- One arbitration slot (R272): fetches one command, if a queue holds one that may be fetched, and makes
the checks of R264 that need no parameters. The entry and its buffer are what host memory gives. -/
def Dev.fetchSlot (d : Dev) (entry buf : List Byte) : Dev :=
  let d := d.deferQueues
  let cands := d.pendingQueues.filter fun q => d.fetchRoom q
  match d.pickClass cands with
  | none => d
  | some c =>
    match d.pickQueue c cands with
    | none => d
    | some (q, fresh) =>
      let left := if d.hq.turnLeft != 0 && d.hq.turnClass == c then d.hq.turnLeft else d.weight c
      let burst := if fresh then d.fld rHqArb 17 16 + 1 else d.hq.burstLeft.get c
      let x := d.queue q
      let head := (x.head + 1) % d.sqSize q
      let d := (d.setQueue q { x with head, deferred := false }).addBytes pcieUnit (128 + buf.length) 0
      let cmd : FetchedCmd := { seq := d.hq.nextSeq, q, sqhd := head, entry := entryOf entry, buf, started := false,
                                interim := false, mute := false }
      let d := { d with hq := { d.hq with
        nextSeq := d.hq.nextSeq + 1, fetched := d.hq.fetched ++ [cmd], turnClass := c, turnLeft := left - 1,
        burstLeft := d.hq.burstLeft.set c (burst - 1), lastServed := d.hq.lastServed.set c (q + 1) } }
      match d.fetchCheck cmd with
      | some (cls, cause) => d.finish cmd (some cls) cause 0
      | none => d

/-! ## Parameters (R263) -/

/-- The kinds of parameters: a number of 1, 2, 4 or 8 bytes, a byte string, or a list whose elements are
records of such numbers. -/
inductive PKind where
  | num (n : Nat)
  | bytes (n : Nat)
  | list (elem : List Nat)
deriving DecidableEq, Repr

/-- The parameters of a command: numbers in order (a byte string as its little-endian number), lists in
order, and whether all of them were there. -/
structure Params where
  n : List Nat
  l : List (List (List Nat))
  ok : Bool
deriving DecidableEq, Repr

/-- Parameter i of the numbers. -/
def Params.at (p : Params) (i : Nat) : Nat := p.n.getD i 0

/-- List i. -/
def Params.lst (p : Params) (i : Nat) : List (List Nat) := p.l.getD i []

/-- Reads the fields of one list element from position `pos`, each naturally aligned. -/
def getElem (b : List Byte) : Nat → List Nat → List Nat × Nat
  | pos, [] => ([], pos)
  | pos, n :: ns =>
    let pos := roundUp pos (min n 8)
    let r := getElem b (pos + n) ns
    (leAt b pos n :: r.1, r.2)

/-- Reads `k` list elements from position `pos`. -/
def getElems (b : List Byte) (e : List Nat) : Nat → Nat → List (List Nat) × Nat
  | 0, pos => ([], pos)
  | k + 1, pos =>
    let r := getElem b pos e
    let s := getElems b e k r.2
    (r.1 :: s.1, s.2)

/-- Reads parameters: `ca` is the place in the entry, `cb` the place in the buffer. A number that does not
fit before `stop`, and every list, stands in the buffer. -/
def getParams (e b : List Byte) (stop : Nat) : Nat → Nat → List PKind → Params
  | _, _, [] => { n := [], l := [], ok := true }
  | ca, cb, .list el :: ks =>
    let cb := roundUp cb 4
    let k := leAt b cb 4
    let k := if k ≤ b.length then k else 0
    let r := getElems b el k (cb + 4)
    let p := getParams e b stop ca r.2 ks
    { p with l := r.1 :: p.l, ok := p.ok && decide (cb + 4 ≤ b.length) && decide (r.2 ≤ b.length) }
  | ca, cb, .num n :: ks =>
    let pa := roundUp ca n
    if pa + n ≤ stop then
      let p := getParams e b stop (pa + n) cb ks
      { p with n := leAt e pa n :: p.n }
    else
      let pb := roundUp cb n
      let p := getParams e b stop stop (pb + n) ks
      { p with n := leAt b pb n :: p.n, ok := p.ok && decide (pb + n ≤ b.length) }
  | ca, cb, .bytes n :: ks =>
    let pa := roundUp ca 8
    if pa + n ≤ stop then
      let p := getParams e b stop (pa + n) cb ks
      { p with n := leAt e pa n :: p.n }
    else
      let pb := roundUp cb 8
      let p := getParams e b stop stop (pb + n) ks
      { p with n := leAt b pb n :: p.n, ok := p.ok && decide (pb + n ≤ b.length) }

/-- The parameters of a fetched command: from 0x20 of the entry, or from 0x40 when a critical command has
a buffer; up to the trailer or the end. -/
def FetchedCmd.params (c : FetchedCmd) (spec : List PKind) : Params :=
  let start := if c.crit && c.plen != 0 then 0x40 else 0x20
  getParams c.entry c.buf (if c.crit then 0x60 else 0x80) start 0 spec

/-! ## Critical commands (12_custody.md, Critical commands) -/

/-- CUS_STATUS.OWNER_SET. -/
def Dev.ownerSet (d : Dev) : Bool := d.flag rCusStatus 60

/-- The principal index of a KEYID (Table 12-5): 0 the owner, 1 + s session s. -/
def prinOf (keyid : Nat) : Option Nat :=
  if keyid = 0 then some 0
  else if 0x10000 ≤ keyid ∧ keyid < 0x10100 then some (keyid - 0x10000 + 1)
  else none

/-- The principal of a critical command's trailer. -/
def FetchedCmd.prin (c : FetchedCmd) : Nat := (prinOf (leAt c.entry 0x78 4)).getD 0

/-- Principal k's keys. -/
def Dev.principal (d : Dev) (k : Nat) : Option Principal := d.cus.principals.find? fun x => x.k == k

/-- CUS_PRIN_k.VALID. -/
def Dev.prinValid (d : Dev) (k : Nat) : Bool := d.flag (rCusPrin k) 127

/-- Principal k is a session bound to what PART names: partition, or the device for 0xFF. -/
def Dev.sessionOf (d : Dev) (k part : Nat) : Bool :=
  k != 0 && d.prinValid k &&
    (if part = 0xFF then d.flag (rCusPrin k) 121
     else !d.flag (rCusPrin k) 121 && d.fld (rCusPrin k) 125 122 == part)

/-- Whether Table 12-6 permits principal k for a command. -/
def Dev.permitted (d : Dev) (c : FetchedCmd) (ps : Params) (k : Nat) : Bool :=
  match c.opc with
  | 0x604 => k == ps.at 0 + 1
  | 0x605 => if d.ownerSet then k == 0 else k != 0 && d.flag (rCusPrin k) 121
  | 0x606 => if k = 0 then c.part == 0xFF else d.sessionOf k c.part && c.part != 0xFF
  | 0x607 => if k = 0 then d.flag (rCusSlot (ps.at 0)) 61 else d.sessionOf k c.part && c.part != 0xFF
  | 0x608 => if k = 0 then ps.at 0 == 0 else d.sessionOf k c.part && c.part != 0xFF
  | _ => k == 0

/-- Whether a command needs the owner whoever signs it (R251). -/
def needsOwner (opc : Nat) : Bool := opc != 0x604 && opc != 0x605 && opc != 0x606 && opc != 0x607 && opc != 0x608

/-- Locks principal k out when its FAILS has reached 16 (R251). -/
def Dev.lockout (d : Dev) (k : Nat) : Dev :=
  if d.fld (rCusPrin k) 120 115 < 16 then d else
  let d := d.setFlag (rCusPrin k) 126 true
  { d with cus := { d.cus with
    principals := d.cus.principals.map fun x => if x.k = k then { x with lockouts := x.lockouts + 1 } else x } }

/-- The trailer checks of R249 on a critical command: the device after them, and the cause and principal
with which the command is refused, if it is. -/
def Dev.critCheck (d : Dev) (c : FetchedCmd) (ps : Params) : Dev × Option (Nat × Nat) :=
  let keyid := leAt c.entry 0x78 4
  let ctr := leAt c.entry 0x60 8
  if needsOwner c.opc && !d.ownerSet then (d, some (0x13, 0))
  else match prinOf keyid with
    | none => (d.bump rCusAuthfail, some (0x10, 0))
    | some k =>
      if !d.prinValid k || !d.permitted c ps k then (d.bump rCusAuthfail, some (0x10, k))
      else if d.flag (rCusPrin k) 126 then (d, some (0x11, k))
      else if leAt c.entry 0x7C 4 != 0 then (d.bump rCusAuthfail, some (0x10, k))
      else
        let mac := match d.principal k with | some x => x.mac | none => 0
        let h := Config.hmac mac (c.entry.take 0x68 ++ slice c.entry 0x78 8)
        if h.toNat / 2 ^ 128 ≠ beNat (slice c.entry 0x68 16) then
          let d := d.bump rCusAuthfail
          let d := d.setFld (rCusPrin k) 120 115 (min 63 (d.fld (rCusPrin k) 120 115 + 1))
          (d.lockout k, some (0x10, k))
        else if ctr ≤ d.fld (rCusPrin k) 63 0 then (d.bump rCusReplay, some (0x12, k))
        else
          let d := d.setFld (rCusPrin k) 63 0 ctr
          let d := d.setFld (rCusPrin k) 120 115 0
          let d := { d with cus := { d.cus with
            principals := d.cus.principals.map fun x => if x.k = k then { x with lockouts := 0 } else x } }
          let d := if k = 0 then
              { d with sys := { d.sys with ownerFlash := d.sys.ownerFlash.map fun o => (o.1, o.2.1, ctr) } }
            else d
          (d, none)

/-! ## The wrapper of a command row -/

/-- The first fetched command of q that has not started, if every earlier command of the queue has posted
its final completion or it carries no FENCE (R265). -/
def Dev.startable (d : Dev) (q : Nat) : Option FetchedCmd :=
  match d.hq.fetched.find? (fun c => c.q == q && !c.started) with
  | none => none
  | some c =>
    if c.fence && d.hq.fetched.any (fun x => x.q == q && x.seq < c.seq) then none else some c

/-- The index of the parameter that a command's buffer carries: its first list, or, where it has none, the one after those of
the entry (R249, R263). -/
def bufferParam (spec : List PKind) : Nat := spec.findIdx fun k => match k with | .list _ => true | _ => false

/-- A command row: the next command of queue q starts if it has this opcode (R265). After a fatal error it
ends with it (R270); a parameter that is missing or outside its range (`bad` gives its index) ends it with
PARAM (R264 step 5); a critical command is authenticated (R249) and its buffer digest compared; and then it
acts. -/
def Dev.cmd (d : Dev) (q : QueueN) (opc : Nat) (spec : List PKind) (bad : Params → Option Nat)
    (act : FetchedCmd → Params → Dev → Dev) : Dev :=
  match d.startable q.val with
  | none => d
  | some c =>
    if c.opc ≠ opc then d else
    let ps := c.params spec
    let c := { c with started := true }
    let d := d.setFetched c
    if d.flag rHqDevstat 30 then d.finish c (some clsDevice) 0xA 0
    else if c.part < 16 && d.partFatal c.part && !runsWhenFatal opc then d.finish c (some clsPartition) 0x9 0
    else if !ps.ok then d.param c 0
    else match bad ps with
      | some i => d.param c i
      | none =>
        if c.crit then
          match d.critCheck c ps with
          | (d, some (cause, k)) => d.fail c cause (detail 0 0 0 0 k)
          | (d, none) =>
            if c.plen != 0 && (Config.sha256 c.buf).toNat != beNat (slice c.entry 0x20 32) then d.param c (bufferParam spec)
            else act c ps d
        else act c ps d

/-- A command row whose command does not start while `wait` holds of it (R283). -/
def Dev.cmdUnless (d : Dev) (q : QueueN) (wait : FetchedCmd → Bool) (run : Dev → Dev) : Dev :=
  match d.startable q.val with
  | some c => if wait c then d else run d
  | none => d

/-- No parameter has a range narrower than its bytes. -/
def noBad (_ : Params) : Option Nat := none

/-- The first of several (condition, index) pairs whose condition holds. -/
def firstBad (l : List (Bool × Nat)) : Option Nat := (l.find? fun x => x.1).map Prod.snd

/-- The command names an existing partition, else PARAM. -/
def Dev.onPart (d : Dev) (c : FetchedCmd) (f : Dev → Dev) : Dev :=
  if c.part < 16 && d.partValid c.part then f d else d.param c 0

end Sys2Proof.Machine
end

