-- ==== Sys2Proof/Machine/Flags.lean ====
section
/-! DEFINITION. Number formats (05_number_formats.md), exact arithmetic and its roundings
(06_accumulation_rounding.md), the generators, and the numeric events with their flags, counters, captures
and ring records. -/

namespace Sys2Proof.Machine

/-! ## Events of one element -/

/-- Occurrences of the numeric events of Table 06-4, with FLUSH split into input and output flushes. -/
structure Ev where
  inv : Nat := 0
  ovf : Nat := 0
  nan : Nat := 0
  inf : Nat := 0
  divz : Nat := 0
  fin : Nat := 0
  fout : Nat := 0
deriving DecidableEq, Repr

/-- An event count with every kind counted at most once. -/
def Ev.once (e : Ev) : Ev :=
  { inv := min 1 e.inv, nan := min 1 e.nan, inf := min 1 e.inf, ovf := min 1 e.ovf, divz := min 1 e.divz,
    fin := min 1 e.fin, fout := min 1 e.fout }

/-- The sum of two event counts. -/
def Ev.add (a b : Ev) : Ev where
  inv := a.inv + b.inv
  ovf := a.ovf + b.ovf
  nan := a.nan + b.nan
  inf := a.inf + b.inf
  divz := a.divz + b.divz
  fin := a.fin + b.fin
  fout := a.fout + b.fout

/-- No event. -/
def Ev.none : Ev := {}

/-- Occurrences of kind k (5 is FLUSH). -/
def Ev.kind (e : Ev) : Nat → Nat
  | 0 => e.inv
  | 1 => e.ovf
  | 2 => e.nan
  | 3 => e.inf
  | 4 => e.divz
  | 5 => e.fin + e.fout
  | _ => 0

/-! ## Formats (Table 05-1) -/

/-- A float format: exponent and fraction bits, bias, largest finite magnitude code, the magnitude code of
infinity and the canonical NaN where it has them. -/
structure FloatFmt where
  eb : Nat
  fb : Nat
  bias : Nat
  maxFin : Nat
  inf : Option Nat
  nan : Option Nat
deriving DecidableEq, Repr

/-- The float formats of codes 0x0 to 0x7. -/
def floatFmt : Nat → Option FloatFmt
  | 0x0 => some { eb := 8, fb := 23, bias := 127, maxFin := 0x7F7FFFFF, inf := some 0x7F800000, nan := some 0x7FC00000 }
  | 0x1 => some { eb := 8, fb := 7, bias := 127, maxFin := 0x7F7F, inf := some 0x7F80, nan := some 0x7FC0 }
  | 0x2 => some { eb := 5, fb := 10, bias := 15, maxFin := 0x7BFF, inf := some 0x7C00, nan := some 0x7E00 }
  | 0x3 => some { eb := 4, fb := 3, bias := 7, maxFin := 0x7E, inf := none, nan := some 0x7F }
  | 0x4 => some { eb := 5, fb := 2, bias := 15, maxFin := 0x7B, inf := some 0x7C, nan := some 0x7E }
  | 0x5 => some { eb := 3, fb := 2, bias := 3, maxFin := 0x1F, inf := none, nan := none }
  | 0x6 => some { eb := 2, fb := 3, bias := 1, maxFin := 0x1F, inf := none, nan := none }
  | 0x7 => some { eb := 2, fb := 1, bias := 1, maxFin := 0x7, inf := none, nan := none }
  | _ => none

/-- Bits of an element (Table 05-1). -/
def fmtBits : Nat → Nat
  | 0x0 => 32
  | 0x1 => 16
  | 0x2 => 16
  | 0x3 => 8
  | 0x4 => 8
  | 0x5 => 6
  | 0x6 => 6
  | 0x7 => 4
  | 0x8 => 8
  | 0x9 => 8
  | 0xA => 4
  | _ => 8

/-- INT8, UINT8 and INT4. -/
def fmtIsInt (f : Nat) : Bool := f == 8 || f == 9 || f == 0xA

/-- Width class of Table 05-3 as bits: 32, 16, 8, or 4 for the 6-bit and 4-bit formats. -/
def fmtClass (f : Nat) : Nat :=
  let w := fmtBits f
  if w = 6 ∨ w = 4 then 4 else w

/-! ## Elements -/

/-- A zero of a sign. -/
def Elem.zero (neg : Bool) : Elem := { cls := 0, neg, m := 0, x := 0 }
/-- A finite value, or the zero of that sign when its magnitude is 0. -/
def Elem.fin (neg : Bool) (m : Nat) (x : Int) : Elem := if m = 0 then Elem.zero neg else { cls := 1, neg, m, x }
/-- An infinity. -/
def Elem.infinity (neg : Bool) : Elem := { cls := 2, neg, m := 0, x := 0 }
/-- NaN. -/
def Elem.nan : Elem := { cls := 3, neg := false, m := 0, x := 0 }

def Elem.isZero (e : Elem) : Bool := e.cls == 0
def Elem.isInf (e : Elem) : Bool := e.cls == 2
def Elem.isNan (e : Elem) : Bool := e.cls == 3
def Elem.isFin (e : Elem) : Bool := e.cls == 0 || e.cls == 1

/-- The value with the other sign (a NaN stays a NaN). -/
def Elem.neg' (e : Elem) : Elem := if e.isNan then e else { e with neg := !e.neg }

/-- Exponent of the leading bit of a finite non-zero value: floor(log2 |v|). -/
def Elem.log2 (e : Elem) : Int := (Nat.log2 e.m : Int) + e.x

/-- Reads a code of formats 0x0 to 0xA as an element and tells whether a subnormal was flushed (R99, R100,
R101, R104). An E8M0 code reads as 2^(S − 127), 0xFF as NaN. -/
def readElem (fmt code : Nat) : Elem × Bool :=
  match floatFmt fmt with
  | some f =>
    let s := bit code (f.eb + f.fb)
    let mag := code % 2 ^ (f.eb + f.fb)
    let e := mag / 2 ^ f.fb
    let fr := mag % 2 ^ f.fb
    if (match f.nan with | some _ => decide (f.maxFin < mag) && f.inf != some mag | none => false) then (Elem.nan, false)
    else if f.inf = some mag then (Elem.infinity s, false)
    else if e = 0 then
      if fr = 0 then (Elem.zero s, false)
      else if f.eb = 8 then (Elem.zero s, true)
      else (Elem.fin s fr (1 - (f.bias : Int) - f.fb), false)
    else (Elem.fin s (2 ^ f.fb + fr) ((e : Int) - f.bias - f.fb), false)
  | none =>
    match fmt with
    | 0x8 => let v := toSigned 8 code; (Elem.fin (decide (v < 0)) v.natAbs 0, false)
    | 0x9 => (Elem.fin false (code % 256) 0, false)
    | 0xA => let v := toSigned 4 code; (Elem.fin (decide (v < 0)) v.natAbs 0, false)
    | _ => if code % 256 = 255 then (Elem.nan, false) else (Elem.fin false 1 ((code % 256 : Nat) - 127), false)

/-- An FP32 word read as an element (R104). -/
def readF32 (w : Nat) : Elem × Bool := readElem 0 w

/-- The signed integer value of a finite element times 2^q, exact when q covers its exponent. -/
def Elem.scaled (e : Elem) (q : Nat) : Int :=
  let v : Nat := if 0 ≤ e.x + q then e.m * 2 ^ (e.x + q).toNat else e.m / 2 ^ (-(e.x + q)).toNat
  if e.neg then -(v : Int) else v

/-! ## Rounding -/

/-- Rounding modes of the lane op's rnd field and DFLAGS.RND; a stochastic rounding carries its 16 bits. -/
inductive Rnd where
  | even
  | sto (u : Nat)
  | zero
deriving DecidableEq, Repr

/-- m * 2^x as a multiple of 2^q, rounded to an integer magnitude (R106 step 4, R127). -/
def roundMag (r : Rnd) (m : Nat) (x q : Int) : Nat :=
  if q ≤ x then m * 2 ^ (x - q).toNat
  else
    let s := (q - x).toNat
    let k := m / 2 ^ s
    match r with
    | .zero => k
    | .sto u => (m * 65536 + u * 2 ^ s) / (2 ^ s * 65536)
    | .even =>
      let t := 2 * (m % 2 ^ s)
      if 2 ^ s < t ∨ (t = 2 ^ s ∧ k % 2 = 1) then k + 1 else k

/-- The result and events of a conversion or a rounding. -/
structure Rounded where
  code : Nat
  ev : Ev
deriving DecidableEq, Repr

/-- A sign and a magnitude code in a format of `w` bits. -/
def signMag (w : Nat) (neg : Bool) (mag : Nat) : Nat := mag + b2n neg * 2 ^ (w - 1)

/-- Rounds a finite non-zero value to a float format with R105 and R107. -/
def roundFloat (fmt : Nat) (f : FloatFmt) (r : Rnd) (sat : Bool) (v : Elem) : Rounded :=
  let w := fmtBits fmt
  let emin : Int := 1 - (f.bias : Int)
  let wide := f.eb == 8
  let e := if wide then v.log2 else max v.log2 emin
  let q := e - f.fb
  let k := roundMag r v.m v.x q
  if k = 0 then { code := signMag w v.neg 0, ev := if wide then { fout := 1 } else {} }
  else if wide ∧ (Nat.log2 k : Int) + q < emin then { code := signMag w v.neg 0, ev := { fout := 1 } }
  else
    let c : Int := (e + f.bias - 1) * 2 ^ f.fb + k
    if c ≤ f.maxFin then { code := signMag w v.neg c.toNat, ev := {} }
    else
      let big := signMag w v.neg f.maxFin
      let code := match r with
        | .zero => big
        | _ =>
          if fmt = 0 then signMag w v.neg (f.inf.getD 0)
          else if sat then big
          else match f.inf with
            | some i => signMag w v.neg i
            | none => match f.nan with
              | some n => n
              | none => big
      { code, ev := { ovf := 1 } }

/-- Least and largest value of an integer target: INT8, UINT8, INT4, and the lane types INT32 (0x10) and
UINT32 (0x11). -/
def intRange (fmt : Nat) : Int × Int :=
  match fmt with
  | 0x8 => (-128, 127)
  | 0x9 => (0, 255)
  | 0xA => (-8, 7)
  | 0x10 => (-2147483648, 2147483647)
  | _ => (0, 4294967295)

/-- Bits of an integer target. -/
def intBits (fmt : Nat) : Nat := if fmt = 0x10 ∨ fmt = 0x11 then 32 else fmtBits fmt

/-- Converts an exact value to a target format (R106, R107). E8M0 is R109's own. -/
def convert (fmt : Nat) (r : Rnd) (sat : Bool) (v : Elem) : Rounded :=
  match floatFmt fmt with
  | some f =>
    let w := fmtBits fmt
    if v.isNan then
      match f.nan with
      | some n => { code := n, ev := {} }
      | none => { code := 0, ev := { inv := 1 } }
    else if v.isInf then
      match f.inf with
      | some i => { code := signMag w v.neg i, ev := {} }
      | none =>
        let big := signMag w v.neg f.maxFin
        { code := (match f.nan with | some n => if sat then big else n | none => big), ev := { inv := 1 } }
    else if v.isZero then { code := signMag w v.neg 0, ev := {} }
    else roundFloat fmt f r sat v
  | none =>
    let rg := intRange fmt
    let w := intBits fmt
    if v.isNan then { code := 0, ev := { inv := 1 } }
    else if v.isInf then { code := ofSigned w (if v.neg then rg.1 else rg.2), ev := { inv := 1 } }
    else if v.isZero then { code := 0, ev := {} }
    else
      let k := roundMag r v.m v.x 0
      let z : Int := if v.neg then -(k : Int) else k
      if z < rg.1 then { code := ofSigned w rg.1, ev := { ovf := 1 } }
      else if rg.2 < z then { code := ofSigned w rg.2, ev := { ovf := 1 } }
      else { code := ofSigned w z, ev := {} }

/-- Rounds an exact value to FP32 as arithmetic does. -/
def toF32 (r : Rnd) (v : Elem) : Rounded := convert 0 r false v

/-! ## Exact arithmetic -/

/-- The exact sum of two elements; INV where infinities of opposite sign meet (R118, R384). -/
def eAdd (a b : Elem) : Elem × Ev :=
  if a.isNan || b.isNan then (Elem.nan, {})
  else if a.isInf && b.isInf then if a.neg = b.neg then (a, {}) else (Elem.nan, { inv := 1 })
  else if a.isInf then (a, {})
  else if b.isInf then (b, {})
  else
    let x := if a.isZero then b.x else if b.isZero then a.x else min a.x b.x
    let ma := if a.isZero then 0 else a.m * 2 ^ (a.x - x).toNat
    let mb := if b.isZero then 0 else b.m * 2 ^ (b.x - x).toNat
    let s : Int := (if a.neg then -(ma : Int) else ma) + (if b.neg then -(mb : Int) else mb)
    if s = 0 then (Elem.zero (a.isZero && b.isZero && a.neg && b.neg), {})
    else (Elem.fin (decide (s < 0)) s.natAbs x, {})

/-- The exact product; INV where zero meets infinity (Table 06-3). -/
def eMul (a b : Elem) : Elem × Ev :=
  let s := a.neg != b.neg
  if a.isNan || b.isNan then (Elem.nan, {})
  else if (a.isZero && b.isInf) || (a.isInf && b.isZero) then (Elem.nan, { inv := 1 })
  else if a.isInf || b.isInf then (Elem.infinity s, {})
  else if a.isZero || b.isZero then (Elem.zero s, {})
  else (Elem.fin s (a.m * b.m) (a.x + b.x), {})

/-- FP32 sum of two FP32 words, nearest-even, reading as R104: the step of chords and RED SUM. -/
def f32Add (a b : Nat) : Rounded :=
  let x := readF32 a
  let y := readF32 b
  let s := eAdd x.1 y.1
  let r := toF32 .even s.1
  { code := r.code, ev := (r.ev.add s.2).add { fin := b2n x.2 + b2n y.2 } }

/-- Compares two finite or infinite elements: -1, 0 or 1, with −0 equal to +0. -/
def eCmp (a b : Elem) : Int :=
  let key (e : Elem) : Int := if e.isZero then 0 else if e.neg then -1 else 1
  if key a ≠ key b then if key a < key b then -1 else 1
  else if a.isZero then 0
  else
    let mag : Int :=
      if a.isInf && b.isInf then 0
      else if a.isInf then 1
      else if b.isInf then -1
      else
        let x := min a.x b.x
        let ma := a.m * 2 ^ (a.x - x).toNat
        let mb := b.m * 2 ^ (b.x - x).toNat
        if ma < mb then -1 else if mb < ma then 1 else 0
    if a.neg then -mag else mag

/-! ## Correctly rounded special functions (R385)

RCP, SQRT and RSQRT are formed with a sticky bit below at least 60 bits; EXP2, LOG2 and TANH in fixed point
with 320 fractional bits, far below the closest approach of an FP32 argument's value to a rounding
boundary (log 8). -/

/-- floor(sqrt n), by bits from 2^(k−1) down. -/
def isqrtFrom (n : Nat) : Nat → Nat → Nat
  | 0, r => r
  | k + 1, r => let t := r + 2 ^ k; isqrtFrom n k (if t * t ≤ n then t else r)

/-- floor(sqrt n). -/
def isqrt (n : Nat) : Nat := isqrtFrom n (Nat.log2 n / 2 + 1) 0

/-- 1 / v of a finite non-zero v, exact but for a sticky last bit. -/
def eRcp (v : Elem) : Elem :=
  let k := Nat.log2 v.m + 64
  let q := 2 ^ k / v.m
  Elem.fin v.neg (2 * q + b2n (2 ^ k % v.m != 0)) (-(v.x) - k - 1)

/-- sqrt v of a positive v, exact but for a sticky last bit. -/
def eSqrt (v : Elem) : Elem :=
  let odd := Int.emod v.x 2 == 1
  let m := (if odd then 2 * v.m else v.m) * 2 ^ 128
  let x := (if odd then v.x - 1 else v.x) - 128
  let r := isqrt m
  Elem.fin false (2 * r + b2n (r * r != m)) (Int.fdiv x 2 - 1)

/-- 1 / sqrt v of a positive v, exact but for a sticky last bit. -/
def eRsqrt (v : Elem) : Elem :=
  let odd := Int.emod v.x 2 == 1
  let m := if odd then 2 * v.m else v.m
  let x := if odd then v.x - 1 else v.x
  let k := 2 * (Nat.log2 m + 64)
  let q := 2 ^ k / m
  let r := isqrt q
  Elem.fin false (2 * r + b2n (r * r * m != 2 ^ k)) (-(Int.fdiv x 2) - (k / 2 : Nat) - 1)

/-- Fractional bits of the fixed-point evaluations. -/
abbrev fixBits : Nat := 320

/-- ln 2 in fixed point: the sum of 1 / (k 2^k). -/
def fixLn2 : Nat := forN (fixBits + 8) (fun i s => s + 2 ^ (fixBits + 32) / ((i + 1) * 2 ^ (i + 1))) 0 / 2 ^ 32

/-- exp t of a fixed-point t in [0, 1), by its series. -/
def fixExp (t : Nat) : Nat :=
  (forN 100 (fun i st => let term := st.2 * t / ((i + 1) * 2 ^ fixBits); (st.1 + term, term))
    (2 ^ fixBits, 2 ^ fixBits)).1

/-- 2^y of a fixed-point signed y. -/
def fixExp2 (y : Int) : Elem :=
  let n := Int.fdiv y (2 ^ fixBits)
  let f := (y - n * 2 ^ fixBits).toNat
  Elem.fin false (fixExp (f * fixLn2 / 2 ^ fixBits)) (n - fixBits)

/-- EXP2 of a finite value: exact where the value is an integer. Magnitudes of 512 and more lie beyond the
range whatever they are. -/
def eExp2 (v : Elem) : Elem :=
  if v.isZero then Elem.fin false 1 0
  else if 9 ≤ v.log2 then Elem.fin false 1 (if v.neg then -512 else 512)
  else
    let y := v.scaled fixBits
    if Int.emod y (2 ^ fixBits) = 0 then Elem.fin false 1 (Int.fdiv y (2 ^ fixBits)) else fixExp2 y

/-- ln(1 + z) series: 2 atanh z for fixed-point z. -/
def fixAtanh2 (z : Nat) : Nat :=
  let zz := z * z / 2 ^ fixBits
  2 * (forN 110 (fun i st => (st.1 + st.2 / (2 * i + 1), st.2 * zz / 2 ^ fixBits)) (0, z)).1

/-- LOG2 of a positive finite value: exact where the value is a power of two. -/
def eLog2 (v : Elem) : Elem :=
  let k := Nat.log2 v.m
  let e : Int := k + v.x
  if v.m = 2 ^ k then Elem.fin (decide (e < 0)) e.natAbs 0
  else
    let num := (v.m - 2 ^ k) * 2 ^ fixBits
    let ln := fixAtanh2 (num / (v.m + 2 ^ k))
    let s : Int := e * 2 ^ fixBits + (ln * 2 ^ fixBits / fixLn2 : Nat)
    Elem.fin (decide (s < 0)) s.natAbs (-(fixBits : Int))

/-- TANH of a finite non-zero value: (e^2|v| − 1) / (e^2|v| + 1), ±1 from |v| = 16 on. -/
def eTanh (v : Elem) : Elem :=
  if 4 ≤ v.log2 then Elem.fin v.neg 1 0
  else if v.log2 < -14 then v
  else
    let a := ({ v with neg := false }).scaled fixBits
    let y : Nat := a.toNat * 2 ^ (fixBits + 1) / fixLn2
    let p := fixExp2 y
    let e2 := p.m * 2 ^ (p.x + fixBits).toNat
    Elem.fin v.neg ((e2 - 2 ^ fixBits) * 2 ^ fixBits / (e2 + 2 ^ fixBits)) (-(fixBits : Int))

/-! ## Generators (R128) -/

/-- One round key step and mixing round of Philox-4x32-10. -/
def philoxRound (st : List Nat × Nat × Nat) : List Nat × Nat × Nat :=
  let x := st.1
  let p0 := 0xD2511F53 * x.getD 0 0
  let p1 := 0xCD9E8D57 * x.getD 2 0
  let y := [Nat.xor (Nat.xor (p1 / 2 ^ 32) (x.getD 1 0)) st.2.1, p1 % 2 ^ 32,
            Nat.xor (Nat.xor (p0 / 2 ^ 32) (x.getD 3 0)) st.2.2, p0 % 2 ^ 32]
  (y, (st.2.1 + 0x9E3779B9) % 2 ^ 32, (st.2.2 + 0xBB67AE85) % 2 ^ 32)

/-- The four words of `philox`. -/
def philox (ctr key : Nat) : List Nat :=
  let x := (List.range 4).map fun i => bits ctr (32 * i + 31) (32 * i)
  (forN 10 (fun _ st => philoxRound st) (x, key % 2 ^ 32, key / 2 ^ 32 % 2 ^ 32)).1

/-- One evaluation of the generator of a lane: its four words, and its counter moves on (R128). The
generator is held as CTR * 2^64 + KEY, which is the layout of FCT_RNG_l. -/
def Dev.evalRng (d : Dev) (f l : Nat) : List Nat × Dev :=
  let v := d.rng.get (f * 512 + l)
  let key := v % 2 ^ 64
  let ctr := v / 2 ^ 64
  let d := { d with rng := d.rng.set (f * 512 + l) ((ctr + 1) % 2 ^ 128 * 2 ^ 64 + key) }
  (philox ctr key, d.countFacet f 0xC noSub 1)

/-! ## Raising events (R121 to R125) -/

/-- The hits of one op issue in one facet, which is facet index 0 of its sector for the wedge engine (R110): for each kind the occurrences, and the place of the first of
them, from the events of its elements in increasing row, then column or lane. -/
def hitsOf (site : NevSite) (els : List (Ev × Nat × Nat)) : List NevHit :=
  (List.range 6).filterMap fun k =>
    let with_ := els.filter fun e => e.1.kind k != 0
    match with_ with
    | [] => none
    | e :: es =>
      let e := es.foldl (fun a b => if b.2.1 * 512 + b.2.2 < a.2.1 * 512 + a.2.2 then b else a) e
      some { site, kind := k, count := with_.foldl (fun n e => n + e.1.kind k) 0, row := e.2.1, col := e.2.2,
                       fin := if k = 5 then with_.foldl (fun n e => n + e.1.fin) 0 else 0, mode := 0 }

/-- Puts a record in the queue of ring records of partition p that have not landed, if the ring takes them
(R124). The drop test of R125 is made as the record lands. -/
def Dev.nevRecord (d : Dev) (p : Nat) (rec : List Byte) : Dev :=
  { d with nevRing := alPut d.nevRing p (alGet [] d.nevRing p ++ [rec]) }

/-- The bytes of a numeric-event record (Table 06-6). -/
def nevBytes (h : NevHit) (time : Nat) : List Byte :=
  leBytes 1 1 ++ leBytes 1 h.kind ++ leBytes 1 h.site.unit ++ leBytes 1 (if h.site.unit = 5 then 0 else h.site.facet) ++
    leBytes 2 (h.site.bidx % 2 ^ 13 + h.site.ctx * 2 ^ 13) ++ leBytes 2 (h.row % 128 + h.col * 128) ++
    leBytes 8 h.site.icount ++ leBytes 4 h.count ++ leBytes 1 (if h.site.unit = 2 then h.site.tctx else 0) ++
    leBytes 3 0 ++ leBytes 8 time

/-- The facet's flag of the kind is set, and its events counted. -/
def Dev.raiseFlag (d : Dev) (h : NevHit) : Dev :=
  let s := h.site
  if s.unit = 5 then d
  else (d.setFlag (rFctNev s.facet) h.kind true).countFacet s.facet 0xB (fun m => bit m h.kind) h.count

/-- The flush counters of the facet count the flushes of a hit. -/
def Dev.raiseFlush (d : Dev) (h : NevHit) : Dev :=
  let s := h.site
  if h.kind = 5 && s.unit != 5 then
    let d := if h.fin = 0 then d else d.bump (rFctFlushIn s.facet) h.fin
    if h.count = h.fin then d else d.bump (rFctFlushOut s.facet) (h.count - h.fin)
  else d

/-- The partition's capture of the kind takes the hit if it is empty (R123). -/
def Dev.raiseCapture (d : Dev) (p : Nat) (h : NevHit) : Dev :=
  let s := h.site
  if d.flag (rNevCap p h.kind) 127 then d else
  d.setReg (rNevCap p h.kind) (2 ^ 127 + s.unit * 2 ^ 124 + s.facet * 2 ^ 116 + s.bidx % 2 ^ 13 * 2 ^ 103 +
    s.ctx * 2 ^ 100 + h.col % 512 * 2 ^ 91 + h.row % 128 * 2 ^ 84 + (if s.unit = 2 then s.tctx else 0) * 2 ^ 80 +
    s.icount % 2 ^ 64)

/-- A hit is written to the partition's ring if RCFG selects its kind (R124). -/
def Dev.raiseRing (d : Dev) (p : Nat) (h : NevHit) : Dev :=
  if h.mode != 1 && d.flag (rNevRcfg p) 31 && bit (d.fld (rNevRcfg p) 23 16) h.kind then d.nevRecord p (nevBytes h d.now)
  else d

/-- Raises one hit for partition p: the facet's flag and flush counters, the partition's counter and capture. -/
def Dev.raise1 (d : Dev) (p : Nat) (h : NevHit) : Dev :=
  if h.mode = 2 then d else (((d.raiseFlag h).raiseFlush h).bump64 (rNevCnt p h.kind) h.count).raiseCapture p h

/-- Adds hits to those of the same issue, facet and kind, keeping the unit and the place of the first: one record for each
issue that raises a kind in a facet (R124). -/
def mergeHits (seen hs : List NevHit) : List NevHit :=
  let same (x h : NevHit) : Bool := { x.site with unit := 0 } == { h.site with unit := 0 } && x.kind == h.kind
  forL hs (fun h l =>
    if l.any fun x => same x h then
      l.map fun x => if same x h = true then { x with count := x.count + h.count, fin := x.fin + h.fin } else x
    else l ++ [h]) seen

/-- Whether hit a is captured before hit b in one cycle: lowest facet, then row, then column (R123); ring
records of one cycle go by facet, then kind (R124). -/
def hitBefore (a b : NevHit) : Bool :=
  a.site.facet < b.site.facet || (a.site.facet == b.site.facet && (a.kind < b.kind ||
    (a.kind == b.kind && (a.row < b.row || (a.row == b.row && a.col < b.col)))))

/-- Inserts a hit in the order of `hitBefore`. -/
def insertHit (h : NevHit) : List NevHit → List NevHit
  | [] => [h]
  | x :: xs => if hitBefore h x then h :: x :: xs else x :: insertHit h xs

/-- Raises the hits of one cycle for partition p. -/
def Dev.raise (d : Dev) (p : Nat) (hs : List NevHit) : Dev :=
  let l := hs.foldl (fun l h => insertHit h l) []
  forL (mergeHits [] (l.filter fun h => h.mode != 1)) (fun h d => d.raiseRing p h) (forL l (fun h d => d.raise1 p h) d)

end Sys2Proof.Machine
end

