-- ==== Sys2Proof/Machine/Operands.lean ====
section
/-! DEFINITION. What the ops of one issue cycle share (03_scangathen_operations.md, Operands common to all
slots): the issue they belong to, local and global address operands, local-store accesses with their banks,
post-increments, and effects that come about later. -/

namespace Sys2Proof.Machine

/-- The issue an op belongs to: hemisphere, context, partition, bundle, ICOUNT, context cycle, and whether it
is the first issue of its bundle. -/
structure Issue where
  h : Nat
  n : Nat
  p : Nat
  bidx : Nat
  icount : Nat
  cyc : Nat
  first : Bool
deriving DecidableEq, Repr

/-- A bank access of a cycle (R17, R21): facet, access order of its path, granule. -/
structure BankAcc where
  f : Nat
  ord : Nat
  gran : Nat
deriving DecidableEq, Repr

/-- What the ops of one issue cycle have gathered, to act at its end: post-increments and writes of address
registers (key facet * 32 + register) and of transfer base registers, bank accesses, events raised in this
cycle, and partition-fatal records. -/
structure Cyc where
  incs : List (Nat × Nat) := []
  sets : List (Nat × Nat) := []
  tbIncs : List (Nat × Nat) := []
  tbSets : List (Nat × Nat) := []
  banks : List BankAcc := []
  hits : List NevHit := []
  errs : List ErrRec := []
deriving DecidableEq, Repr

/-- The device and what the cycle has gathered. -/
abbrev Work := Dev × Cyc

/-- Acts on the device alone. -/
def Work.dev (w : Work) (f : Dev → Dev) : Work := (f w.1, w.2)

/-- The issue that an op of context c belongs to. -/
def Dev.issueOf (d : Dev) (c : CtxId) : Issue :=
  let x := d.ctx c.h.val c.n.val
  { h := c.h.val, n := c.n.val, p := x.part, bidx := x.bidx, icount := x.icount, cyc := x.cyc,
    first := x.phase != .issuing }

/-- The facets a site enables (R12, R45). -/
def siteFacets (s : Site) : List Nat :=
  (List.range 16).filterMap fun j => if s.fmask.getLsbD j then some (facetOf s.c.h.val s.slot.val j) else none

/-- Acts on each enabled facet in increasing index. -/
def siteEach (s : Site) (f : Nat → Work → Work) (w : Work) : Work := forL (siteFacets s) f w

/-- Adds an effect that comes about in context cycle `due`. -/
def Dev.later (d : Dev) (h n due : Nat) (e : Effect) : Dev :=
  d.modCtx h n fun c => { c with inflight := c.inflight ++ [{ due, eff := e }] }

/-- Adds an effect of the issue i that comes about `k` cycles after it. -/
def Issue.later (i : Issue) (k : Nat) (e : Effect) (w : Work) : Work :=
  w.dev fun d => d.later i.h i.n (i.cyc + k) e

/-- Adds a partition-fatal record to be raised after the issue. -/
def Cyc.err (k : Cyc) (r : ErrRec) : Cyc := { k with errs := k.errs ++ [r] }

/-- A partition-fatal record of block FCT for facet f. -/
def Issue.fctErr (i : Issue) (f cause addr value : Nat) : ErrRec :=
  { part := some i.p, cls := clsPartition, cause, block := 11, unit := f, det := detail addr i.bidx i.n 0 value }

/-- A partition-fatal record of block SEQ. -/
def Issue.seqErr (i : Issue) (cause tag value : Nat) : ErrRec :=
  { part := some i.p, cls := clsPartition, cause, block := 10, unit := seqUnit i.h i.n none,
    det := detail 0 i.bidx i.n tag value }

/-! ## Addresses -/

/-- First global address of facet f's local-store view (Table 22-1). -/
def lsView (f : Nat) : Nat := 0x100000000000 + f * 0x200000

/-- First unbacked local address (R15). -/
abbrev lsTop : Nat := 0x180000

/-- Address register a of facet f. -/
def Dev.areg (d : Dev) (f a : Nat) : Nat := d.aregs.get (f * 32 + a)

/-- The local-store address an LA names in facet f (Table 03-1). -/
def Dev.laAddr (d : Dev) (f : Nat) (la : LA) : Nat :=
  if la.rm then ofSigned 21 ((d.areg f la.ar.toNat : Nat) + toSigned 21 la.off.toNat) else la.off.toNat

/-- Gathers the post-increment of an LA by its extent (R60). -/
def laAdvance (la : LA) (f extent : Nat) (w : Work) : Work :=
  if la.rm && la.pi then (w.1, { w.2 with incs := w.2.incs ++ [(f * 32 + la.ar.toNat, extent)] }) else w

/-- Gathers an addition to address register a. -/
def incAreg (f a n : Nat) (w : Work) : Work := (w.1, { w.2 with incs := w.2.incs ++ [(f * 32 + a, n)] })

/-- Gathers a write of address register a. -/
def setAreg (f a v : Nat) (w : Work) : Work := (w.1, { w.2 with sets := w.2.sets ++ [(f * 32 + a, v % 2 ^ 48)] })

/-- Transfer base register r of a context. -/
def Dev.tbase (d : Dev) (h n r : Nat) : Nat := (d.ctx h n).tb.get r

/-- The global address a GA names (Table 03-2). -/
def Dev.gaAddr (d : Dev) (h n : Nat) (ga : GA) : Nat :=
  if ga.bv then (d.tbase h n ga.br.toNat + ga.off.toNat) % 2 ^ 48 else ga.off.toNat

/-- Gathers the post-increment of a GA's transfer base register (R60). -/
def gaAdvance (ga : GA) (on : Bool) (len : Nat) (w : Work) : Work :=
  if on && ga.bv then (w.1, { w.2 with tbIncs := w.2.tbIncs ++ [(ga.br.toNat, len)] }) else w

/-- The value of an array after the additions and then the writes gathered in a cycle: a write discards the
additions to its index (R60). -/
def applyWrites (m : NatMap) (incs sets : List (Nat × Nat)) : NatMap :=
  let m := incs.foldl (fun m e => m.set e.1 ((m.get e.1 + e.2) % 2 ^ 48)) m
  sets.foldl (fun m e => m.set e.1 e.2) m

/-- The largest power of two, at most 64, that divides `n` (R63). -/
def align64 (n : Nat) : Nat :=
  if n % 64 = 0 then 64 else if n % 32 = 0 then 32 else if n % 16 = 0 then 16 else if n % 8 = 0 then 8
  else if n % 4 = 0 then 4 else if n % 2 = 0 then 2 else 1

/-- An address with the bits below an alignment cleared (R61). -/
def alignDown (a k : Nat) : Nat := a / k * k

/-! ## Local store (R15, R53) -/

/-- The granules that `n` bytes from local address `a` touch. -/
def granules (a n : Nat) : List Nat :=
  if n = 0 then [] else (List.range ((a + n - 1) / 64 - a / 64 + 1)).map fun i => a / 64 + i

/-- Byte `a` of facet f's local store: 0 where it is not backed. -/
def Dev.lsByte (d : Dev) (f a : Nat) : Byte := if a < lsTop then d.ls.byte (f * 0x200000 + a) else 0

/-- The first unbacked address among `n` bytes from `a`, if any. -/
def firstUnbacked (a n : Nat) : Option Nat :=
  if n = 0 ∨ a + n ≤ lsTop then none else some (max a lsTop)

/-- Gathers the bank accesses of `n` bytes from `a`, and the LS_UNBACKED record of an unbacked one (R53). -/
def touch (i : Issue) (f ord a n : Nat) (w : Work) : Work :=
  let k := { w.2 with banks := w.2.banks ++ ((granules a n).filter fun g => g < lsTop / 64).map fun g =>
    { f, ord, gran := g } }
  match firstUnbacked a n with
  | none => (w.1, k)
  | some u => (w.1, k.err (i.fctErr f 0x46 (lsView f + u % 0x200000) 0))

/-- Reads `n` bytes of facet f's local store on the path of access order `ord`. -/
def lsRead (i : Issue) (f ord a n : Nat) (w : Work) : List Byte × Work :=
  ((List.range n).map fun j => w.1.lsByte f (a + j), touch i f ord a n w)

/-- Writes bytes of facet f's local store; unbacked ones are not written (R53). -/
def Dev.lsWrite (d : Dev) (f : Nat) (bs : List (Nat × Byte)) : Dev :=
  { d with ls := d.ls.writeAt ((bs.filter fun e => e.1 < lsTop).map fun e => (f * 0x200000 + e.1, e.2)) }

/-- Consecutive bytes with their addresses. -/
def placeBytes (a : Nat) (bs : List Byte) : List (Nat × Byte) := (List.range bs.length).zip bs |>.map fun e => (a + e.1, e.2)

/-! ## Packing (R63, R98) -/

/-- Element i of `w` bits in a byte string packed from bit 0 upwards. -/
def unpackAt (v w i : Nat) : Nat := v >>> (w * i) % 2 ^ w

/-- `n` elements of `w` bits. -/
def unpack (bs : List Byte) (w n : Nat) : List Nat := let v := leNat bs; (List.range n).map fun i => unpackAt v w i

/-- Elements of `w` bits packed into a number. -/
def packNat (w : Nat) : List Nat → Nat
  | [] => 0
  | x :: xs => x % 2 ^ w + 2 ^ w * packNat w xs

/-- Elements of `w` bits packed into bytes. -/
def packBytes (w : Nat) (l : List Nat) : List Byte := leBytes (ceilDiv (w * l.length) 8) (packNat w l)

/-! ## The end of a cycle -/

/-- Whether the wait counts of R28 and R49 advance: no context of the partition is debug-halted, or stopped at a save
point, and the partition is resident (R57, R283, R295). -/
def Dev.countsRun (d : Dev) (p : Nat) : Bool :=
  d.resident p && (d.ctxsOf p).all fun y => let x := d.ctx y.1 y.2; x.state != .debugHalted && !x.saveStop

/-- Bank of a granule (R15). -/
def bankOf (g : Nat) : Nat := g % 48

/-- How many accesses of facet f reach bank b. -/
def bankLoad (bs : List BankAcc) (f b : Nat) : Nat := countIf (fun x => x.f == f && bankOf x.gran == b) bs

/-- The deepest bank of facet f: its accesses. -/
def facetDepth (bs : List BankAcc) (f : Nat) : Nat := (List.range 48).foldl (fun m b => max m (bankLoad bs f b)) 0

/-- The facets that a list of accesses names, once each, in increasing number. -/
def accFacets (bs : List BankAcc) : List Nat := (List.range 256).filter fun f => bs.any fun x => x.f == f

/-- The banks that bundle accesses of facet f claim in cycle t of a serialisation, as a mask (R21). -/
def claimMask (bs : List BankAcc) (f t : Nat) : Nat :=
  (List.range 48).foldl (fun m b => if t < bankLoad bs f b then m + 2 ^ b else m) 0

/-- `k` cycles of hemisphere h pass for the counts of R28 of its contexts, where those counts advance (R57). -/
def Dev.passTime (d : Dev) (h k : Nat) : Dev :=
  forN 8 (fun n d =>
    let x := d.ctx h n
    if x.state = .absent ∨ d.countsRun x.part = false then d else d.setCtx h n { x with tclk := x.tclk + k }) d

/-- The bundle accesses that the facets of partition p on hemisphere h claimed are over (R18). -/
def Dev.dropClaims (d : Dev) (p h : Nat) : Dev :=
  { d with claims := d.claims.filter fun e => !(e.1 / 128 == h && d.holds p (sectorOf e.1)) }

/-- Collisions on a bank (R21). The hemisphere stalls by the deepest collision of the cycle, beyond what another context's
bundle of the same cycle has laid on it; SEQ_COLLIDE counts the stall, and one timing fault for the bundle names the
lowest facet of the deepest (log 10, 90). The claims of each facet stand for its DMA ports (R18). -/
def Dev.collide (d : Dev) (i : Issue) (bs : List BankAcc) : Dev :=
  let fs := accFacets bs
  let depth := fs.foldl (fun m f => max m (facetDepth bs f)) 0
  let d := forL fs (fun f d =>
    { d with claims := alPut d.claims f ((List.range (facetDepth bs f)).map fun t => claimMask bs f t) }) d
  if depth ≤ 1 then d
  else
    let x := d.hemi i.h
    let k := depth - 1 - x.stall
    let d := (d.setHemi i.h { x with stall := max x.stall (depth - 1) }).passTime i.h k
    ((d.bump (rSeqCollide i.h) k).countStall i.h 1 k).tfault i.h i.n 1 i.bidx i.icount
      (fs.find? fun f => facetDepth bs f == depth)

/-- A bundle access to a bank declared quiet (R20): one timing fault, naming the lowest facet. -/
def Dev.quietFault (d : Dev) (i : Issue) (qsect qbank : Nat) (bs : List BankAcc) : Dev :=
  match (accFacets bs).find? fun f => bs.any fun x =>
      x.f == f && bit qsect (sectorOf f % 8) && bit qbank (bankOf x.gran) with
  | none => d
  | some f => d.tfault i.h i.n 2 i.bidx i.icount (some f)

/-- The bundle bank accesses of a cycle, by access order (Table 16-2). -/
def Dev.countBanks (d : Dev) (bs : List BankAcc) : Dev :=
  forL bs (fun b (d : Dev) => d.countFacet b.f 8 (fun s => bit s b.ord) 1) d

/-- Ends what the cycle gathered: accesses to quiet banks and bank collisions are accounted, registers take
their new values, events are raised, and partition-fatal records are posted. Of a cycle that both uses a quiet bank and
collides, QUIET comes first, so a free capture names it: the spec orders the two nowhere (DESIGN CHOICE, log 91). -/
def Work.close (i : Issue) (qsect qbank : Nat) (w : Work) : Dev :=
  let d := w.1.quietFault i qsect qbank w.2.banks
  let d := (d.collide i w.2.banks).countBanks w.2.banks
  let d := { d with aregs := applyWrites d.aregs w.2.incs w.2.sets }
  let d := d.modCtx i.h i.n fun c => { c with tb := applyWrites c.tb w.2.tbIncs w.2.tbSets }
  let d := d.raise i.p w.2.hits
  forL w.2.errs (fun r d => d.record r) d

/-- Adds events to those of the cycle. -/
def Work.hit (w : Work) (hs : List NevHit) : Work := (w.1, { w.2 with hits := w.2.hits ++ hs })

/-- Whether an op of this site may act: its context runs, belongs to a resident partition, and owns the
sector slot (R30, R34). -/
def Dev.siteOk (d : Dev) (s : Site) : Bool :=
  let c := d.ctx s.c.h.val s.c.n.val
  c.state == .running && d.holds c.part (s.c.h.val * 8 + s.slot.val) &&
    d.residentOf (s.c.h.val * 8 + s.slot.val) == some c.part

/-- Whether an op of a context's shared slots may act. -/
def Dev.ctxOk (d : Dev) (c : CtxId) : Bool := (d.ctx c.h.val c.n.val).state == .running

end Sys2Proof.Machine
end

