-- ==== Sys2Proof/Machine/Accumulate.lean ====
section
/-! DEFINITION. The prism's arithmetic (06_accumulation_rounding.md, R113 to R118; 07, R135 to R137): K-steps and
their formation from what MMA issues read, chunks and totals, and the steps of a drained row (R68). -/

namespace Sys2Proof.Machine

/-- A place of a list given as pieces: the element at index i. -/
def nth (l : List Nat) (i : Nat) : Nat := l.getD i 0

/-! ## Descriptors (Table 03-6) -/

/-- Prism descriptor d of facet f, as the number its 64 bytes spell. -/
def Dev.pdesc (d : Dev) (f i : Nat) : Nat := d.pds.get (f * 8 + i)

/-- An LA held in a 4-byte field of a descriptor. -/
def descLA (v off : Nat) : LA := decLA (BitVec.ofNat 32 (v >>> (8 * off)))

def pdPitch (v : Nat) : Nat := bits v 143 128
def pdChlen (v : Nat) : Nat := bits v 159 144
def pdOfmt (v : Nat) : Nat := bits v 167 160
def pdFlags (v : Nat) : Nat := bits v 175 168

/-- Bytes of a drained row. -/
def rowBytes (ofmt : Nat) : Nat := 16 * fmtBits ofmt

/-- PCFG's checks (R67): whether the descriptor is rejected. -/
def pdBad (v : Nat) : Bool :=
  let p := pdPitch v
  let l := pdChlen v
  let o := pdOfmt v
  let rnd := bits (pdFlags v) 5 4
  p % 64 != 0 || (p != 0 && decide (p < rowBytes o)) || (l != 0 && (l % 16 != 0 || decide (256 < l))) ||
    decide (0xB ≤ o) || decide (2 ≤ rnd) || (rnd == 1 && !(o == 1 || o == 2 || o == 3 || o == 4)) ||
    bits v 511 176 != 0

/-! ## Widths and rates (R63) -/

/-- 16 times the K-steps of one MMA issue. -/
def kps16 (fa fb : Nat) (sp : Bool) : Nat :=
  let w := max (fmtBits fa) (fmtBits fb)
  let k := if w = 32 then 1 else if w = 16 then 8 else if w = 8 then 16 else 32
  if sp then 2 * k else k

/-- The chunk length: CHLEN, or its default by the wider operand's class (R113). -/
def chunkLen (chlen fa fb : Nat) : Nat :=
  if chlen ≠ 0 then chlen else if 16 ≤ max (fmtBits fa) (fmtBits fb) then 32 else 64

/-- Whether both operands are integers (R65). -/
def intPair (fa fb : Nat) : Bool := fmtIsInt fa && fmtIsInt fb

/-! ## Block scales (R66, R103) -/

/-- Key of the scale of row or column i of operand A or B in a block. -/
def sclKey (blk : Nat) (isB : Bool) (i : Nat) : Nat := blk * 256 + b2n isB * 128 + i

/-- An element under a scale. -/
def scaleElem (s : Nat) (e : Elem) : Elem :=
  if s = 255 then Elem.nan else if e.cls = 1 then { e with x := e.x + (s : Int) - 127 } else e

/-- Supplies a free value for every scale of the K-steps that no issue has read (log 5). -/
def Dev.freeScales (d : Dev) (a : AccSet) (steps : List KStep) : Dev × AccSet :=
  let keys := steps.flatMap fun s =>
    if s.bs then (List.range 256).filterMap fun i =>
      let k := s.blk * 256 + i
      if a.scl.get k = 0 then some k else none
    else []
  forL keys (fun k x =>
    if x.2.scl.get k ≠ 0 then x else
    let v := x.1.takeFree
    (v.2, { x.2 with scl := x.2.scl.set k (v.1 % 256 + 1) })) (d, a)

/-- Element i of A of a K-step. -/
def KStep.elA (s : KStep) (scl : NatMap) (i : Nat) : Elem :=
  let e := (readElem s.fa (nth s.a i)).1
  if s.bs then scaleElem (scl.get (sclKey s.blk false i) - 1) e else e

/-- Element i of B of a K-step: none where 2:4 compression prunes it. -/
def KStep.elB (s : KStep) (scl : NatMap) (i : Nat) : Option Elem :=
  (s.b.getD i none).map fun c =>
    let e := (readElem s.fb c).1
    if s.bs then scaleElem (scl.get (sclKey s.blk true i) - 1) e else e

/-! ## Chunks (R114 to R118) -/

/-- The exact signed sum on the 72-bit adder of the finite products, whose largest exponent is `e`. -/
def adderSum (e : Int) (ps : List Elem) : Int :=
  ps.foldl (fun s p =>
    let sh := p.x + 61 - e
    let a : Nat := if 0 ≤ sh then p.m * 2 ^ sh.toNat else p.m / 2 ^ (-sh).toNat
    if p.neg then s - a else s + a) 0

/-- `chunk_sum` of the finite products of a chunk, with R115. -/
def chunkSum (ps : List Elem) : Rounded :=
  let nz := ps.filter fun p => !p.isZero
  match nz with
  | [] => { code := if !ps.isEmpty && ps.all (fun p => p.neg) then 0x80000000 else 0, ev := {} }
  | p :: rest =>
    let e := rest.foldl (fun e q => max e q.log2) p.log2
    let s := adderSum e nz
    if s = 0 then { code := 0, ev := {} } else toF32 .even (Elem.fin (decide (s < 0)) s.natAbs (e - 61))

/-- The pair of elements of one product; none for a pruned one. -/
abbrev Pair := Elem × Option Elem

/-- The result of a chunk of one accumulator element, and its events, each counted once (R117). -/
def chunkResult (ps : List Pair) : Rounded :=
  let prods := ps.map fun p => match p.2 with | some b => eMul p.1 b | none => (Elem.zero false, {})
  let kept := ps.filterMap fun p => p.2.map fun b => (p.1, b)
  let nanIn := kept.any fun p => p.1.isNan || p.2.isNan
  let infIn := kept.any fun p => p.1.isInf || p.2.isInf
  let inv0 := prods.any fun p => p.2.inv != 0
  let posInf := prods.any fun p => p.1.isInf && !p.1.neg
  let negInf := prods.any fun p => p.1.isInf && p.1.neg
  let sum := chunkSum ((prods.map Prod.fst).filter fun p => p.isFin)
  let inv := b2n (inv0 || (posInf && negInf))
  let ev : Ev := { inv, nan := b2n nanIn, inf := b2n infIn, ovf := min 1 sum.ev.ovf }
  if nanIn || inv0 || (posInf && negInf) then { code := 0x7FC00000, ev }
  else if posInf then { code := 0x7F800000, ev }
  else if negInf then { code := 0xFF800000, ev }
  else { code := sum.code, ev := { ev with fout := sum.ev.fout } }

/-- The total update of R118 with R384. -/
def totalUpdate (t c : Nat) : Rounded :=
  let s := eAdd (readF32 t).1 (readF32 c).1
  let r := toF32 .even s.1
  { code := r.code, ev := r.ev.add s.2 }

/-- Index of element (r, n) among a set's totals. -/
def totIdx (r n : Nat) : Nat := r * 128 + n

/-- Total (r, n) of a set. -/
def AccSet.total (a : AccSet) (r n : Nat) : Nat := alGet a.base a.totals (totIdx r n)

/-- The totals of a set from a function of row and column, in canonical form. -/
def totalsOf (base : Nat) (f : Nat → Nat → Nat) : NatMap :=
  (List.range 16384).filterMap fun i => let v := f (i / 128) (i % 128); if v = base then none else some (i, v)

/-- The result of one element of a chunk and of its total's update. -/
structure CellOut where
  total : Nat
  ev : Ev
deriving DecidableEq, Repr

/-- The chunk result and total update of element (r, n). -/
def foldCell (t : Nat) (ps : List Pair) : CellOut :=
  let c := chunkResult ps
  let u := totalUpdate t c.code
  let e := c.ev.add u.ev
  { total := u.code, ev := { e with inv := min 1 e.inv, ovf := min 1 e.ovf } }

/-- Closes the open chunk of a float set: every total takes its chunk result. The events are those of each
element, by row and column. -/
def AccSet.closeChunk (a : AccSet) : AccSet × List (Ev × Nat × Nat) :=
  match a.chunk with
  | [] => (a, [])
  | steps =>
    let bcols := (List.range 128).map fun n => (n, steps.map fun s => s.elB a.scl n)
    let cells := (List.range 128).map fun r =>
      let arow := steps.map fun s => s.elA a.scl r
      bcols.map fun c => foldCell (a.total r c.1) (arow.zip c.2)
    let flat := cells.flatten
    let out := (List.range 16384).zip flat
    ({ a with chunk := [], totals := out.filterMap fun x => if x.2.total = a.base then none else some (x.1, x.2.total) },
     out.filterMap fun x => if x.2.ev = {} then none else some (x.2.ev, x.1 / 128, x.1 % 128))

/-- The signed value of an integer element. -/
def intVal (fmt code : Nat) : Int := (readElem fmt code).1.scaled 0

/-- One K-step in integer mode: every total gains its exact product modulo 2^64 (R116). -/
def AccSet.addInt (a : AccSet) (s : KStep) : AccSet :=
  let av := s.a.map (intVal s.fa)
  let bv := s.b.map fun b => match b with | some c => intVal s.fb c | none => 0
  let cells := av.map fun x => bv.map fun y => x * y
  { a with totals :=
      ((List.range 16384).zip cells.flatten).filterMap fun x =>
        let v := ofSigned 64 ((alGet a.base a.totals x.1 : Nat) + x.2)
        if v = a.base then none else some (x.1, v) }

/-- Lands one K-step: integer products at once, float ones in the open chunk, which ends when the count
reaches a multiple of L (R65). -/
def AccSet.landStep (d : Dev) (a : AccSet) (s : KStep) (l : Nat) : Dev × AccSet × List (Ev × Nat × Nat) :=
  let a := { a with kcnt := a.kcnt + 1 }
  if intPair s.fa s.fb then (d, a.addInt s, [])
  else
    let a := { a with chunk := a.chunk ++ [s] }
    if a.kcnt % l = 0 then
      let x := d.freeScales a a.chunk
      let y := x.2.closeChunk
      (x.1, y.1, y.2)
    else (d, a, [])

/-- The clear that lands with a clr issue's first products (R114): every total −0, or 0 in integer mode. -/
def AccSet.clear (a : AccSet) : AccSet :=
  { a with base := if a.intMode then 0 else 0x80000000, totals := [], chunk := [], kcnt := 0 }

/-- The landing of an issue's K-steps in set `set` of facet f. -/
def Dev.landProduct (d : Dev) (f : Nat) (set clr : Bool) (steps : List KStep) (l : Nat) (site : NevSite) :
    Dev × List NevHit :=
  let a := d.acc f set
  let a := if clr then a.clear else a
  let r := forL steps (fun s (x : Dev × AccSet × List NevHit) =>
    let y := AccSet.landStep x.1 x.2.1 s l
    (y.1, y.2.1, x.2.2 ++ hitsOf site y.2.2)) (d, a, [])
  (r.1.setAcc f set r.2.1, r.2.2)

/-! ## Formation of K-steps (R63, R135 to R137) -/

/-- Splits off `n` elements when there are that many. -/
def takeFull {α : Type} (n : Nat) (l : List α) : Option (List α × List α) :=
  if n ≤ l.length then some (l.take n, l.drop n) else none

/-- Block of the next K-step. -/
def AccSet.blk (a : AccSet) (k : Nat) : Nat := a.gen * 2 ^ 32 + k / 32

/-- K-steps formed from complete dense slices; `n` bounds how many one issue completes. -/
def denseSteps (fa fb : Nat) (bs : Bool) : Nat → AccSet → AccSet × List KStep
  | 0, a => (a, [])
  | n + 1, a =>
    match takeFull 128 a.sliceA, takeFull 128 a.sliceB with
    | some (x, ra), some (y, rb) =>
      let s : KStep := { blk := a.blk a.issued, fa, fb, a := x, b := y.map some, bs }
      let r := denseSteps fa fb bs n { a with sliceA := ra, sliceB := rb, issued := a.issued + 1 }
      (r.1, s :: r.2)
    | _, _ => (a, [])

/-- The code of column n at position i of a group, from its metadata entry: none where it is pruned or the
entry is invalid. -/
def sparseAt (vals metas : List Nat) (n i : Nat) : Option Nat :=
  let m := nth metas n
  let i0 := m % 4
  let i1 := m / 4
  if i1 ≤ i0 then none
  else if i = i0 then some (nth vals n)
  else if i = i1 then some (nth vals (128 + n))
  else none

/-- The four K-steps of each complete group of 2:4 compressed B. -/
def sparseSteps (fa fb : Nat) (bs : Bool) : Nat → AccSet → AccSet × List KStep
  | 0, a => (a, [])
  | n + 1, a =>
    match takeFull 4 a.stepsA, takeFull 256 a.vals, takeFull 128 a.metas with
    | some (xs, ra), some (vs, rv), some (ms, rm) =>
      let ss := (List.range 4).map fun i =>
        ({ blk := a.blk (a.issued + i), fa, fb, a := xs.getD i [],
           b := (List.range 128).map fun c => sparseAt vs ms c i, bs } : KStep)
      let r := sparseSteps fa fb bs n { a with stepsA := ra, vals := rv, metas := rm, issued := a.issued + 4 }
      (r.1, ss ++ r.2)
    | _, _, _ => (a, [])

/-- Moves complete 128-element slices of A to the waiting K-steps of a group. -/
def gatherA : Nat → AccSet → AccSet
  | 0, a => a
  | n + 1, a =>
    match takeFull 128 a.sliceA with
    | some (x, r) => gatherA n { a with sliceA := r, stepsA := a.stepsA ++ [x] }
    | none => a

/-- Occurrences of an input flush among elements read, with their places. -/
def flushHits (fmt : Nat) (isB : Bool) (first : Nat) (codes : List Nat) : List (Ev × Nat × Nat) :=
  if fmt = 0 ∨ fmt = 1 then
    ((List.range codes.length).zip codes).filterMap fun x =>
      let i := (first + x.1) % 128
      if (readElem fmt x.2).2 then some ({ fin := 1 }, if isB then (0, i) else (i, 0)) else none
  else []

/-! ## Drains (R68) -/

/-- The events of one step of a drained element against a vector element v: its own, and NAN_IN or INF_IN of v. -/
def drainStep (r : Rounded) (ev : Ev) (v : Elem) : Rounded :=
  let e := r.ev.add ev
  { code := r.code, ev := { e with nan := b2n v.isNan, inf := b2n v.isInf } }

/-- One multiplication or addition of a drain. -/
def drainOp (isMul : Bool) (x v : Nat) : Rounded :=
  let ev := (readF32 v).1
  let s := if isMul then eMul (readF32 x).1 ev else eAdd (readF32 x).1 ev
  drainStep (toF32 .even s.1) s.2 ev

/-- The value of element (r, n) before its conversion, with the events of its steps. -/
def DrainJob.value (j : DrainJob) (r n : Nat) : Nat × Ev :=
  let t := alGet j.base j.totals (totIdx r n)
  let x0 : Nat × Ev := if j.intMode then
      let z := toSigned 64 t
      ((toF32 .even (Elem.fin (decide (z < 0)) z.natAbs 0)).code, {})
    else (t, {})
  let step (on isMul : Bool) (v : Nat) (x : Nat × Ev) : Nat × Ev :=
    if on then let y := drainOp isMul x.1 v; (y.code, x.2.add y.ev) else x
  step (bit j.flags 2) false (nth j.bi n) (step (bit j.flags 1) true (nth j.cs n) (step (bit j.flags 0) true (nth j.rs r) x0))

/-- The input flushes of the vectors, counted once per element per drain: RS[r] in row r, CS and BI in row 0. -/
def DrainJob.vecFlush (j : DrainJob) (r : Nat) : List (Ev × Nat × Nat) :=
  let f (on : Bool) (v row col : Nat) : List (Ev × Nat × Nat) :=
    if on && (readF32 v).2 then [({ fin := 1 }, row, col)] else []
  f (bit j.flags 0) (nth j.rs r) r 0 ++
    if r = 0 then (List.range 128).flatMap fun n => f (bit j.flags 1) (nth j.cs n) 0 n ++ f (bit j.flags 2) (nth j.bi n) 0 n
    else []

/-- Row r of a drain: the device after its generator draws, the codes of the row, and its events. -/
def Dev.drainRow (d : Dev) (j : DrainJob) (r : Nat) : Dev × List Nat × List (Ev × Nat × Nat) :=
  let sto := bits j.flags 5 4 == 1
  let x := forL (List.range 128) (fun n (x : Dev × List Nat × List (Ev × Nat × Nat)) =>
    let v := j.value r n
    let g := if sto then x.1.evalRng j.facet (128 * (r % 4) + n) else ([], x.1)
    let c := convert j.ofmt (if sto then .sto (nth g.1 0 % 65536) else .even) (bit j.flags 3) (readF32 v.1).1
    let e := v.2.add c.ev
    (g.2, c.code :: x.2.1, if e = {} then x.2.2 else (e, r, n) :: x.2.2)) (d, [], [])
  (x.1, x.2.1.reverse, j.vecFlush r ++ x.2.2.reverse)

/-- First local address of row r. -/
def DrainJob.rowAddr (j : DrainJob) (r : Nat) : Nat := (j.dst + r * j.pitch) % 2 ^ 21

/-! ## The wedge engine's arithmetic (R156 to R159) -/

/-- Wedge descriptor d of facet f, as the number its 64 bytes spell. -/
def Dev.wdesc (d : Dev) (f i : Nat) : Nat := d.wds.get (f * 8 + i)

/-- A field of a descriptor: `n` bytes from offset `off`. -/
def wdAt (v off n : Nat) : Nat := bits v (8 * (off + n) - 1) (8 * off)

def wdKind (v : Nat) : Nat := wdAt v 0x3F 1
def wdFin (v : Nat) : Nat := bits v (8 * 0x30 + 3) (8 * 0x30)
def wdFwt (v : Nat) : Nat := bits v (8 * 0x30 + 7) (8 * 0x30 + 4)
def wdOfmt (v : Nat) : Nat := wdAt v 0x31 1
def wdWout (v : Nat) : Nat := wdAt v 0x20 2
def wdCin (v : Nat) : Nat := wdAt v 0x22 2
def wdCout (v : Nat) : Nat := wdAt v 0x24 2
def wdTaps (v : Nat) : Nat := wdAt v 0x26 1 * wdAt v 0x27 1
/-- Mode F of Table 08-3. -/
def wdModeF (v : Nat) : Bool := decide (wdCin v ≤ 8)
/-- Tile positions P and channels Q (Table 08-3). -/
def wdP (v : Nat) : Nat := if wdModeF v then 32 else if fmtBits (wdFin v) = 16 then 64 else 128
def wdQ (v : Nat) : Nat := if wdModeF v then (if fmtBits (wdFin v) = 16 then 16 else 32) else 8
/-- MAC steps of a pass (R157). -/
def wdSteps (v : Nat) : Nat := wdTaps v * wdCin v
/-- Computed positions of a tile that starts at wo0, and computed channels of block b (R157). -/
def wdPos (v wo0 : Nat) : Nat := min (wdP v) (wdWout v - wo0)
def wdCh (v b : Nat) : Nat := min (wdQ v) (wdCout v - b * wdQ v)

/-- Input row or column of a tap (R151). -/
def tapAt (o s pad k dil : Nat) : Int := (o * s : Nat) - (pad : Int) + (k * dil : Nat)

/-- Cuts a list into runs of `l`, the last perhaps shorter; `n` bounds the runs. -/
def chunksOf {α : Type} (l : Nat) : Nat → List α → List (List α)
  | 0, _ => []
  | n + 1, xs => if xs.isEmpty then [] else xs.take l :: chunksOf l n (xs.drop l)

/-- The total of a wedge element from its products in step order, and its events (R113 to R118). -/
def wedgeTotal (fa fb chlen : Nat) (ps : List (Nat × Nat)) : Nat × Ev :=
  if intPair fa fb then
    (ofSigned 64 (ps.foldl (fun s p => s + intVal fa p.1 * intVal fb p.2) 0), {})
  else
    let prs : List Pair := ps.map fun p => ((readElem fa p.1).1, some (readElem fb p.2).1)
    (chunksOf (chunkLen chlen fa fb) ps.length prs).foldl (fun (x : Nat × Ev) c =>
      let o := foldCell x.1 c
      (o.total, x.2.add o.ev)) (0x80000000, {})

/-- FP32 channel vectors of a tile: scales or biases of its computed channels. -/
def Dev.wedgeVec (d : Dev) (f v off b : Nat) : List Nat :=
  (List.range (wdCh v b)).map fun q =>
    leNat ((List.range 4).map fun k => d.lsByte f ((bits v 127 96 % 2 ^ 21 + off + 4 * (b * wdQ v + q) + k) % 2 ^ 21))

/-- The output codes of a ready tile by channel and position, and its events by position and channel: each of kinds 0 to 4
once per output element (R121, R158). -/
def Dev.wedgeOut (d : Dev) (f : Nat) (t : WedgeTile) : List (List Nat) × List (Ev × Nat × Nat) :=
  let v := t.desc
  let fa := wdFin v
  let fb := wdFwt v
  let np := wdPos v t.wo0
  let nq := wdCh v t.block
  let cell (p q : Nat) : Nat × Ev := wedgeTotal fa fb (wdAt v 0x32 2) (t.steps.map fun s => (nth s.1 p, nth s.2 q))
  let job : DrainJob :=
    { facet := f, set := false, base := 0, intMode := intPair fa fb, dst := 0, pitch := 0, ofmt := wdOfmt v,
      totals := [], flags := bits v (8 * 0x34 + 2) (8 * 0x34) * 2, rs := [],
      cs := d.wedgeVec f v 0 t.block, bi := d.wedgeVec f v 1024 t.block, site := t.site, chunkHits := [], seen := [] }
  let res := (List.range nq).map fun q => (List.range np).map fun p =>
    let c := cell p q
    let x := { job with base := c.1 }.value p q
    let r := convert job.ofmt .even (bit job.flags 3) (readF32 x.1).1
    let e := (c.2.add x.2).add r.ev
    (r.code, { e.once with fin := e.fin, fout := e.fout })
  let els := ((List.range nq).zip res).flatMap fun y =>
    ((List.range np).zip y.2).filterMap fun z => if z.2.2 = {} then none else some (z.2.2, z.1, y.1)
  let flush := t.steps.flatMap fun s => flushHits fa false 0 (s.1.take np) ++ flushHits fb true 0 (s.2.take nq)
  let vecs := (List.range nq).flatMap fun q =>
    (if bit job.flags 1 && (readF32 (nth job.cs q)).2 then [(({ fin := 1 } : Ev), 0, q)] else []) ++
    (if bit job.flags 2 && (readF32 (nth job.bi q)).2 then [(({ fin := 1 } : Ev), 0, q)] else [])
  (res.map fun r => r.map Prod.fst, flush ++ vecs ++ els)

/-- The oldest pass of facet f whose last step has issued and which is not finished yet becomes ready: its
tile is finished and its events are raised (R158). -/
def Dev.wedgeReady (d : Dev) (f : Nat) : Dev × List NevHit :=
  let c := d.cell f
  match c.tiles.find? fun t => t.out.isEmpty with
  | none => (d, [])
  | some t =>
    let r := d.wedgeOut f t
    let upd : List WedgeTile → List WedgeTile := fun l =>
      (l.takeWhile fun x => !x.out.isEmpty) ++ { t with out := r.1 } :: (l.dropWhile fun x => !x.out.isEmpty).drop 1
    (d.setCell f { c with tiles := upd c.tiles }, hitsOf t.site r.2)

end Sys2Proof.Machine
end

