-- ==== Sys2Proof/Machine/Effects.lean ====
section
/-! DEFINITION. Effects that come about after their issue: their landing in order of cycle and, within a cycle,
of access order (R14, R21, R22, R62, R74, R122). -/

namespace Sys2Proof.Machine

/-- Index of lane l of register r of context k in facet f (vector registers). -/
def vIdx (f k r l : Nat) : Nat := ((f * 16 + k) * 64 + r) * 512 + l

/-- Index of lane l of predicate p of context k in facet f. -/
def pIdx (f k p l : Nat) : Nat := ((f * 16 + k) * 16 + p) * 512 + l

/-- Vector register r of context k, lane l, in facet f. -/
def Dev.vreg (d : Dev) (f k r l : Nat) : Nat := d.vregs.get (vIdx f k r l)

/-- Predicate p of context k, lane l, in facet f. -/
def Dev.preg (d : Dev) (f k p l : Nat) : Bool := d.pregs.get (pIdx f k p l) != 0

/-- Index of element i of a prism vector: RS 0, CS 1, BI 2. -/
def pvIdx (f v i : Nat) : Nat := (f * 3 + v) * 128 + i

/-- The place of an effect among those of its cycle: drain rows and stores by the access order of their path,
everything else before them. -/
def Effect.rank : Effect → Nat
  | .drainRow _ _ => 2
  | .store _ ord _ _ _ _ => ord
  | _ => 0

/-- Condition registers after a write of some bits (R74, R75). -/
def condWrite (m : NatMap) (r mask v : Nat) : NatMap :=
  let old := m.get r
  m.set r (Nat.lor (Nat.land old (3 - mask)) (Nat.land v mask))

/-- Writes row r of a drain (R68, R122): its bytes, its events, and the next row due in the next cycle. -/
def landRow (i : Issue) (due : Nat) (j : DrainJob) (r : Nat) (w : Work) : Work :=
  let x := w.1.drainRow j r
  let bs := placeBytes (j.rowAddr r) (packBytes (fmtBits j.ofmt) x.2.1)
  let ch := (j.chunkHits.filter fun h => h.row == r)
  let hs := ch ++ (hitsOf j.site x.2.2).map fun h => { h with mode := 1 }
  let seen := mergeHits j.seen hs
  let d := (x.1.lsWrite j.facet bs).countFacet j.facet 5 noSub 1
  let i := { i with bidx := j.site.bidx }
  let w := Work.hit (touch i j.facet 2 (j.rowAddr r) (rowBytes j.ofmt) (d, w.2)) hs
  if r < 127 then w.dev fun d => d.later i.h i.n (due + 1) (.drainRow { j with seen } (r + 1))
  else w.hit (seen.map fun h => { h with mode := 2 })

/-- One effect comes about in cycle `due`. -/
def landEffect (i : Issue) (due : Nat) (e : Effect) (w : Work) : Work :=
  match e with
  | .lane f k half vs ps => w.dev fun d =>
      { d with vregs := d.vregs.setAll (vs.map fun x =>
                 let j := vIdx f k 0 0 + x.1
                 (j, if half = 1 then setBits (d.vregs.get j) 15 0 x.2
                     else if half = 2 then setBits (d.vregs.get j) 31 16 x.2 else x.2)),
               pregs := d.pregs.setAll (ps.map fun x => (pIdx f k 0 0 + x.1, x.2)) }
  | .store f ord bidx a n bs =>
      let i := { i with bidx := bidx }
      let w := touch i f ord a n w
      w.dev fun d => d.lsWrite f bs
  | .cond r m v => w.dev fun d => d.modCtx i.h i.n fun c => { c with conds := condWrite c.conds r m v }
  | .product f set clr steps l site read =>
      let x := w.1.landProduct f set clr steps l site
      Work.hit (x.1, w.2) (read ++ x.2)
  | .drainRow j r => landRow i due j r w
  | .prismDesc f k bs => w.dev fun d => { d with pds := d.pds.set (f * 8 + k) (leNat bs) }
  | .prismVec f v half ws => w.dev fun d =>
      { d with pvs := d.pvs.setAll ((List.range 64).map fun j => (pvIdx f v (64 * b2n half + j), nth ws j)) }
  | .wedgeReady f =>
      let x := w.1.wedgeReady f
      Work.hit (x.1, w.2) x.2
  | .wedgeDesc f k bs => w.dev fun d => { d with wds := d.wds.set (f * 8 + k) (leNat bs) }
  | .events hs => w.hit hs

/-- Takes from a context the effects due in cycle `c` of rank `k`, in order of their issue. -/
def Dev.takeDue (d : Dev) (h n c k : Nat) : List Effect × Dev :=
  let x := d.ctx h n
  let p (e : Delayed) : Bool := e.due == c && e.eff.rank == k
  ((x.inflight.filter p).map Delayed.eff, d.setCtx h n { x with inflight := x.inflight.filter fun e => !p e })

/-- The effects due in cycle `c` of ranks `lo` to `hi` come about. -/
def landRanks (i : Issue) (c lo hi : Nat) (w : Work) : Work :=
  forL ((List.range (hi + 1)).filter fun k => decide (lo ≤ k)) (fun k (w : Work) =>
    let x := w.1.takeDue i.h i.n c k
    forL x.1 (fun e w => landEffect i c e w) (x.2, w.2)) w

/-- The bundle that the first store or drain row due in a cycle belongs to. -/
def Dev.dueBidx (d : Dev) (h n c dflt : Nat) : Nat :=
  ((d.ctx h n).inflight.filterMap fun e =>
    if e.due ≠ c then none else match e.eff with
      | .store _ _ b _ _ _ => some b
      | .drainRow j _ => some j.site.bidx
      | _ => none).headD dflt

/-- Everything due in cycle `c` of a context comes about, in a cycle in which it issues nothing. -/
def Dev.landCycle (d : Dev) (h n c : Nat) : Dev :=
  let x := d.ctx h n
  let i : Issue := { h, n, p := x.part, bidx := d.dueBidx h n c x.bidx, icount := x.icount, cyc := c, first := false }
  (landRanks i c 0 4 (d, {})).close i 0 0

/-- The earliest cycle before `c` in which something of a context is due. -/
def Ctx.nextDue (x : Ctx) (c : Nat) : Option Nat :=
  x.inflight.foldl (fun m e => if c ≤ e.due then m else match m with | none => some e.due | some k => some (min k e.due)) none

/-- Everything due before cycle `c` comes about, cycle by cycle; `n` bounds the cycles. -/
def Dev.settleN (h n c : Nat) : Nat → Dev → Dev
  | 0, d => d
  | k + 1, d =>
    match (d.ctx h n).nextDue c with
    | none => d
    | some t => Dev.settleN h n c k (d.landCycle h n t)

/-- Everything due before cycle `c` of a context comes about. -/
def Dev.settle (d : Dev) (h n c : Nat) : Dev := Dev.settleN h n c (130 * (d.ctx h n).inflight.length) d

/-! ## Cycles in which a context issues nothing

`cyc` counts the cycles in which the units of a context move on: issue cycles and the cycles of fill waits and deadline
fences. In a stall of the hemisphere (R21, R23, R24, R26) they do not, so that every result comes out as it would
without the stall (R31) and stall cycles do not count towards λ (R74). -/

/-- `k` cycles pass in which the units of a context move on. -/
def Ctx.run (x : Ctx) (k : Nat) : Ctx := { x with cyc := x.cyc + k }

/-- Counts of a hinge entry after `k` cycles, `adv` of them issues, and whether its bound passes at the start of one of
these cycles (R90, R92): an open one counts context cycles from its branch's first issue on. -/
def HingeEntry.count (e : HingeEntry) (k : Nat) (adv : Bool) : HingeEntry × Bool :=
  let live := e.isOpen && e.begun
  let hit := live && !e.bflt && decide (e.len < e.elapsed + k)
  ({ e with elapsed := if live || (adv && !e.isOpen) then min 0xFFFFFFFF (e.elapsed + k) else e.elapsed,
            bflt := e.bflt || hit }, hit)

/-- The open hinges of a context whose JOIN has not issued: those on its stack, and the one popped for a JOIN that still
waits (R90). -/
def Ctx.bounds (x : Ctx) : List HingeEntry := x.hinges ++ x.joining.toList

/-- Changes every hinge of a context whose JOIN has not issued. -/
def Ctx.mapBounds (x : Ctx) (f : HingeEntry → HingeEntry) : Ctx :=
  { x with hinges := x.hinges.map f, joining := x.joining.map f }

/-- The hinges of a context over `k` context cycles, each an issue if `adv`: every bound that passes raises HINGE_BOUND,
naming its hinge bundle and the ICOUNT of that cycle (R55, R90). -/
def Dev.hingeTime (d : Dev) (h n k : Nat) (adv : Bool) : Dev :=
  let x := d.ctx h n
  let d := forL (x.bounds.filter fun e => (e.count k adv).2) (fun e d =>
    d.tfault h n 7 e.bidx (x.icount + if adv then e.len - e.elapsed else 0)) d
  d.modCtx h n fun c => c.mapBounds fun e => (e.count k adv).1

/-- `k` cycles of a wait of a context on a fill bit or a deadline fence pass, with what is due in them: open hinges count
them too (R90). -/
def Dev.waitCycles (d : Dev) (h n k : Nat) : Dev :=
  let p := (d.ctx h n).part
  let d := (d.hingeTime h n k false).dropClaims p h
  let why := match (d.ctx h n).phase with | .dfenceWait => 2 | .fillWait => 3 | _ => 0
  let d := d.countCtx h n 3 (fun s => s == 0 || s == why) k
  let d := d.modCtx h n fun c => { c.run k with tclk := c.tclk + if d.countsRun p then k else 0 }
  d.settle h n (d.ctx h n).cyc

/-- `k` stall cycles of hemisphere h: no context of it issues, no unit moves on, and no bundle access claims a bank. -/
def Dev.stallCycles (d : Dev) (h k : Nat) : Dev :=
  { d with claims := d.claims.filter fun e => e.1 / 128 != h }.passTime h k

/-- `k` cycles in which a span fence of a context stalls the hemisphere (R26): its open hinges count them (R90). -/
def Dev.fenceCycles (d : Dev) (h n k : Nat) : Dev :=
  ((d.hingeTime h n k false).countCtx h n 3 (fun s => s == 0 || s == 1) k).stallCycles h k

/-- The limit after which a late fence, or a wait on a fill bit, is partition-fatal. -/
abbrev waitLimit : Nat := 1048576

/-- `k` cycles of the wait a context is in pass; its own count advances where counts do. -/
def Dev.waitOn (d : Dev) (h n k : Nat) : Dev :=
  let on := d.countsRun (d.ctx h n).part
  let d := if (d.ctx h n).phase = .fenceWait then d.fenceCycles h n k else d.waitCycles h n k
  d.modCtx h n fun x => { x with
    waited := if on then x.waited + k else x.waited,
    fence := x.fence.map fun f => if on then { f with waited := f.waited + k } else f }

/-- Whether a context issues nothing, but its units move on: it does not run, or it waits on a fill bit, on a deadline
fence, or after HALT. -/
def Ctx.idles (x : Ctx) : Bool :=
  x.state != .running || x.phase == .fillWait || x.phase == .dfenceWait || x.phase == .haltDue

/-- Cycles that a context that idles can let pass: those its wait has left. -/
def Ctx.idleRoom (x : Ctx) : Option Nat :=
  if x.state ≠ .running then none else
  match x.phase, x.fence with
  | .fillWait, _ => some (waitLimit - x.waited)
  | .dfenceWait, some f => some (f.bound - f.waited)
  | _, _ => none

/-- `k` cycles pass in which a context idles. -/
def Dev.idleCycles (d : Dev) (h n k : Nat) : Dev :=
  match (d.ctx h n).idleRoom with
  | some _ => d.waitOn h n k
  | none => d.modCtx h n fun x => x.run k

/-- The first effect of a kind that a context still has to come comes about. Where the context idles, the cycles up to it
pass, with everything due in them; where it is about to issue in the cycle the effect is due in, the effect comes about
there, unless it reaches local store, which it does in that issue. -/
def Dev.landNext (d : Dev) (c : CtxId) (p : Effect → Bool) : Dev :=
  let h := c.h.val
  let n := c.n.val
  let x := d.ctx h n
  match (x.inflight.filter fun e => p e.eff).map Delayed.due with
  | [] => d
  | t :: ts =>
    let t := ts.foldl min t
    let k := t + 1 - x.cyc
    if x.idles then
      if x.idleRoom.any fun r => decide (r < k) then d else (d.idleCycles h n k).settle h n (t + 1)
    else if t ≤ x.cyc then
      let d := d.settle h n t
      (landRanks { d.issueOf c with cyc := t } t 0 0 (d, {})).close (d.issueOf c) 0 0
    else d

/-- One op by itself, in the cycle its context is in: what is due before it comes about first, in that cycle
up to the access order `k` of the op's path, the op acts, and the rest of the cycle follows. -/
def Dev.oneOp (d : Dev) (c : CtxId) (k : Nat) (f : Issue → Work → Work) : Dev :=
  let h := c.h.val
  let n := c.n.val
  let i := d.issueOf c
  let d := d.settle h n i.cyc
  let w := landRanks i i.cyc 0 k (d, {})
  (landRanks i i.cyc 0 4 (f i w)).close i 0 0

/-- One op of a sector slot by itself, if it may act. -/
def Dev.siteOp (d : Dev) (s : Site) (k : Nat) (f : Issue → Work → Work) : Dev :=
  if d.siteOk s then d.oneOp s.c k f else d

/-- One op of a shared slot by itself, if it may act. -/
def Dev.ctxOp (d : Dev) (c : CtxId) (f : Issue → Work → Work) : Dev :=
  if d.ctxOk c then d.oneOp c 4 f else d

end Sys2Proof.Machine
end

