-- ==== Sys2Proof/Machine/Memory.lean ====
section
/-! DEFINITION. Rim memory, the check code, the staging cache and the global address space
(09_memory_tiers.md, 22_address_map.md; R16, R170 to R181, R281, R379, R380). -/

namespace Sys2Proof.Machine

abbrev GiB : Nat := 2 ^ 30
abbrev MiB : Nat := 2 ^ 20

/-- Bytes of a sector's rim range (R168). -/
abbrev sectorBytes : Nat := 48 * GiB

/-- First address above rim memory. -/
abbrev rimTop : Nat := 16 * sectorBytes

/-- First far-tier window address and the span of one window (R179). -/
abbrev winBase : Nat := 0x800000000000
abbrev winSpan : Nat := 0x080000000000

/-! ## The address map of the stacks (R168) -/

/-- Where a rim address lies: stack, pseudo-channel, channel-local granule index. -/
structure RimPlace where
  stack : Nat
  pc : Nat
  gidx : Nat
deriving DecidableEq, Repr

/-- `rim_map`. -/
def rimMap (a : Nat) : RimPlace :=
  let g := a / sectorBytes
  let o := a % sectorBytes
  let pcl := Nat.xor (Nat.xor (o / 2 ^ 8 % 16) (o / 2 ^ 16 % 16)) (o / 2 ^ 24 % 16)
  { stack := g / 2, pc := g % 2 * 16 + pcl, gidx := (o / 2 ^ 12 * 2 ^ 8 + o % 256) / 64 }

/-- Die, bank, row and granule of a channel-local granule index. -/
def gDie (gidx : Nat) : Nat := gidx / 2 ^ 8 % 8
def gBank (gidx : Nat) : Nat := gidx / 2 ^ 4 % 16
def gRow (gidx : Nat) : Nat := gidx / 2 ^ 11
def gGran (gidx : Nat) : Nat := gidx % 16

/-- The address of granule `gidx` of a pseudo-channel: the inverse of `rimMap`. -/
def rimAddr (x pc gidx : Nat) : Nat :=
  let c := gidx * 64
  let hi := c / 2 ^ 8 * 2 ^ 12
  let sel := Nat.xor (Nat.xor (pc % 16) (hi / 2 ^ 16 % 16)) (hi / 2 ^ 24 % 16)
  (2 * x + pc / 16) * sectorBytes + hi + sel * 2 ^ 8 + c % 256

/-- Index of a pseudo-channel. -/
def chanKey (x pc : Nat) : Nat := x * 32 + pc

/-- PC_OK of a pseudo-channel. -/
def Dev.pcOk (d : Dev) (x pc : Nat) : Bool := d.flag (rMemStk x) pc

/-! ## The check code (R171, R172) -/

/-- Product in GF(2^16). -/
def gfMul (a b : Nat) : Nat :=
  let r := forN 16 (fun i r => if bit b i then Nat.xor r (a * 2 ^ i) else r) 0
  forN 15 (fun i r => if bit r (30 - i) then Nat.xor r (0x1100B * 2 ^ (14 - i)) else r) r

/-- Power. -/
def gfPow (a n : Nat) : Nat := forN n (fun _ r => gfMul r a) 1

/-- Inverse: a^(2^16 − 2), by fifteen squarings. -/
def gfInv (a : Nat) : Nat :=
  (forN 15 (fun _ (x : Nat × Nat) => let s := gfMul x.1 x.1; (s, gfMul x.2 s)) (a, 1)).2

/-- Value of a polynomial, coefficients lowest order first. -/
def gfEval (p : List Nat) (x : Nat) : Nat := p.foldr (fun c r => Nat.xor c (gfMul r x)) 0

/-- The eight syndromes of an error pattern: symbol j stands at power 41 − j. -/
def syndromes (errs : SymErrs) : List Nat :=
  (List.range 8).map fun i => errs.foldl (fun s e => Nat.xor s (gfMul e.2.toNat (gfPow 2 (i * (41 - e.1))))) 0

/-- p + c x^k q over GF(2^16). -/
def polyAdd (p q : List Nat) (c k : Nat) : List Nat :=
  (List.range (max p.length (q.length + k))).map fun i =>
    Nat.xor (p.getD i 0) (if i < k then 0 else gfMul c (q.getD (i - k) 0))

/-- The error locator of eight syndromes (Berlekamp and Massey): the polynomial and its degree. -/
def locator (s : List Nat) : List Nat × Nat :=
  let r := forN 8 (fun n (x : List Nat × List Nat × Nat × Nat × Nat) =>
    let c := x.1
    let b := x.2.1
    let l := x.2.2.1
    let m := x.2.2.2.1
    let bd := x.2.2.2.2
    let disc := forN (l + 1) (fun i v => Nat.xor v (gfMul (c.getD i 0) (s.getD (n - i) 0))) 0
    if disc = 0 then (c, b, l, m + 1, bd)
    else
      let c' := polyAdd c b (gfMul disc (gfInv bd)) m
      if 2 * l ≤ n then (c', c, n + 1 - l, 1, disc) else (c', b, l, m + 1, bd)) ([1], [1], 0, 1, 1)
  (r.1, r.2.2.1)

/-- What decoding a stored granule finds: the errors it corrects, or uncorrectable with ADDR. -/
inductive Decoded where
  | fixed (errs : SymErrs)
  | ue (addr : Bool)
deriving DecidableEq, Repr

/-- Decodes an error pattern: at most four symbols, located and evaluated (R172). -/
def rsDecode (errs : SymErrs) : Decoded :=
  let s := syndromes errs
  if s.all (fun x => x == 0) then .fixed []
  else
    let loc := locator s
    let pos := (List.range 42).filter fun j => gfEval loc.1 (gfInv (gfPow 2 (41 - j))) == 0
    if 4 < loc.2 ∨ pos.length ≠ loc.2 then .ue false
    else
      let omega := (List.range 8).map fun i => forN (i + 1) (fun k v => Nat.xor v (gfMul (loc.1.getD k 0) (s.getD (i - k) 0))) 0
      let der := (List.range loc.1.length).map fun i => if i % 2 = 0 then loc.1.getD (i + 1) 0 else 0
      let vals : SymErrs := pos.map fun j =>
        let x := gfPow 2 (41 - j)
        let xi := gfInv x
        (j, BitVec.ofNat 16 (gfMul x (gfMul (gfEval omega xi) (gfInv (gfEval der xi)))))
      if pos.any fun j => decide (j < 2) then .ue true else .fixed vals

/-- The bytes of a granule changed by symbol errors in its data symbols. -/
def symXor (errs : SymErrs) (bs : List Byte) : List Byte :=
  (List.range bs.length).map fun i =>
    errs.foldl (fun (b : Byte) e =>
      if e.1 = i / 2 + 2 then b ^^^ BitVec.ofNat 8 (e.2.toNat / 256 ^ (i % 2)) else b) (bs.getD i 0)

/-- The generator ∏(x + α^i), i = 0 to 7, highest order first (`gen_poly` of R171). -/
def genPoly : List Nat :=
  (forN 8 (fun _ (x : List Nat × Nat) =>
    (((x.1 ++ [0]).zip (0 :: x.1)).map fun (e : Nat × Nat) => Nat.xor e.1 (gfMul e.2 x.2), gfMul x.2 2)) ([1], 1)).1

/-- The check symbols p0 to p7 of a granule (`check_symbols` of R171), from its channel-local index and its 64 bytes. -/
def checkSymbols (gidx : Nat) (data : List Byte) : List Nat :=
  let g := genPoly
  let syms := [gidx / 2 ^ 16, gidx % 2 ^ 16] ++ (List.range 32).map fun j => leAt data (2 * j) 2
  syms.foldl (fun rem s =>
    let fb := Nat.xor s (rem.headD 0)
    (List.range 8).map fun i => Nat.xor (rem.getD (i + 1) 0) (gfMul fb (g.getD (i + 1) 0))) (List.replicate 8 0)

/-- The stored errors of the granule at address `a` (64 B-aligned). -/
def Dev.errsAt (d : Dev) (a : Nat) : SymErrs := alGet [] d.mem.errs (a / 64)

/-- The 40 symbols that the core dies store for the granule at `a`, data symbols first (R171, R172): the codeword of what was
written, changed by the errors it holds. The code is linear, so that the syndromes of what is read are those of the
errors alone. -/
def Dev.stored (d : Dev) (a : Nat) : List Nat :=
  let bs := d.rim.read a 64
  let word := ((List.range 32).map fun j => leAt bs (2 * j) 2) ++ checkSymbols (rimMap a).gidx bs
  (List.range 40).map fun j => (d.errsAt a).foldl (fun v e => if e.1 = j + 2 then Nat.xor v e.2.toNat else v) (word.getD j 0)

/-- Replaces the stored errors of a granule. -/
def Dev.setErrs (d : Dev) (a : Nat) (e : SymErrs) : Dev :=
  { d with mem := { d.mem with errs := alSet [] d.mem.errs (a / 64) e } }

/-- Whether the granule at `a` is uncorrectable as it is stored. -/
def Dev.isUe (d : Dev) (a : Nat) : Option Bool :=
  match d.errsAt a with
  | [] => none
  | e => match rsDecode e with | .ue x => some x | .fixed _ => none

/-- Fields [126:93] of MEM_STK_x_UECAP for a granule (Table 09-9). -/
def ueFields (src : Nat) (addr : Bool) (p : RimPlace) : Nat :=
  gGran p.gidx + gRow p.gidx * 2 ^ 4 + gBank p.gidx * 2 ^ 19 + gDie p.gidx * 2 ^ 23 + p.pc * 2 ^ 26 + b2n addr * 2 ^ 31 +
    src * 2 ^ 32

/-- First address of p's share in sector g, and the first above it. -/
def Dev.shareLo (d : Dev) (p g : Nat) : Nat := g * sectorBytes + d.fld (rPrtCfg p) 43 36 * (256 * MiB)
def Dev.shareHi (d : Dev) (p g : Nat) : Nat := d.shareLo p g + d.fld (rPrtCfg p) 51 44 * (256 * MiB)

/-- The partition in whose share an address of rim memory lies: accesses there are on its behalf (R307). -/
def Dev.memPart (d : Dev) (a : Nat) : Option Nat :=
  let g := a / sectorBytes
  (List.range 16).find? fun p => d.partValid p && d.holds p g && decide (d.shareLo p g ≤ a ∧ a < d.shareHi p g)

/-- An uncorrectable read is counted and captured (R172, R174). -/
def Dev.ueCount (d : Dev) (a src : Nat) (addr : Bool) : Dev :=
  let p := rimMap a
  let d := (d.bump (rMemUe p.stack p.pc)).countMem p.stack p.pc 8 (if src = 0 then d.memPart a else none) 1
  if d.flag (rMemUecap p.stack) 127 then d
  else d.setReg (rMemUecap p.stack) (2 ^ 127 + ueFields src addr p * 2 ^ 93 + a)

/-- The record of an uncorrectable read. -/
def ueRec (part : Option Nat) (a src bidx ctx tag : Nat) (addr : Bool) : ErrRec :=
  let p := rimMap a
  { part, cls := clsRequest, cause := 0x38, block := 9, unit := p.stack,
    det := detail a bidx ctx tag (ueFields src addr p) }

/-- Tracks a corrected error of a row: the record of a repair candidate at the threshold (R175). -/
def Dev.trackRow (d : Dev) (a : Nat) : Dev :=
  let p := rimMap a
  let key := chanKey p.stack p.pc
  let row := gRow p.gidx * 128 + gDie p.gidx * 16 + gBank p.gidx
  let l := alGet [] d.mem.rows key
  let n := alGet 0 l row + 1
  let rest := l.filter fun e => e.1 != row
  let put (m : List (Nat × Nat)) (d : Dev) : Dev := { d with mem := { d.mem with rows := alSet [] d.mem.rows key m } }
  if d.fld rMemCfg 15 8 ≤ n then
    (put rest d).record { part := none, cls := clsCorrected, cause := 0x39, block := 9, unit := p.stack,
                          det := detail a 0 0 0 row }
  else put (((row, n) :: rest).take 16) d

/-- Bytes of the carve-out at the top of every sector's range (R169). -/
def Dev.carveBytes (d : Dev) : Nat := d.sys.carve * 64 * MiB

/-- A rim address lies in the Flifin carve-out. -/
def Dev.inCarve (d : Dev) (a : Nat) : Bool := decide (a < rimTop ∧ sectorBytes - d.carveBytes ≤ a % sectorBytes)

/-- An error of runtime state: device-fatal RT_UE with its kind, 0 cache, 1 carve-out, 2 code digest, 3 structure CRC
(R318). -/
def Dev.rtUe (d : Dev) (kind : Nat) : Dev :=
  d.record { part := none, cls := clsDevice, cause := 0x302, block := 13, det := detail 0 0 0 0 kind }

/-- The record of an uncorrectable read by no program: by the runtime or the scrub. In the carve-out it is an error of
runtime state as well (R174, R318). -/
def Dev.ueAgent (d : Dev) (a src : Nat) (addr : Bool) : Dev :=
  let d := d.record (ueRec none a src 0 0 0 addr)
  if d.inCarve a then d.rtUe 1 else d

/-- A granule is read with the errors given beside those stored: corrected, counted and written back, or declared
uncorrectable, and then it stays as it was read, so that every later read fails in the same way (R174); a pattern that is
itself a codeword is not seen, and its data is what the granule now holds. A corrected carve-out error counts in FLF_CORR
(R172, R175, R318). -/
def Dev.readGranule (d : Dev) (a src : Nat) (errs : SymErrs) : Dev × Option Bool :=
  let p := rimMap a
  let part := if src = 0 then d.memPart a else none
  let d := d.countMem p.stack p.pc 2 part 1
  let d := if d.inCarve a then d.countMem p.stack p.pc 9 part 1 else d
  let old := d.errsAt a
  let all : SymErrs := (errs.filter fun e => e.1 < 42).foldl (fun l e =>
    if l.any fun x => x.1 == e.1 then l.map fun x => if x.1 = e.1 then (x.1, x.2 ^^^ e.2) else x else l ++ [e]) old
  let all := all.filter fun e => e.2 != 0
  if all.isEmpty then (if old.isEmpty then d else d.setErrs a [], none) else
  match rsDecode all with
  | .ue x => ((d.setErrs a all).ueCount a src x, some x)
  | .fixed [] => ({ d.setErrs a [] with rim := d.rim.write a (symXor all (d.rim.read a 64)) }, none)
  | .fixed fix =>
    let bytes := d.rim.read a 64
    let d := { d with rim := d.rim.write a (symXor fix (symXor all bytes)) }
    let d := ((d.setErrs a []).bump (rMemCe p.stack p.pc)).countMem p.stack p.pc 7 part 1
    let d := if d.inCarve a then d.bump rFlfCorr else d
    (d.trackRow a, none)

/-- The granules of rim memory that a range covers. -/
def rimGranules (a len : Nat) : List Nat :=
  if len = 0 ∨ rimTop ≤ a then [] else (List.range ((a + len - 1) / 64 - a / 64 + 1)).map fun k => (a / 64 + k) * 64

/-- What the completion of a command tells of an uncorrectable read (R174). -/
def ueDetail (g : Nat × Bool) : Nat := detail g.1 0 0 0 (ueFields 0 g.2 (rimMap g.1))

/-- Reads the granules of a range for no piece of a request: what can be corrected is corrected and written back; those
that cannot be read are answered with their ADDR (R172, R174). -/
def Dev.readRim (d : Dev) (src a len : Nat) : Dev × List (Nat × Bool) :=
  forL (rimGranules a len) (fun g (x : Dev × List (Nat × Bool)) =>
    let y := x.1.readGranule g src []
    (y.1, x.2 ++ (y.2.map fun ad => (g, ad)).toList)) (d, [])

/-- A read by the runtime: a granule that it cannot read is recorded with the runtime as the requester (R174), and the
answer says whether all of the range was read. -/
def Dev.readAgent (d : Dev) (a len : Nat) : Dev × Bool :=
  let x := d.readRim 0 a len
  (forL x.2 (fun g d => d.ueAgent g.1 0 g.2) x.1, x.2.isEmpty)

/-! ## The staging cache (R176 to R178) -/

/-- Hemisphere of a rim address. -/
def rimHemi (a : Nat) : Nat := a / (8 * sectorBytes)

/-- Set of a line. -/
def stageSet (a : Nat) : Nat := Nat.xor (a / 2 ^ 8 % 2 ^ 14) (a / 2 ^ 22 % 2 ^ 14)

/-- Whether way w of hemisphere h belongs to p. -/
def Dev.wayOf (d : Dev) (h w p : Nat) : Bool :=
  d.flag (rMemWaymap h) (64 + w) && d.fld (rMemWaymap h) (4 * w + 3) (4 * w) == p

/-- Whether the line of rim address `a` stands in one of p's ways. -/
def Dev.staged (d : Dev) (p a : Nat) : Bool :=
  d.mem.lines.any fun l => l.line == a / 256 && d.wayOf (rimHemi a) l.way p

/-- Visits way w in the tree of a set: every node on its path points away from it. -/
def plruTouch (t w : Nat) : Nat :=
  let r := forN 4 (fun i (x : Nat × Nat) =>
    let b := w / 2 ^ (3 - i) % 2
    (2 * x.1 + b, setBits x.2 x.1 x.1 (1 - b))) (1, t)
  r.2

/-- The victim of a tree among allowed ways. -/
def plruVictim (t : Nat) (ok : Nat → Bool) : Nat :=
  let r := forN 4 (fun i (x : Nat × Nat) =>
    let span := 2 ^ (3 - i)
    let any (b : Nat) : Bool := (List.range span).any fun k => ok ((2 * x.2 + b) * span + k)
    let b := b2n (bit t x.1)
    let b := if any b then b else 1 - b
    (2 * x.1 + b, 2 * x.2 + b)) (1, 0)
  r.2

/-- Brings the line of `a` into p's ways. -/
def Dev.stage (d : Dev) (p a : Nat) : Dev :=
  let h := rimHemi a
  let set := stageSet a
  let key := h * 2 ^ 14 + set
  let own (w : Nat) : Bool := d.wayOf h w p
  let here (l : StageLine) : Bool := l.set == set && rimHemi (l.line * 256) == h
  let touch (w : Nat) (d : Dev) : Dev :=
    { d with mem := { d.mem with plru := d.mem.plru.set key (plruTouch (d.mem.plru.get key) w) } }
  match d.mem.lines.find? fun l => l.line == a / 256 && own l.way with
  | some l => touch l.way d
  | none =>
    if !(List.range 16).any own then d else
    let free := (List.range 16).find? fun w => own w && !(d.mem.lines.any fun l => here l && l.way == w)
    let dropped := (d.mem.lines.find? fun l => here l && own l.way && l.drop).map StageLine.way
    let w := match dropped, free with
      | some w, _ => w
      | none, some w => w
      | none, none => plruVictim (d.mem.plru.get key) own
    let d := { d with mem := { d.mem with
      lines := (d.mem.lines.filter fun l => !(here l && l.way == w)) ++ [{ set, way := w, line := a / 256, drop := false }] } }
    touch w d

/-- The lines of a range. -/
def linesOf (a len : Nat) : List Nat :=
  if len = 0 then [] else (List.range ((a + len - 1) / 256 - a / 256 + 1)).map fun i => (a / 256 + i) * 256

/-- Marks p's lines of a rim range first for eviction (SDROP). -/
def Dev.dropRange (d : Dev) (p a len : Nat) : Dev :=
  { d with mem := { d.mem with lines := d.mem.lines.map fun l =>
      if l.line * 256 < a + len ∧ a < l.line * 256 + 256 ∧ d.wayOf (rimHemi (l.line * 256)) l.way p = true then
        { l with drop := true } else l } }

/-- One staging-line error met by a lookup of address `a` for p: 1 corrected, 2 invalidates the line; both are
counted in MEM_SC_h_CORR as corrected-class events (R178). -/
def Dev.stageError (d : Dev) (p a : Nat) (kind : Nat) : Dev :=
  if kind = 0 ∨ !d.staged p a then d else
  let h := rimHemi a
  let d := if kind = 1 then d.bump (rMemScCorr h) else
    { d with mem := { d.mem with lines := d.mem.lines.filter fun l => !(l.line == a / 256 && d.wayOf h l.way p) } }
  d.record { part := some p, cls := clsCorrected, cause := 0x3C, block := 9, unit := a / sectorBytes / 2,
             det := detail a 0 0 0 (stageSet a) }

/-- The staging-line errors that the lookups of an issue met (R178). -/
def Dev.stageErrors (d : Dev) (p : Nat) (sc : StageErrs) : Dev :=
  forL sc (fun e d => d.stageError p e.1.toNat (if e.2 then 2 else 1)) d

/-! ## Permitted ranges (R16, R170, R179, R281, R292, R379, R380) -/

/-- Share units of a sector (R281). -/
def Dev.shareUnits (d : Dev) : Nat := (sectorBytes - d.carveBytes) / (256 * MiB)

/-- First address of p's reserve in sector g. -/
def Dev.reserveLo (d : Dev) (p g : Nat) : Nat := d.shareHi p g - d.reg (rPsvRsv p) * (256 * MiB)

/-- p's ingest scratch. -/
def Dev.scratchLo (d : Dev) (p : Nat) : Nat := d.reg (rIngScrBase p)
def Dev.scratchHi (d : Dev) (p : Nat) : Nat := d.scratchLo p + d.fld (rIngScrSize p) 15 0 * (16 * MiB)

/-- Window of an address. -/
def winOf (a : Nat) : Nat := (a - winBase) / winSpan
/-- Whether an address lies in the far-tier range. -/
def isFar (a : Nat) : Bool := decide (winBase ≤ a ∧ a < 2 ^ 48)
/-- Whether an address lies in a local-store view. -/
def isLs (a : Nat) : Bool := decide (0x100000000000 ≤ a ∧ a < 0x100020000000)
/-- Facet and local address of a local-store view address. -/
def lsFacet (a : Nat) : Nat := (a - 0x100000000000) / 0x200000
def lsLocal (a : Nat) : Nat := (a - 0x100000000000) % 0x200000

/-- The partition whose requests reach facet f's local store: the one resident on its sector. -/
def Dev.reachesFacet (d : Dev) (p f : Nat) : Bool := d.residentOf (sectorOf f) == some p

/-- The end of the run of permitted addresses that starts at `a`; `a` itself where it is not permitted. -/
def Dev.goodEnd (d : Dev) (p a : Nat) : Nat :=
  if a < rimTop then
    let g := a / sectorBytes
    let hi := d.reserveLo p g
    if !d.partValid p || !d.holds p g || decide (a < d.shareLo p g) || decide (hi ≤ a) then a
    else if d.scratchLo p ≤ a ∧ a < d.scratchHi p then a
    else if a < d.scratchLo p ∧ d.scratchLo p < d.scratchHi p then min hi (d.scratchLo p) else hi
  else if isLs a then
    if d.reachesFacet p (lsFacet a) && decide (lsLocal a < lsTop) then lsView (lsFacet a) + lsTop else a
  else if isFar a then
    let w := winOf a
    let c := d.reg (rMemFwCfg p w)
    let e := winBase + w * winSpan + 2 ^ bits c 28 23
    if bit c 31 ∧ a < e then e else a
  else a

/-- The first address of a range that a partition's request may not reach; `n` bounds the runs. -/
def Dev.firstBadN (d : Dev) (p e : Nat) : Nat → Nat → Option Nat
  | 0, a => if a < e then some a else none
  | n + 1, a => if e ≤ a then none else let g := d.goodEnd p a; if g ≤ a then some a else d.firstBadN p e n g

/-- The first address of `len` bytes from `a` that p may not reach. -/
def Dev.firstBad (d : Dev) (p a len : Nat) : Option Nat := d.firstBadN p (a + len) 64 a

/-- Whether an address that p may not reach is unbacked local store of a facet it holds (R16). -/
def Dev.badIsUnbacked (d : Dev) (p a : Nat) : Bool := isLs a && d.reachesFacet p (lsFacet a)

/-- BLOCK and UNIT of a record about an address: MEM with its stack or window, FCT for unbacked local store. -/
def Dev.addrBlock (d : Dev) (p a : Nat) : Nat × Nat :=
  if d.badIsUnbacked p a then (11, lsFacet a)
  else (9, if a < rimTop then a / sectorBytes / 2 else if isFar a then winOf a else 0)

/-! ## Bytes of the global space -/

/-- KIND and target byte address of a window address (R179). -/
def Dev.winTarget (d : Dev) (p a : Nat) : Nat × Nat :=
  let w := winOf a
  (bits (d.reg (rMemFwCfg p w)) 30 29, d.reg (rMemFwTgt p w) + (a - (winBase + w * winSpan)))

/-- Bytes of flash share per partition that the model lays its addresses by: p's share starts at p * 2^42. -/
def flashAddr (p off : Nat) : Nat := p * 2 ^ 42 + off % 2 ^ 42

/-- The byte at a global address that p may read. Host memory the device has written reads as written; other
host memory and peer rim memory are free (log 5). -/
def Dev.gbyte (d : Dev) (p a : Nat) : Byte :=
  if a < rimTop then d.rim.byte a
  else if isLs a then d.lsByte (lsFacet a) (lsLocal a)
  else if isFar a then
    let t := d.winTarget p a
    if t.1 = 3 then d.mem.flash.byte (flashAddr p t.2) else Config.farByte (p * 4 + t.1) d.fresh t.2
  else 0

/-- `n` bytes from a global address. -/
def Dev.gread (d : Dev) (p a n : Nat) : List Byte := (List.range n).map fun i => d.gbyte p (a + i)

/-- The granules that a write covers in part and whose stored form holds errors: their read comes first (R173). -/
def Dev.mergeGranules (d : Dev) (bs : List (Nat × Byte)) : List Nat :=
  if d.mem.errs.isEmpty then [] else
  ((bs.map fun e => e.1 / 64 * 64).eraseDups).filter fun g =>
    !(d.errsAt g).isEmpty && decide (countIf (fun e => e.1 / 64 * 64 == g) bs < 64)

/-- The granules of a write count as written, those that it covers in part as read, modified and written (Table 16-2). -/
def Dev.countWrites (d : Dev) (bs : List (Nat × Byte)) : Dev :=
  if !(d.regs.any fun e => slotCounts e.1 e.2) then d else
  forL ((bs.map fun e => e.1 / 64 * 64).eraseDups) (fun g (d : Dev) =>
    let x := rimMap g
    let evt := if countIf (fun e => e.1 / 64 * 64 == g) bs < 64 then 4 else 3
    let d := d.countMem x.stack x.pc evt (d.memPart g) 1
    if d.inCarve g then d.countMem x.stack x.pc 9 (d.memPart g) 1 else d) d

/-- Writes bytes to rim memory: a granule wholly covered loses its errors; one partly covered is read and merged, and
where that read fails its write is not made, with a record for the runtime (R173, R174). -/
def Dev.rimPut (d : Dev) (bs : List (Nat × Byte)) : Dev :=
  let d := d.countWrites bs
  if d.mem.errs.isEmpty then { d with rim := d.rim.writeAt bs }
  else
    let x := forL (d.mergeGranules bs) (fun g (x : Dev × List Nat) =>
      let y := x.1.readGranule g 0 []
      match y.2 with
      | none => (y.1, x.2)
      | some ad => (y.1.ueAgent g 0 ad, g :: x.2)) (d, [])
    let put := bs.filter fun e => !x.2.contains (e.1 / 64 * 64)
    let d := forL ((put.map fun e => e.1 / 64 * 64).eraseDups) (fun g d => d.setErrs g []) x.1
    { d with rim := d.rim.writeAt put }

/-- Writes bytes at global addresses: rim memory or local store. -/
def Dev.gput (d : Dev) (bs : List (Nat × Byte)) : Dev :=
  let d := d.rimPut (bs.filter fun e => decide (e.1 < rimTop))
  { d with ls := d.ls.writeAt ((bs.filter fun e => isLs e.1 && decide (lsLocal e.1 < lsTop)).map fun e =>
      (lsFacet e.1 * 0x200000 + lsLocal e.1, e.2)) }

/-- Writes consecutive bytes from a global address. -/
def Dev.gwrite (d : Dev) (a : Nat) (bs : List Byte) : Dev := d.gput (placeBytes a bs)

end Sys2Proof.Machine
end

