-- ==== Sys2Proof/Machine/Wire.lean ====
section
/-! DEFINITION. What the ports put out, and the groups, peers and keys it goes by (10_barrov_network.md, R189 to R198, Tables
10-2, 10-10, 10-11). -/

namespace Sys2Proof.Machine

/-! ## Groups (Table 10-10) -/

/-- Fields of BRV_GRP_g. -/
def Dev.grpMem (d : Dev) (g : Nat) : Nat := d.fld (rBrvGrp g) 15 0
def Dev.grpRank (d : Dev) (g : Nat) : Nat := d.fld (rBrvGrp g) 31 16
def Dev.grpTab (d : Dev) (g : Nat) : Nat := d.fld (rBrvGrp g) 79 32
def Dev.grpPorts (d : Dev) (g : Nat) : Nat := d.fld (rBrvGrp g) 143 96
def Dev.grpKey (d : Dev) (g : Nat) : Nat := d.fld (rBrvGrp g) 167 152
def Dev.grpOn (d : Dev) (g : Nat) : Bool := d.flag (rBrvGrp g) 176
def Dev.grpHemi (d : Dev) (g : Nat) : Nat := d.fld (rBrvGrp g) 177 177
def Dev.grpEpoch (d : Dev) (g : Nat) : Nat := d.fld (rBrvGrp g) 255 224
def Dev.grpFault (d : Dev) (g : Nat) : Bool := d.fld (rBrvGrp g) 279 278 == 2
/-- Payload bytes of a frame of group g. -/
def Dev.grpPayload (d : Dev) (g : Nat) : Nat := 1024 * 2 ^ (d.fld (rBrvGrp g) 169 168)

def Dev.setGrpEpoch (d : Dev) (g v : Nat) : Dev := d.setFld (rBrvGrp g) 255 224 v
def Dev.setGrpState (d : Dev) (g v : Nat) : Dev := d.setFld (rBrvGrp g) 279 278 v
def Dev.setGrpCause (d : Dev) (g v : Nat) : Dev := d.setFld (rBrvGrp g) 295 288 v

/-- Entry r of the member table of group g: peer index and bits [31:16]. -/
def Dev.member (d : Dev) (g r : Nat) : Nat × Nat :=
  let v := leNat (d.rim.read (d.grpTab g + 4 * r) 4)
  (v % 2 ^ 16, v / 2 ^ 16)

/-- Member r is reached through a port: it is no context of the partition itself. -/
def Dev.remote (d : Dev) (g r : Nat) : Bool := (d.member g r).1 != 0xFFFF

/-- LINK of a port. -/
def Dev.linkUp (d : Dev) (n : Nat) : Bool := d.flag (rPortStatus n) 31

/-- The ports of a set that are up, in increasing number. -/
def Dev.upPorts (d : Dev) (set : Nat) : List Nat := (List.range 48).filter fun n => bit set n && d.linkUp n

/-- The enabled group of partition p with a wire identifier. -/
def Dev.groupOf (d : Dev) (p gid : Nat) : Option Nat :=
  ((List.range 256).map fun k => p * 256 + k).find? fun g => d.grpOn g && d.reg (rBrvGid g) == gid

/-- The key of a slot that is bound to partition p and a purpose (R198, R243); a slot being erased serves only a use that
has `begun` (R244). -/
def Dev.slotFor (d : Dev) (slot p purpose : Nat) (begun : Bool := false) : Option (BitVec 256) :=
  let v := d.reg (rCusSlot slot)
  if slot < 4096 ∧ bit v 63 ∧ (begun || !bit v 62) ∧ !bit v 61 ∧ bits v 60 57 = p ∧ bits v 56 53 = purpose then
    some (alGet 0 d.cus.slotKeys slot) else none

/-- A use of a key slot that has begun runs: a SEAL or UNSEAL, or a Barrov op in its data phase (R244). -/
def Dev.slotUsed (d : Dev) (slot : Nat) : Bool :=
  (d.cus.seals.any fun s => s.slot == slot) || d.brv.jobs.any fun j => j.data && d.grpKey j.g == slot

/-- A key slot is zeroised and freed. -/
def Dev.freeSlot (d : Dev) (slot : Nat) : Dev :=
  { d.setReg (rCusSlot slot) 0 with cus := { d.cus with slotKeys := alDrop d.cus.slotKeys slot } }

/-- The slots being erased whose uses have ended are zeroised and freed, and their KEY_ERASE commands complete (R244). -/
def Dev.sweepErasing (d : Dev) : Dev :=
  forL (d.cus.erasing.filter fun e => !d.slotUsed e.1) (fun e (d : Dev) =>
    let d := { d with cus := { d.cus with erasing := d.cus.erasing.erase e } }
    (d.freeSlot e.1).finishSeq e.2 none 0 0) d

/-! ## Ports -/

/-- Counter k of a port counts. -/
def Dev.portCount (d : Dev) (n k : Nat) (c : Nat := 1) : Dev := d.bump64 (rPortCnt n k) c

/-- The partition of a port's records: its owner, or the device. -/
def Dev.portPart (d : Dev) (n : Nat) : Option Nat :=
  if d.flag (rPortCfg n) 21 then some (d.fld (rPortCfg n) 25 22) else none

/-- A corrected record of a port event: Table 10-9's row, counted from 1. -/
def Dev.portRec (d : Dev) (n cause value : Nat) : Dev :=
  d.record { part := d.portPart n, cls := clsCorrected, cause, block := 8, unit := n, det := detail 0 0 0 0 value }

/-- An error event of a port: one corrected record per second while its count rises (Table 10-9). -/
def Dev.portErr (d : Dev) (n kind : Nat) : Dev :=
  let x := d.port n
  let t := x.errAt.get kind
  if t ≠ 0 ∧ d.now < t - 1 + 1000000000 then d
  else (d.setPort n { x with errAt := x.errAt.set kind (d.now + 1) }).portRec n 0x26 kind

/-- The odd neighbour of an even port in mode 3 is absorbed (R187). -/
def Dev.ganged (d : Dev) (n : Nat) : Bool := n % 2 == 1 && d.fld (rPortCfg (n - 1)) 30 28 == 3

/-! ## Sending (R189 to R196) -/

/-- The kinds of frame beside the Barrov TYPEs (log 88): CNP; acknowledgement, NAKs, READ response and READ request of RoCE;
PFC; the peer-delay answers of IEEE 1588. -/
abbrev ftCnp : Nat := 0x81
abbrev ftRoceAck : Nat := 0x82
abbrev ftRoceNak : Nat := 0x83
abbrev ftRnrNak : Nat := 0x84
abbrev ftReadResp : Nat := 0x85
abbrev ftReadReq : Nat := 0x86
abbrev ftPfc : Nat := 0x88
abbrev ftPdelayResp : Nat := 0x89
abbrev ftPdelayFollowUp : Nat := 0x8A

/-- The priority of a frame: PRIO_BRV for Barrov frames, PRIO_ROCE for RoCE traffic (R191). -/
def Dev.framePrio (d : Dev) (ftype : Nat) : Option Nat :=
  if ftype ≤ 8 then some (d.fld rBrvCfg 19 16) else if ftype ≤ ftReadReq then some (d.fld rBrvCfg 23 20) else none

/-- The packet number of port n moves on: at 2^64 − 2^32 MKA is asked to rekey, at 2^64 − 1 the association is exhausted
(R190). -/
def Dev.nextPn (d : Dev) (n : Nat) : Dev :=
  let x := d.port n
  let pn := x.txPn + 1
  let d := d.setPort n { x with txPn := pn, exhausted := pn == 2 ^ 64 - 1 }
  if pn = 2 ^ 64 - 2 ^ 32 then d.portRec n 0x27 x.assoc else d

/-- Puts a frame out with its timestamp, protected where the port protects, and counts it on its port; its MAC bytes are
not stated but for one example (log 5). -/
def Dev.putFrame (d : Dev) (f : SentFrame) : Dev :=
  let n := f.port
  let x := d.port n
  let guard := d.flag (rPortCfg n) 20 && f.ftype != ftPfc
  let f := { f with stamp := d.now, sec := if guard then some (x.assoc, x.txPn) else none }
  let d := if guard then d.nextPn n else d
  let d := { d with brv := { d.brv with sent := d.brv.sent ++ [f] } }
  let d := (d.countPort n 3 noSub 1).addBytes n 0 (Config.frameBytes f.ftype f.payload.length)
  let d := if f.ftype = 1 then d.countPort n 4 noSub 1 else d
  let d := if f.ftype = ftCnp then d.countPort n 8 noSub 1 else d
  if f.ftype = ftPfc then d.countPort n 7 (fun m => bit m f.stripe) 1 else d

/-- Whether a port honours a pause of priority k (R191, R192). -/
def Dev.paused (d : Dev) (n k : Nat) : Bool :=
  let x := d.port n
  d.flag (rPortPfc n) (24 + k) && x.pauseRx.contains k && !x.ignoring.contains k

/-- Whether a protecting port has no association to send under (R189, R190). -/
def Dev.unkeyed (d : Dev) (n : Nat) : Bool :=
  d.flag (rPortCfg n) 20 && (!d.flag (rPortStatus n) 28 || (d.port n).exhausted)

/-- Sends a frame on its port. It waits behind a pause, and where the port has no association to send under; in the interval of
a PFC watchdog it is discarded and counted (R189 to R192). Number 48 is no port. -/
def Dev.send (d : Dev) (f : SentFrame) : Dev :=
  let n := f.port
  let x := d.port n
  if 48 ≤ n then d
  else if f.ftype = ftPfc then d.putFrame f
  else match d.framePrio f.ftype with
    | some k =>
      if x.ignoring.contains k then d.portCount n 5
      else if d.paused n k || d.unkeyed n then d.setPort n { x with queued := x.queued ++ [f] } else d.putFrame f
    | none => if d.unkeyed n then d.setPort n { x with queued := x.queued ++ [f] } else d.putFrame f

/-- The frames that port n holds back go out where they now may. -/
def Dev.release (d : Dev) (n : Nat) : Dev :=
  let x := d.port n
  forL x.queued (fun f d => d.send f) (d.setPort n { x with queued := [] })

/-- The packet of a Barrov frame of p to a peer entry, with its UDP source port. -/
def Dev.netTo (d : Dev) (p peer gid stripe : Nat) : NetHdr :=
  let own := rBrvPartAddr p
  let far := rBrvPeer peer
  { v6 := d.flag far 254, sip := d.fld own 127 0, dip := d.fld far 127 0, smac := d.fld own 223 176, dmac := d.fld far 223 176,
    vid := d.fld far 235 224, dscp := d.fld own 249 244, sport := 0xC000 + (gid * 8 + stripe) % 0x4000, dport := d.fld rBrvCfg 15 0 }

/-- The header of a Barrov frame as it stands on the wire (Table 10-2). -/
def SentFrame.header (f : SentFrame) : List Byte :=
  beBytes 1 1 ++ beBytes 1 f.ftype ++ beBytes 1 f.op ++ beBytes 1 f.flags ++ beBytes 4 f.gid ++ beBytes 2 f.src ++
    beBytes 2 f.peer ++ beBytes 4 f.epoch ++ beBytes 4 f.seq ++ beBytes 1 f.stripe ++ beBytes 1 f.dtype ++
    beBytes 2 (if f.ftype = 7 then f.want else f.payload.length) ++ beBytes 8 f.off

/-- A DATA or FAR_RSP frame sealed under a key: SEALED is set, and a resent frame has the same nonce (R198). -/
def SentFrame.seal (f : SentFrame) (key : BitVec 256) : SentFrame :=
  let f := { f with flags := Nat.lor f.flags 1 }
  let nonce := BitVec.ofNat 96 (f.epoch * 2 ^ 64 + f.src * 2 ^ 48 + f.peer * 2 ^ 32 + f.stripe * 2 ^ 24 + f.seq % 2 ^ 24)
  let c := Config.gcmEnc key nonce f.header f.payload
  { f with payload := c.1, gcmTag := c.2 }

/-! ## Far-tier reads of a peer's rim (R179, R181, R209) -/

/-- The first port of p that is up. -/
def Dev.portFor (d : Dev) (p : Nat) : Nat := (d.upPorts (d.reg (rPrtPorts p))).headD 48

/-- The pieces of at most 4,096 bytes of a range. -/
def farCuts (a len : Nat) : List (Nat × Nat) :=
  (List.range ((len + 4095) / 4096)).map fun k => (a + 4096 * k, min 4096 (len - 4096 * k))

/-- Asks the peer behind a window of kind 1 for a range that request `id` of p reads, 4,096 bytes at a time; OFF is the
address at the peer, SRC the entry that names it here (log 106). -/
def Dev.askPeer (d : Dev) (p id a len : Nat) : Dev :=
  let t := d.winTarget p a
  if !isFar a || t.1 != 1 then d else
  let peer := t.2 / 2 ^ 48 % 2 ^ 14
  forL (farCuts (t.2 % 2 ^ 48) len) (fun c d =>
    d.send { port := d.portFor p, ftype := 7, g := 0, epoch := id % 2 ^ 32, peer, stripe := 0, seq := 0, flags := 0, payload := [],
             op := 7, off := c.1, want := c.2, net := some (d.netTo p peer 0 0) }) d

end Sys2Proof.Machine
end

