-- ==== Sys2Proof/Machine/Transfer.lean ====
section
/-! DEFINITION. Requests on tags: launches, their pieces, the DMA ports, completion, and the transfer slot
(03_scangathen_operations.md, R77 to R79, R386; R16 to R20, R49, R170, R174, R176). -/

namespace Sys2Proof.Machine

/-! ## Launches -/

/-- A request-ended record about an address, for a tag of an issue. -/
def reqRec (d : Dev) (i : Issue) (tag cause addr value : Nat) : ErrRec :=
  let b := d.addrBlock i.p addr
  { part := some i.p, cls := clsRequest, cause, block := b.1, unit := b.2, det := detail addr i.bidx i.n tag value }

/-- Marks a tag: a request on it ended in error (R79). -/
def Ctx.markErr (c : Ctx) (tag : Nat) : Ctx := { c with tagErr := if c.tagErr.contains tag then c.tagErr else tag :: c.tagErr }

/-- A launch ends at once with a request-ended record. -/
def reqEnd (i : Issue) (tag cause addr : Nat) (w : Work) : Work :=
  let r := reqRec w.1 i tag cause addr 0
  ((w.1.countCtx i.h i.n 0xA noSub 1).modCtx i.h i.n fun c => c.markErr tag, w.2.err r)

/-- A range that a request reaches: first address, length, whether it is written. -/
structure Range where
  a : Nat
  len : Nat
  wr : Bool
deriving DecidableEq, Repr

/-- The first address at which a range is refused: one outside what the partition may reach (R16, R170, R380), or a
written far-tier address (R180). -/
def Dev.refuse1 (d : Dev) (p : Nat) (r : Range) : Option Nat :=
  let bad := d.firstBad p r.a r.len
  if r.wr && decide (winBase < r.a + r.len) then some (min (bad.getD (2 ^ 48)) (max r.a winBase)) else bad

/-- The first address at which a request is refused. -/
def Dev.refuse (d : Dev) (p : Nat) (rs : List Range) : Option Nat := rs.findSome? fun r => d.refuse1 p r

/-- Requests outstanding on a tag. -/
def Ctx.onTag (c : Ctx) (tag : Nat) : List Request := c.requests.filter fun r => r.tag == tag

/-- Launches a request (R78): the tag limit, the permitted ranges, then the request stands on its tag; a copy that writes
nothing is complete at once (R386). -/
def launch (i : Issue) (tag : Nat) (kind : ReqKind) (rs : List Range) (pieces : List Piece) (allocate : Bool) (w : Work)
    (list : Option Nat := none) : Work :=
  if 4095 ≤ ((w.1.ctx i.h i.n).onTag tag).length then (w.1, w.2.err (i.seqErr 0x45 tag tag))
  else match w.1.refuse i.p rs with
    | some a => reqEnd i tag 0x6 a w
    | none =>
      let cut := decide (kind = .copy)
      if cut && pieces.isEmpty then w else
      let r : Request := { id := w.1.nextReq, tag, kind, pieces, cut, allocate, failed := false, bidx := i.bidx, list }
      w.dev fun d =>
        let d := ({ d with nextReq := d.nextReq + 1 } : Dev).modCtx i.h i.n fun c => { c with requests := c.requests ++ [r] }
        forL (rs.filter fun x => !x.wr) (fun x d => d.askPeer i.p r.id x.a x.len) d

/-- A piece of which nothing has been read. -/
def Piece.of (src : Nat) (dsts : List Nat) (len : Nat) : Piece := { src, dsts, len, rd := 0, got := [], span := false }

/-- A copy cut at the granules of its destination, so that each lands whole (R78, R173); `n` bounds the pieces. -/
def cutPieces : Nat → Nat → List Nat → Nat → List Piece
  | 0, _, _, _ => []
  | n + 1, src, dsts, len =>
    if len = 0 then [] else
    let k := min len (64 - dsts.headD 0 % 64)
    Piece.of src dsts k :: cutPieces n (src + k) (dsts.map fun a => a + k) (len - k)

/-- The pieces of a copy of `len` bytes to each of `dsts`: one for each granule where a facet's ports move them, else one
(log 92). -/
def piecesOf (src : Nat) (dsts : List Nat) (len : Nat) : List Piece :=
  if dsts.isEmpty || len == 0 then []
  else if isLs src || dsts.any isLs then cutPieces (len / 64 + 2) src dsts len
  else [Piece.of src dsts len]

/-- XLD of one facet (R77): each enabled facet makes a request of its own, which counts towards the limit of the tag
(DESIGN CHOICE, log 93). -/
def xldOn (i : Issue) (o : XldOp) (f : Nat) (w : Work) : Work :=
  let n := if o.len = 0 then 65536 else o.len.toNat
  let src := w.1.areg f o.ga.toNat
  let dst := lsView f + w.1.laAddr f o.la
  let w := if o.gpi then incAreg f o.ga.toNat n w else w
  launch i o.tag.toNat .copy [{ a := src, len := n, wr := false }, { a := dst, len := n, wr := true }]
    (piecesOf src [dst] n) o.alloc (laAdvance o.la f n w)

/-- XST of one facet (R77, R180). -/
def xstOn (i : Issue) (o : XldOp) (f : Nat) (w : Work) : Work :=
  let n := if o.len = 0 then 65536 else o.len.toNat
  let dst := w.1.areg f o.ga.toNat
  let src := lsView f + w.1.laAddr f o.la
  let w := if o.gpi then incAreg f o.ga.toNat n w else w
  launch i o.tag.toNat .copy [{ a := src, len := n, wr := false }, { a := dst, len := n, wr := true }]
    (piecesOf src [dst] n) false (laAdvance o.la f n w)

/-- PFS (R176). -/
def pfsOp (i : Issue) (o : PfsOp) (w : Work) : Work :=
  let src := w.1.gaAddr i.h i.n o.src
  let n := o.len.toNat
  launch i o.tag.toNat (.prefetch src n) [{ a := src, len := n, wr := false }] [] true (gaAdvance o.src o.spi n w)

/-- SDROP (R176). -/
def sdropOp (i : Issue) (o : PfsOp) (w : Work) : Work :=
  w.dev fun d => d.dropRange i.p (d.gaAddr i.h i.n o.src) o.len.toNat

/-- The facets that bsect and bfmask name (R386). -/
def namedFacets (h bsect bfmask : Nat) : List Nat :=
  (List.range 8).flatMap fun s => (List.range 16).filterMap fun j =>
    if bit bsect s && bit bfmask j then some (facetOf h s j) else none

/-- XFER (R386). -/
def xferOp (i : Issue) (o : XferOp) (w : Work) : Work :=
  let n := o.len.toNat
  let src := w.1.gaAddr i.h i.n o.src
  let dst := w.1.gaAddr i.h i.n o.dst
  let w := gaAdvance o.dst o.dpi n (gaAdvance o.src o.spi n w)
  let dsts := if o.bsect = 0 then [dst]
    else (namedFacets i.h o.bsect.toNat o.bfmask.toNat).map fun f => lsView f + dst % 2 ^ 21
  launch i o.tag.toNat .copy ({ a := src, len := n, wr := false } :: dsts.map fun a => { a, len := n, wr := true })
    (piecesOf src dsts n) false w

/-- The first address of an index list that cannot be read for an uncorrectable granule. -/
def Dev.ueIn (d : Dev) (p a len : Nat) : Option Nat :=
  if d.mem.errs.isEmpty || len == 0 then none
  else ((List.range ((a + len - 1) / 64 - a / 64 + 1)).map fun k => (a / 64 + k) * 64).find? fun g =>
    decide (g < rimTop) && (d.isUe g).isSome && !d.staged p g

/-- An uncorrectable granule at a launch ends the request (R174). -/
def reqUe (i : Issue) (tag a : Nat) (w : Work) : Work :=
  let x := (w.1.isUe a).getD false
  ((((w.1.ueCount a 0 x).countCtx i.h i.n 0xA noSub 1).modCtx i.h i.n fun c => c.markErr tag), w.2.err (ueRec (some i.p) a 0 i.bidx i.n tag x))

/-- GATHER and SCATTER: the index list is read whole at the launch, which R78 allows as any other moment after it (DESIGN
CHOICE, log 93); `rowsOf` gives the source and destination of each row from its number and index. -/
def indexedOp (i : Issue) (o : GatherOp) (rowsOf : Nat → Nat → Nat → Nat → Option (Nat × Nat)) (w : Work) : Work :=
  let n := o.len.toNat
  let rsz := o.rsz.toNat
  let rows := if rsz = 0 then 0 else n / rsz
  let src := w.1.gaAddr i.h i.n o.src
  let dst := w.1.gaAddr i.h i.n o.dst
  let idx := w.1.tbase i.h i.n o.ib.toNat
  let w := gaAdvance o.dst o.dpi n (gaAdvance o.src o.spi n w)
  match w.1.firstBad i.p idx (4 * rows) with
  | some a => reqEnd i o.tag.toNat 0x6 a w
  | none =>
    match w.1.ueIn i.p idx (4 * rows) with
    | some a => reqUe i o.tag.toNat a w
    | none =>
      let pairs := (List.range rows).filterMap fun r => rowsOf src dst r (leNat (w.1.gread i.p (idx + 4 * r) 4))
      launch i o.tag.toNat .copy
        ((if isFar idx then [{ a := idx, len := 4 * rows, wr := false }] else []) ++
          pairs.flatMap fun x => [{ a := x.1, len := rsz, wr := false }, { a := x.2, len := rsz, wr := true }])
        (pairs.flatMap fun x => piecesOf x.1 [x.2] rsz) false w (if isFar idx then some idx else none)

/-- GATHER: row i from src + idx[i] × rsz to dst + i × rsz. -/
def gatherOp (i : Issue) (o : GatherOp) (w : Work) : Work :=
  indexedOp i o (fun src dst r x => some (src + x * o.rsz.toNat, dst + r * o.rsz.toNat)) w

/-- SCATTER: row i from src + i × rsz to dst + idx[i] × rsz; 0xFFFF_FFFF is passed over. -/
def scatterOp (i : Issue) (o : GatherOp) (w : Work) : Work :=
  indexedOp i o (fun src dst r x =>
    if x = 0xFFFFFFFF then none else some (src + r * o.rsz.toNat, dst + x * o.rsz.toNat)) w

/-- TBSET. -/
def tbsetOp (_ : Issue) (o : TbsetOp) (w : Work) : Work :=
  (w.1, { w.2 with tbSets := w.2.tbSets ++ [(o.r.toNat, o.value.toNat)] })

/-! ## Program stream-in (R49) -/

/-- The instruction-store range of context n of hemisphere h: first index and first beyond it (R48). -/
def Dev.isRange (d : Dev) (h n : Nat) : Nat × Nat :=
  let own := (List.range 8).filter fun b => d.fld (rSeqIsbank h) (4 * b + 3) (4 * b) == n
  match own with
  | [] => (0, 0)
  | b :: _ => (b * 1024, (b + own.length) * 1024)

/-- Key of an instruction-store entry. -/
def isKey (h k : Nat) : Nat := h * 8192 + k

/-- Whether an index lies in a loop's body. -/
def LoopEntry.covers (e : LoopEntry) (k : Nat) : Bool :=
  if e.first ≤ e.last then decide (e.first ≤ k ∧ k ≤ e.last) else decide (e.first ≤ k ∨ k ≤ e.last)

/-- STREAM (R49): the fill bits of its target are cleared in its issue cycle, and stay clear where it ends in error. -/
def streamOp (i : Issue) (o : StreamOp) (w : Work) : Work :=
  let src := w.1.gaAddr i.h i.n o.src
  let t := o.tidx.toNat
  let n := o.count.toNat
  let rg := w.1.isRange i.h i.n
  let loops := (w.1.ctx i.h i.n).loops
  if t < rg.1 || decide (rg.2 < t + n) || (decide (t ≤ i.bidx ∧ i.bidx < t + n)) ||
      (loops.any fun e => (List.range n).any fun k => e.covers (t + k)) then
    (w.1, w.2.err (i.seqErr 0x4A 0 0))
  else
    let w := w.dev fun d => { d with fill := alClear d.fill (isKey i.h t) (isKey i.h (t + n)) }
    match w.1.firstBad i.p src (512 * n) with
    | some a => (w.1, w.2.err (reqRec w.1 i 0 0x6 a 0))
    | none =>
      w.dev fun d =>
        d.modCtx i.h i.n fun c =>
          if n = 0 then c else { c with streams := c.streams ++ [{ src, next := t, left := n }] }

/-! ## Moving pieces -/

/-- A request with the hemisphere and context it belongs to. -/
structure Owned where
  h : Nat
  n : Nat
  r : Request
deriving DecidableEq, Repr

/-- Every outstanding request. -/
def Dev.allRequests (d : Dev) : List Owned :=
  d.ctxs.flatMap fun e => e.2.requests.map fun r => { h := e.1 / 8, n := e.1 % 8, r }

/-- Replaces a request. -/
def Dev.setRequest (d : Dev) (h n : Nat) (r : Request) : Dev :=
  d.modCtx h n fun c => { c with requests := c.requests.map fun x => if x.id = r.id then r else x }

/-- Takes a request off its tag. -/
def Dev.dropRequest (d : Dev) (h n id : Nat) : Dev :=
  d.modCtx h n fun c => { c with requests := c.requests.filter fun x => x.id != id }

/-- A request has met an uncorrectable granule: it ends with a record, once, and its other granules still land
(R174). -/
def Dev.meetUe (d : Dev) (h n : Nat) (r : Request) (a : Nat) (addr : Bool) : Dev :=
  let now := (d.ctx h n).requests.find? fun q => q.id == r.id
  if (match now with | some q => q.failed | none => true) then d else
  let d := (d.countCtx h n 0xA noSub 1).modCtx h n fun c =>
    { c.markErr r.tag with requests := c.requests.map fun q => if q.id = r.id then { q with failed := true } else q }
  d.record (ueRec (some (d.ctx h n).part) a 0 r.bidx n r.tag addr)

/-- Reads granules of rim memory for a request, correcting what can be corrected: the device, and those that are not
delivered. -/
def Dev.readGranules (d : Dev) (h n : Nat) (r : Request) (gs : List Nat) : Dev × List Nat :=
  forL gs (fun g (x : Dev × List Nat) =>
    let y := x.1.readGranule g 0 []
    match y.2 with
    | none => (y.1, x.2)
    | some ad => (y.1.meetUe h n r g ad, x.2 ++ [g])) (d, [])

/-- Brings the lines of a rim range into p's ways, but for those with a granule that cannot be read. -/
def Dev.stageGood (d : Dev) (p a len : Nat) : Dev :=
  forL (linesOf a len) (fun x d => if (rimGranules x 256).any fun g => (d.isUe g).isSome then d else d.stage p x) d

/-- Reads a piece whose source is rim or far memory, unless it has been read: from p's staging lines where they hold it,
which a read may allocate, else from rim memory (R77, R172, R174). -/
def Dev.fetchPiece (d : Dev) (h n : Nat) (r : Request) (q : Piece) : Dev × Piece :=
  if q.rd == q.len || isLs q.src then (d, q) else
  let p := (d.ctx h n).part
  let d := match q.dsts.find? isLs with
    | none => d
    | some b =>
      if rimTop ≤ q.src then d else
      let d := forL (linesOf q.src q.len) (fun a (d : Dev) =>
        d.countSector (sectorOf (lsFacet b)) (if d.staged p a then 4 else 5) noSub 1) d
      d.countSector (sectorOf (lsFacet b)) 6 noSub q.len
  let x := d.readGranules h n r ((rimGranules q.src q.len).filter fun g => !d.staged p g)
  let bs := (placeBytes q.rd (x.1.gread p (q.src + q.rd) (q.len - q.rd))).filter fun e => !x.2.contains ((q.src + e.1) / 64 * 64)
  let d := if isFar q.src then { x.1 with fresh := x.1.fresh + 1 } else x.1
  let d := if rimTop ≤ q.src then d
    else if r.allocate then d.stageGood p q.src q.len
    else forL (linesOf q.src q.len) (fun a d => if d.staged p a then d.stage p a else d) d
  (d, { q with rd := q.len, got := q.got ++ bs })

/-- A piece that has been read lands at one of its destinations. A granule of rim memory that it covers in part is read
and merged; where that read fails the write is not made and the request ends (R173, R174). -/
def Dev.landBytes (d : Dev) (h n : Nat) (r : Request) (q : Piece) (dst : Nat) : Dev :=
  let gs := rimGranules dst q.len
  let part (g : Nat) : Bool := decide (g < dst) || decide (dst + q.len < g + 64)
  let x := d.readGranules h n r (gs.filter fun g => part g && !(d.errsAt g).isEmpty)
  let d := if isLs dst then x.1.countFacet (lsFacet dst) 9 (fun s => bit s 0) 1 else x.1
  d.gput ((q.got.map fun e => (dst + e.1, e.2)).filter fun e => !x.2.contains (e.1 / 64 * 64))

/-- Replaces a piece of a request, or takes it off. -/
def Dev.swapPiece (d : Dev) (h n id : Nat) (q : Piece) (new : Option Piece) : Dev :=
  d.modCtx h n fun c => { c with requests := c.requests.map fun r =>
    if r.id = id then { r with pieces := r.pieces.flatMap fun y => if y = q then new.toList else [y] } else r }

/-- A request whose last write has landed is complete (R78). -/
def Dev.retire (d : Dev) (h n id : Nat) : Dev :=
  d.modCtx h n fun c => { c with requests := c.requests.filter fun r => !(r.id == id && r.cut && r.pieces.isEmpty) }

/-- Moves a piece to those of its destinations that `sel` names. -/
def Dev.landPiece (d : Dev) (h n : Nat) (r : Request) (q : Piece) (sel : Nat → Bool) : Dev :=
  if !q.dsts.any sel then d else
  let x := d.fetchPiece h n r q
  let d := forL (q.dsts.filter sel) (fun a d => d.landBytes h n r x.2 a) x.1
  let left := q.dsts.filter fun a => !sel a
  (d.swapPiece h n r.id q (if left.isEmpty then none else some { x.2 with dsts := left })).retire h n r.id

/-! ## The span link (R24 to R28) -/

/-- The entries under way to hemisphere h. -/
def Dev.spanTo (d : Dev) (h : Nat) : List SpanEntry := alGet [] d.spanQ h

/-- Replaces them. -/
def Dev.setSpanTo (d : Dev) (h : Nat) (l : List SpanEntry) : Dev := { d with spanQ := alSet [] d.spanQ h l }

/-- Entries of a span queue. -/
abbrev spanDepth : Nat := 128

/-- Bytes that a hemisphere, and one sector of it, send in a cycle. -/
abbrev spanBytes : Nat := 6656
abbrev spanSectorBytes : Nat := 832

/-- A send of hemisphere h takes an entry: none is taken yet in its current cycle, and the queue is full. -/
def Dev.spanNoEntry (d : Dev) (h : Nat) : Bool :=
  !(d.hemi h).entry && decide (spanDepth ≤ (d.spanTo (1 - h)).length)

/-- Whether `k` more bytes of sector slot s of hemisphere h fit into its current sending cycle. -/
def Dev.spanFits (d : Dev) (h s k : Nat) : Bool :=
  let x := (d.hemi h).sent
  decide (x.foldl (fun m e => m + e.2) 0 + k ≤ spanBytes) && decide (x.get s + k ≤ spanSectorBytes)

/-- Adds to the entry of the current sending cycle of hemisphere h. -/
def Dev.spanPut (d : Dev) (h : Nat) (f : SpanEntry → SpanEntry) : Dev :=
  let x := d.hemi h
  let l := d.spanTo (1 - h)
  let new : SpanEntry := { tokens := [], data := [] }
  (d.setSpanTo (1 - h) (if x.entry then l.dropLast ++ [f (l.getLastD new)] else l ++ [f new])).setHemi h
    { x with entry := true }

/-- A context sends a token to its partition's context on the other hemisphere. -/
def Dev.sendToken (d : Dev) (c : CtxId) (tsid : Nat) : Dev :=
  let x := d.ctx c.h.val c.n.val
  let h := 1 - c.h.val
  let sent := match d.ctxNum x.part h with | some n => (d.ctx h n).tclk | none => 0
  d.spanPut c.h.val fun e => { e with tokens := e.tokens ++ [{ src := c, part := x.part, tsid, bidx := x.bidx, sent }] }

/-- Hemisphere of a rim or local-store address. -/
def hemiOf (a : Nat) : Nat := if isLs a then lsFacet a / 128 else rimHemi a

/-- Whether a piece leaves its facet's hemisphere: its bytes travel over the span link (log 94). -/
def Piece.crosses (q : Piece) : Bool := isLs q.src && q.dsts.any fun a => hemiOf a != lsFacet q.src / 128

/-- A piece that has been read is sent over the span link. -/
def Dev.sendPiece (d : Dev) (h n : Nat) (r : Request) (q : Piece) : Dev :=
  let f := lsFacet q.src
  let g := f / 128
  let x := d.hemi g
  let d := (d.setHemi g { x with sent := x.sent.add (f / 16 % 8) q.len }).countSector (sectorOf f) 7 noSub q.len
  (d.spanPut g fun e => { e with data := e.data ++ [(r.id, q.src)] }).swapPiece h n r.id q (some { q with span := true })

/-- Every outstanding request with number `id`. -/
def Dev.requestsOf (d : Dev) (id : Nat) : List Owned := d.allRequests.filter fun x => x.r.id == id

/-- A token arrives at hemisphere h: it is held, or overflows its identifier (R26, R28). -/
def Dev.holdToken (d : Dev) (h : Nat) (e : SpanToken) : Dev :=
  match d.ctxNum e.part h with
  | none => d
  | some n =>
    let x := d.ctx h n
    if x.part ≠ e.part then d
    else if 15 ≤ x.tokens.get e.tsid then
      d.record { part := some e.part, cls := clsPartition, cause := 0x48, block := 10,
                 unit := seqUnit e.src.h.val e.src.n.val none, det := detail 0 e.bidx e.src.n.val 0 e.tsid }
    else d.setCtx h n { x with tokens := x.tokens.set e.tsid (x.tokens.get e.tsid + 1) }

/-- A piece has crossed: it stands before its facet's inbound port, or is written to rim memory. -/
def Dev.pieceArrive (d : Dev) (e : Nat × Nat) : Dev :=
  forL (d.requestsOf e.1) (fun x d =>
    forL (x.r.pieces.filter fun q => q.span && q.src == e.2) (fun q d =>
      let q' := { q with span := false }
      (d.swapPiece x.h x.n x.r.id q (some q')).landPiece x.h x.n x.r q' fun a => !isLs a) d) d

/-- The oldest entry under way to hemisphere h arrives, its data before its tokens, and frees its place. -/
def Dev.entryArrive (d : Dev) (h : Nat) : Dev :=
  match d.spanTo h with
  | [] => d
  | e :: es =>
    let d := (d.setSpanTo h es).setHemi (1 - h) { d.hemi (1 - h) with full := false }
    forL e.tokens (fun t d => d.holdToken h t) (forL e.data (fun t d => d.pieceArrive t) d)

/-- The data that has crossed to hemisphere h for partition p lands, for the fence that passes (R27, log 94). -/
def Dev.landCrossed (d : Dev) (p h : Nat) : Dev :=
  forL (d.allRequests.filter fun x => (d.ctx x.h x.n).part == p) (fun x d =>
    forL (x.r.pieces.filter fun q => q.crosses && q.rd == q.len && !q.span) (fun q d =>
      d.landPiece x.h x.n x.r q fun a => hemiOf a == h) d) d

/-! ## Staging rings (R225): what a claimed take copies -/

def Dev.ringNent (d : Dev) (p r : Nat) : Nat := d.fld (rIngRingBase p r) 63 48
def Dev.ringBase (d : Dev) (p r : Nat) : Nat := d.fld (rIngRingBase p r) 47 12 * 4096
def Dev.ringEsz (d : Dev) (p r : Nat) : Nat := d.reg (rIngRingEsz p r)
def Dev.ringWritten (d : Dev) (p r : Nat) : Nat := d.fld (rIngRingPtr p r) 95 64
def Dev.ringTaken (d : Dev) (p r : Nat) : Nat := d.fld (rIngRingPtr p r) 63 32
def Dev.ringReleased (d : Dev) (p r : Nat) : Nat := d.fld (rIngRingPtr p r) 31 0

/-- Address of entry i of a ring. -/
def Dev.ringEntry (d : Dev) (p r i : Nat) : Nat := d.ringBase p r + i % d.ringNent p r * d.ringEsz p r

/-- Difference of free-running 32-bit counts. -/
def diff32 (a b : Nat) : Nat := (a + 2 ^ 32 - b % 2 ^ 32) % 2 ^ 32

/-- Whether every entry a take claims has been written. -/
def Dev.takeReady (d : Dev) (p ring nrow first : Nat) : Bool :=
  let w := diff32 (d.ringWritten p ring) first
  decide (nrow ≤ w ∧ w ≤ 2 ^ 31)

/-- The pieces of a take. -/
def Dev.takePieces (d : Dev) (p ring dst nrow first : Nat) : List Piece :=
  (List.range nrow).flatMap fun k => piecesOf (d.ringEntry p ring (first + k)) [dst + k * d.ringEsz p ring] (d.ringEsz p ring)

/-- Whether a range of rim memory touches a pseudo-channel under repair, whose requests are held (R184). -/
def Dev.chanHeld (d : Dev) (a len : Nat) : Bool :=
  !d.mem.repairing.isEmpty && (rimGranules a len).any fun g =>
    let x := rimMap g
    d.mem.repairing.any fun r => r.1 == chanKey x.stack x.pc

/-- An access waits for the end of a repair, behind those that came before it (R184). -/
def Dev.hold (d : Dev) (x : HeldAccess) : Dev := { d with mem := { d.mem with held := d.mem.held ++ [x] } }

/-- Whether a piece is held so. -/
def Dev.pieceHeld (d : Dev) (q : Piece) : Bool := d.chanHeld q.src q.len || q.dsts.any fun a => d.chanHeld a q.len

/-- The takes whose entries have been written have their pieces formed (R225). -/
def Dev.cutTakes (d : Dev) : Dev :=
  forL d.allRequests (fun x d =>
    match x.r.kind with
    | .take ring dst nrow (some first) =>
      let p := (d.ctx x.h x.n).part
      if x.r.cut || !d.takeReady p ring nrow first then d
      else (d.setRequest x.h x.n { x.r with pieces := d.takePieces p ring dst nrow first, cut := true }).retire x.h x.n x.r.id
    | _ => d) d

/-! ## The DMA ports of a facet (R18, R19) -/

/-- An access of a port: its request and piece, the global address of local store it reaches, its bytes, and whether it can
be attempted: its data is there, its channel is not held (R184), and the span takes it. -/
structure Access where
  x : Owned
  q : Piece
  a : Nat
  n : Nat
  ready : Bool
deriving DecidableEq, Repr

/-- Insertion of a request in launch order. -/
def insertOwned (x : Owned) : List Owned → List Owned
  | [] => [x]
  | y :: ys => if x.r.id < y.r.id then x :: y :: ys else y :: insertOwned x ys

/-- The accesses that a piece makes through a port of facet f: inbound one for each destination there, outbound one for
each granule of its source that is still to be read. -/
def Dev.pieceAccesses (d : Dev) (f : Nat) (inbound : Bool) (x : Owned) (q : Piece) : List Access :=
  let free := !d.pieceHeld q
  if inbound then
    (q.dsts.filter fun a => isLs a && lsFacet a == f).map fun a =>
      { x, q, a, n := q.len, ready := free && (!isLs q.src || (q.rd == q.len && !q.span)) }
  else if isLs q.src && lsFacet q.src == f then
    (granules (q.src + q.rd) (q.len - q.rd)).map fun g =>
      let lo := max (q.src + q.rd) (64 * g)
      { x, q, a := lo, n := min (q.src + q.len) (64 * g + 64) - lo, ready := free }
  else []

/-- The accesses of facet f in one direction, oldest first. -/
def Dev.portQueue (d : Dev) (f : Nat) (inbound : Bool) : List Access :=
  (d.allRequests.foldl (fun l x => insertOwned x l) []).flatMap fun x =>
    x.r.pieces.flatMap fun q => d.pieceAccesses f inbound x q

/-- Bytes that an access sends over the span: those of its piece, with the access that reads the last of it. -/
def Access.sends (a : Access) : Nat := if a.q.crosses && a.a + a.n == a.q.src + a.q.len then a.q.len else 0

/-- The first two accesses of an outbound queue of facet f, as far as the span takes what they send (R24). -/
def Dev.spanTakes (d : Dev) (f : Nat) (l : List Access) : List Access :=
  let ok (a : Access) (k : Nat) : Bool :=
    a.sends == 0 || (!d.spanNoEntry (f / 128) && d.spanFits (f / 128) (f / 16 % 8) (k + a.sends))
  match l with
  | a :: b :: _ => [{ a with ready := a.ready && ok a 0 }, { b with ready := b.ready && ok b a.sends }]
  | [a] => [{ a with ready := a.ready && ok a 0 }]
  | [] => []

/-- Bank an access reaches in its facet. -/
def Access.bank (a : Access) : Nat := bankOf (lsLocal a.a / 64)

/-- The first two accesses of a direction, of which those that proceed, and how many are retried, given the banks
claimed against it; an access that cannot be attempted holds back those behind it. -/
def portCycle (claimed : Nat) (q : List Access) : List Access × Nat :=
  match q with
  | [] => ([], 0)
  | a :: rest =>
    if !a.ready then ([], 0) else
    let ok := !bit claimed a.bank
    match rest.filter Access.ready with
    | [] => if ok then ([a], 0) else ([], 1)
    | b :: _ =>
      if rest.head? ≠ some b ∨ b.bank = a.bank then (if ok then ([a], 0) else ([], 1))
      else if bit claimed b.bank then (if ok then ([a], 1) else ([], 2))
      else if ok then ([a, b], 0) else ([], 1)

/-- The piece of an access as its request holds it now. -/
def Dev.pieceNow (d : Dev) (a : Access) : Option (Request × Piece) :=
  ((d.ctx a.x.h a.x.n).requests.find? fun r => r.id == a.x.r.id).bind fun r =>
    (r.pieces.find? fun q => q.src == a.q.src && q.dsts == a.q.dsts).map fun q => (r, q)

/-- An outbound access reads its bytes; with the last of its piece, the piece is sent over the span or written to rim
memory. -/
def Dev.readAccess (d : Dev) (a : Access) : Dev :=
  match d.pieceNow a with
  | none => d
  | some (r, q) =>
    let f := lsFacet a.a
    let d := d.countFacet f 9 (fun s => bit s 1) 1
    let bs := (List.range a.n).map fun k => (q.rd + k, d.lsByte f (lsLocal a.a + k))
    let q' := { q with rd := q.rd + a.n, got := q.got ++ bs }
    let d := d.swapPiece a.x.h a.x.n r.id q (some q')
    if q'.rd < q'.len then d
    else if q'.crosses then d.sendPiece a.x.h a.x.n r q'
    else d.landPiece a.x.h a.x.n r q' fun b => !isLs b

/-- An inbound access writes its bytes. -/
def Dev.landAccess (d : Dev) (a : Access) : Dev :=
  match d.pieceNow a with
  | none => d
  | some (r, q) => d.landPiece a.x.h a.x.n r q fun b => b == a.a

/-- A send of facet f's outbound port stands before a full span queue: the hemisphere stalls, with one timing fault for
the context and bundle of the request (R24). -/
def Dev.sendStall (d : Dev) (f : Nat) (q : List Access) : Dev :=
  let h := f / 128
  match q with
  | [] => d
  | a :: _ =>
    if a.sends == 0 || !a.ready || !d.spanNoEntry h || (d.hemi h).full then d
    else (d.setHemi h { d.hemi h with full := true }).tfault a.x.h a.x.n 4 a.x.r.bidx (d.ctx a.x.h a.x.n).icount

/-- One cycle of the DMA ports of facet f against the bundle accesses of that cycle. -/
def Dev.dmaCycle (d : Dev) (f : Nat) : Dev :=
  let d := d.cutTakes.agentActs (f / 128) (8 + f % 128)
  let cl := alGet [] d.claims f
  let claimed := cl.headD 0
  let i := portCycle claimed (d.portQueue f true)
  let taken := i.1.foldl (fun m a => Nat.lor m (2 ^ a.bank)) claimed
  let out := d.portQueue f false
  let o := portCycle taken (d.spanTakes f out)
  let d := { d with claims := alSet [] d.claims f cl.tail }
  let d := if i.2 + o.2 = 0 then d else (d.bump (rFctRetry f) (i.2 + o.2)).countFacet f 0xA noSub (i.2 + o.2)
  let d := d.sendStall f out
  forL i.1 (fun a d => d.landAccess a) (forL o.1 (fun a d => d.readAccess a) d)

/-! ## Completion (R78) -/

/-- Whether a request can come nearer to its completion now. -/
def Dev.canComplete (d : Dev) (x : Owned) : Bool :=
  match x.r.kind with
  | .copy => !(x.r.pieces.any fun q => d.pieceHeld q)
  | .prefetch src len => !d.chanHeld src len
  | .take ring dst nrow (some first) =>
    let p := (d.ctx x.h x.n).part
    (x.r.cut || d.takeReady p ring nrow first) &&
      !((if x.r.cut then x.r.pieces else d.takePieces p ring dst nrow first).any fun q => d.pieceHeld q)
  | .take _ _ _ none => false
  | .barrov _ _ => x.r.cut && !(x.r.pieces.any fun q => d.pieceHeld q)

/-- The facets whose ports the pieces of a request pass, those it leaves first. -/
def Request.ports (r : Request) : List Nat :=
  ((r.pieces.filterMap fun q => if isLs q.src && decide (q.rd < q.len) then some (lsFacet q.src) else none) ++
    r.pieces.flatMap fun q => (q.dsts.filter isLs).map lsFacet).eraseDups

/-- What is left of a request, if it is still outstanding. -/
def Dev.requestNow (d : Dev) (x : Owned) : Option Request := (d.ctx x.h x.n).requests.find? fun r => r.id == x.r.id

/-- The last writes of a request land (R78): what it has in the span arrives, what passes no facet's port moves, and each
port it passes makes one cycle. A request with nothing left to write is complete. -/
def Dev.completeRequest (d : Dev) (x : Owned) : Dev :=
  match x.r.kind with
  | .prefetch src len =>
    let p := (d.ctx x.h x.n).part
    let d := (d.readGranules x.h x.n x.r ((rimGranules src len).filter fun g => !d.staged p g)).1
    (d.stageGood p src len).dropRequest x.h x.n x.r.id
  | _ =>
    let d := d.cutTakes
    let d := forL [0, 1] (fun h (d : Dev) =>
      let l := d.spanTo h
      let k := (List.range l.length).foldl (fun m j =>
        if (l.getD j { tokens := [], data := [] }).data.any fun e => e.1 == x.r.id then j + 1 else m) 0
      forN k (fun _ d => d.entryArrive h) d) d
    let r := (d.requestNow x).getD { x.r with pieces := [] }
    let d := forL (r.pieces.filter fun q => !isLs q.src) (fun q d => d.landPiece x.h x.n r q fun a => !isLs a) d
    let r := (d.requestNow x).getD { x.r with pieces := [] }
    (forL r.ports (fun f d => d.dmaCycle f) d).retire x.h x.n x.r.id

/-! ## The rows -/

/-- XLD (R77); `sc` is what its lookups met in the staging cache (R178). -/
def execXld (s : Site) (o : XldOp) (sc : StageErrs) (st : State) : Host.Outcome State Fault Refusal :=
  st.act fun d => d.siteOp s 3 fun i w => siteEach s (xldOn i o) (w.dev fun d => d.stageErrors i.p sc)

/-- XST (R77, R180). -/
def execXst (s : Site) (o : XldOp) (st : State) : Host.Outcome State Fault Refusal :=
  st.act fun d => d.siteOp s 3 fun i => siteEach s (xstOn i o)

/-- PFS (R176, R178). -/
def execPfs (c : CtxId) (o : PfsOp) (sc : StageErrs) (st : State) : Host.Outcome State Fault Refusal :=
  st.act fun d => d.ctxOp c fun i w => pfsOp i o (w.dev fun d => d.stageErrors i.p sc)

/-- XFER (R178, R386). -/
def execXfer (c : CtxId) (o : XferOp) (sc : StageErrs) (st : State) : Host.Outcome State Fault Refusal :=
  st.act fun d => d.ctxOp c fun i w => xferOp i o (w.dev fun d => d.stageErrors i.p sc)

/-- GATHER (Table 03-15). -/
def execGather (c : CtxId) (o : GatherOp) (sc : StageErrs) (st : State) : Host.Outcome State Fault Refusal :=
  st.act fun d => d.ctxOp c fun i w => gatherOp i o (w.dev fun d => d.stageErrors i.p sc)

/-- SCATTER (Table 03-15). -/
def execScatter (c : CtxId) (o : GatherOp) (sc : StageErrs) (st : State) : Host.Outcome State Fault Refusal :=
  st.act fun d => d.ctxOp c fun i w => scatterOp i o (w.dev fun d => d.stageErrors i.p sc)

/-- STREAM (R49). -/
def execStream (c : CtxId) (o : StreamOp) (st : State) : Host.Outcome State Fault Refusal :=
  st.act fun d => d.ctxOp c fun i => streamOp i o

/-- TBSET (R60). -/
def execTbset (c : CtxId) (o : TbsetOp) (st : State) : Host.Outcome State Fault Refusal :=
  st.act fun d => d.ctxOp c fun i => tbsetOp i o

/-- SDROP (R176). -/
def execSdrop (c : CtxId) (o : PfsOp) (st : State) : Host.Outcome State Fault Refusal :=
  st.act fun d => d.ctxOp c fun i => sdropOp i o

/-- A request stands before a pseudo-channel under repair (R184). -/
def Dev.requestHeld (d : Dev) (r : Request) : Bool :=
  (r.pieces.any fun q => d.pieceHeld q) ||
    match r.kind with | .prefetch src len => d.chanHeld src len | _ => false

/-- REQUEST_COMPLETE (R78): the oldest request of a tag that can complete does; where none can, one that a repair holds
completes after it (R184). -/
def execRequestComplete (c : CtxId) (tag : BitVec 6) (st : State) : Host.Outcome State Fault Refusal :=
  st.act fun d =>
    let rs := ((d.ctx c.h.val c.n.val).onTag tag.toNat).map fun r => ({ h := c.h.val, n := c.n.val, r } : Owned)
    match rs.find? (fun x => d.canComplete x), rs.find? (fun x => d.requestHeld x.r) with
    | some x, _ => d.completeRequest x
    | none, some x => d.hold (.request x.h x.n x.r.id)
    | none, none => d

/-- DMA_ACCESS (R18, R19). -/
def execDmaAccess (f : FacetN) (st : State) : Host.Outcome State Fault Refusal := st.act fun d => d.dmaCycle f.val

/-- An uncorrectable read of a granule ends the oldest request with a piece that needs it, or is the runtime's. -/
def Dev.ueFor (d : Dev) (a src : Nat) (addr : Bool) (needs : Piece → Bool) : Dev :=
  match (d.allRequests.foldl (fun l y => insertOwned y l) []).find? fun y => y.r.pieces.any needs with
  | none => d.ueAgent a src addr
  | some y => d.meetUe y.h y.n y.r a addr

/-- A granule is read for the oldest request that still has to read it (R172, R174). -/
def Dev.rimRead (d : Dev) (a : Nat) (errs : SymErrs) : Dev :=
  let a := a / 64 * 64
  if rimTop ≤ a then d else
  if d.chanHeld a 64 then d.hold (.granule a errs) else
  let x := d.readGranule a 0 errs
  match x.2 with
  | none => x.1
  | some ad => x.1.ueFor a 0 ad fun q => decide (q.rd < q.len ∧ q.src < a + 64 ∧ a < q.src + q.len)

/-- A read-modify-write of part of a granule; an uncorrectable read writes nothing (R173). -/
def Dev.rimPartialWrite (d : Dev) (a : Nat) (bytes : List Byte) (errs : SymErrs) : Dev :=
  let bytes := bytes.take (64 - a % 64)
  if rimTop ≤ a then d else
  if d.chanHeld a 1 then d.hold (.part a bytes errs) else
  if bytes.length = 64 then d.gwrite a bytes else
  let x := d.readGranule (a / 64 * 64) 0 errs
  match x.2 with
  | none => x.1.gwrite a bytes
  | some ad => x.1.ueFor (a / 64 * 64) 0 ad fun q => q.dsts.any fun b => decide (b < a / 64 * 64 + 64 ∧ a / 64 * 64 < b + q.len)

/-- RIM_READ (R172, R174). -/
def execRimRead (addr : BitVec 48) (errs : SymErrs) (st : State) : Host.Outcome State Fault Refusal :=
  st.act fun d => d.rimRead addr.toNat errs

/-- RIM_PARTIAL_WRITE (R173). -/
def execRimPartialWrite (addr : BitVec 48) (bytes : List Byte) (errs : SymErrs) (st : State) :
    Host.Outcome State Fault Refusal :=
  st.act fun d => d.rimPartialWrite addr.toNat bytes errs

/-- SCRUB_READ (R175): the next granule of a pseudo-channel in turn. -/
def execScrubRead (x : Fin 8) (pc : Fin 32) (errs : SymErrs) (st : State) : Host.Outcome State Fault Refusal :=
  st.act fun d =>
    let key := chanKey x.val pc.val
    if d.fld rMemCfg 7 0 = 0 ∨ !d.pcOk x.val pc.val ∨ d.mem.repairing.any (fun r => r.1 == key) then d else
    let g := d.mem.scrub.get key
    let a := rimAddr x.val pc.val g
    let d := ({ d with mem := { d.mem with scrub := d.mem.scrub.set key ((g + 1) % (3 * 2 ^ 24)) } } : Dev).countMem x.val pc.val 0xA none 1
    let r := d.readGranule a 1 errs
    match r.2 with
    | none => r.1
    | some ad => r.1.ueAgent a 1 ad

end Sys2Proof.Machine
end

