-- ==== Sys2Proof/Machine/Handoff.lean ====
section
/-! DEFINITION. The ingest hand-off: the counts and the cursor of a staging ring, ITAKE, IREL and IROI
(11_ingest.md, R223 to R227, R231; 03_scangathen_operations.md, Ingest hand-off slot). -/

namespace Sys2Proof.Machine

/-! ## Counts -/

/-- Sets WRITTEN, TAKEN or RELEASED of a ring. -/
def Dev.setWritten (d : Dev) (p r v : Nat) : Dev := d.setFld (rIngRingPtr p r) 95 64 v
def Dev.setTaken (d : Dev) (p r v : Nat) : Dev := d.setFld (rIngRingPtr p r) 63 32 v
def Dev.setReleased (d : Dev) (p r v : Nat) : Dev := d.setFld (rIngRingPtr p r) 31 0 v

/-- ING_p_RING_r_CFG.EN. -/
def Dev.ringOn (d : Dev) (p r : Nat) : Bool := d.flag (rIngRingCfg p r) 63

/-- Entries claimed before they are packed: TAKEN − WRITTEN where TAKEN is ahead. -/
def Dev.claimAhead (d : Dev) (p r : Nat) : Nat :=
  let k := diff32 (d.ringTaken p r) (d.ringWritten p r)
  if k < 2 ^ 31 then k else 0

/-! ## The cursor (R231, Table 11-13) -/

/-- The value of a cursor register. -/
def cursorVal (rseq shard next frame tokoff logptr spare ftag : Nat) : Nat :=
  rseq % 2 ^ 64 * 2 ^ 448 + shard % 2 ^ 32 * 2 ^ 416 + next % 2 ^ 32 * 2 ^ 384 + frame % 2 ^ 32 * 2 ^ 352 +
    tokoff % 2 ^ 32 * 2 ^ 320 + logptr % 2 ^ 32 * 2 ^ 288 + spare % 2 ^ 32 * 2 ^ 256 + ftag % 2 ^ 30 * 2 ^ 226

/-- The cursor at the first segment of a row. -/
def Row.cursor (w : Row) : Nat :=
  match w.segs with
  | [] => cursorVal w.rseq w.shard 0 0 0 w.logptr w.spareNext w.ftag
  | s :: _ => cursorVal w.rseq w.shard s.sidx s.frame (if s.contIn then (s.tokens.head?.map Token.pos).getD 0 else 0)
      w.logptr w.spareNext w.ftag

/-- The cursor of a ring, of whose written rows `taken` are claimed, with `ahead` more claimed than are written: its
first row that no ITAKE has claimed, else where the packer stands. -/
def Ring.cursor (x : Ring) (taken ahead : Nat) : Nat :=
  match x.landed[taken]?, x.rows[ahead]? with
  | .some w, _ => w.cursor
  | .none, .some w => w.cursor
  | .none, .none =>
    let rseq := x.rseq + (ahead - x.rows.length)
    let sh := x.shards.headD Shard.none
    if ahead = x.rows.length ∧ x.openSegs ≠ [] then
      Row.cursor { rseq, shard := sh.id, last := false, segs := x.openSegs, logptr := x.openLog, spareNext := x.openSpare,
                   ftag := x.openFtag }
    else cursorVal rseq sh.id sh.pack sh.fromFrame sh.fromTok sh.logged sh.sparePack x.ftag

/-- Brings ING_p_CUR_r up to date. -/
def Dev.updateCur (d : Dev) (p r : Nat) : Dev := d.setReg (rIngCur p r) ((d.ring p r).cursor (diff32 (d.ringTaken p r) (d.ringReleased p r)) (d.claimAhead p r))

/-! ## ITAKE, IREL, IROI -/

/-- A request-ended record of cause RING (Table 13-5). -/
def ringRec (i : Issue) (tag ring : Nat) : ErrRec :=
  { part := some i.p, cls := clsRequest, cause := 0x30, block := 7, unit := ring, det := detail 0 i.bidx i.n tag ring }

/-- Claims the next `n` entries of a ring: TAKEN advances and the cursor moves on. -/
def Dev.claimRows (d : Dev) (p r n : Nat) : Dev :=
  (d.setTaken p r ((d.ringTaken p r + n) % 2 ^ 32)).updateCur p r

/-- ITAKE (R225): a ring that is disabled or lacks room ends it with RING; else its entries are claimed at launch. -/
def itakeOp (i : Issue) (o : ItakeOp) (w : Work) : Work :=
  let r := o.ring.toNat
  let n := o.nrow.toNat
  let d := w.1
  let esz := d.ringEsz i.p r
  let dst := d.gaAddr i.h i.n o.dst
  -- the op has no len field: dpi adds the bytes it takes (DESIGN CHOICE, log 96)
  let w := gaAdvance o.dst o.dpi (n * esz) w
  if !d.ringOn i.p r || decide (d.ringNent i.p r < diff32 (d.ringTaken i.p r) (d.ringReleased i.p r) + n) then
    (w.1.modCtx i.h i.n fun c => c.markErr o.tag.toNat, w.2.err (ringRec i o.tag.toNat r))
  else
    let first := d.ringTaken i.p r
    let w' := launch i o.tag.toNat (.take r dst n (some first)) ((List.range n).map (fun k => { a := d.ringEntry i.p r (first + k), len := esz, wr := false }) ++
      [{ a := dst, len := n * esz, wr := true }]) [] false w
    if w'.1.nextReq = w.1.nextReq then w' else w'.dev fun d => d.claimRows i.p r n

/-- IREL (R225). -/
def irelOp (i : Issue) (o : IrelOp) (w : Work) : Work :=
  let r := o.ring.toNat
  let n := o.nrow.toNat
  if diff32 (w.1.ringTaken i.p r) (w.1.ringReleased i.p r) < n then (w.1, w.2.err (ringRec i 0 r))
  else w.dev fun d =>
    let x := d.ring i.p r
    (d.setRing i.p r { x with landed := x.landed.drop n }).setReleased i.p r ((d.ringReleased i.p r + n) % 2 ^ 32)

/-- IROI (R226): the list is posted to the ring its frame tag names; ingest reads it after. -/
def iroiOp (i : Issue) (o : IroiOp) (w : Work) : Work :=
  let a := w.1.gaAddr i.h i.n o.list
  let n := o.count.toNat
  let r := o.ftag.toNat / 2 ^ 30
  match w.1.firstBad i.p a (4 * n) with
  | some b => (w.1, w.2.err (reqRec w.1 i 0 0x6 b 0))
  | none => w.dev fun d =>
      let x := d.ring i.p r
      d.setRing i.p r { x with posted := x.posted ++ [(a, n, o.ftag.toNat)] }

/-- A take that a fence ends consumes no entry (R79): TAKEN goes back by its rows, and the claims of later takes of
the ring move with it. -/
def Dev.unclaim (d : Dev) (p ring first nrow : Nat) : Dev :=
  let shift (k : ReqKind) : ReqKind := match k with
    | .take r dst n (some f) => if r = ring ∧ diff32 f first ≠ 0 ∧ diff32 f first < 2 ^ 31 then
        .take r dst n (some ((f + 2 ^ 32 - nrow) % 2 ^ 32)) else k
    | k => k
  let d := forL (d.ctxsOf p) (fun x d => d.modCtx x.1 x.2 fun c =>
    { c with requests := c.requests.map fun q => { q with kind := shift q.kind } }) d
  (d.setTaken p ring ((d.ringTaken p ring + 2 ^ 32 - nrow) % 2 ^ 32)).updateCur p ring

/-- ITAKE (R225). -/
def execItake (c : CtxId) (o : ItakeOp) (st : State) : Host.Outcome State Fault Refusal :=
  st.act fun d => d.ctxOp c fun i => itakeOp i o

/-- IREL (R225). -/
def execIrel (c : CtxId) (o : IrelOp) (st : State) : Host.Outcome State Fault Refusal :=
  st.act fun d => d.ctxOp c fun i => irelOp i o

/-- IROI (R226). -/
def execIroi (c : CtxId) (o : IroiOp) (st : State) : Host.Outcome State Fault Refusal :=
  st.act fun d => d.ctxOp c fun i => iroiOp i o

end Sys2Proof.Machine
end

