-- ==== Sys2Proof/Machine/Lane.lean ====
section
/-! DEFINITION. The lane slot (03_scangathen_operations.md, R70 to R75; R108, R109, R119, R120, R127 to R129,
R145, R384, R385). -/

namespace Sys2Proof.Machine

/-! ## Operands -/

/-- The thread context a lane or load/store op acts on (R40). -/
def thread (i : Issue) (pin : Bool) (pctx : Nat) : Nat := if pin then pctx else i.icount % 16

/-- Whether the guard lets lane l act (R70). -/
def Dev.guardIn (d : Dev) (f k : Nat) (ge gn : Bool) (pg l : Nat) : Bool := !ge || (d.preg f k pg l != gn)

/-- The lanes of thread context k of facet f that a lane op's guard lets act. -/
def Dev.lanesIn (d : Dev) (f k : Nat) (o : LaneOp) : List Nat :=
  (List.range 512).filter fun l => d.guardIn f k o.ge o.gn o.pg.toNat l

/-- The operand vb of lane l, or the immediate. -/
def Dev.opB (d : Dev) (f k : Nat) (o : LaneOp) (l : Nat) : Nat :=
  if o.bi then o.imm.toNat else d.vreg f k o.vb.toNat l

/-- The rounding of the rnd field, with the random bits of a stochastic one. -/
def rndOf (rnd u : Nat) : Rnd := if rnd = 1 then .sto (u % 65536) else if rnd = 2 then .zero else .even

/-- One evaluation of the generator of every lane of facet f: word 0 of each (R70, R129). -/
def Dev.drawAll (d : Dev) (f : Nat) : List (List Nat) × Dev :=
  let r := forL (List.range 512) (fun l (x : List (List Nat) × Dev) =>
    let y := x.2.evalRng f l
    (y.1 :: x.1, y.2)) ([], d)
  (r.1.reverse, r.2)

/-! ## Arithmetic of one lane -/

/-- The arithmetic ops. -/
inductive Arith where
  | add
  | sub
  | mul
  | fma
deriving DecidableEq, Repr

/-- One float element of an arithmetic op (R119, R120, R384). -/
def arithEl (k : Arith) (fmt : Nat) (r : Rnd) (a b c : Nat) : Nat × Ev :=
  let x := readElem fmt a
  let y := readElem fmt b
  let z := readElem fmt c
  let s : Elem × Ev := match k with
    | .add => eAdd x.1 y.1
    | .sub => eAdd x.1 y.1.neg'
    | .mul => eMul x.1 y.1
    | .fma => let p := eMul x.1 y.1; let s := eAdd p.1 z.1; (s.1, s.2.add p.2)
  let third := k == .fma
  let o := convert fmt r false s.1
  (o.code, { inv := min 1 s.2.inv, ovf := o.ev.ovf,
             nan := b2n (x.1.isNan || y.1.isNan || (third && z.1.isNan)),
             inf := b2n (x.1.isInf || y.1.isInf || (third && z.1.isInf)),
             fin := b2n x.2 + b2n y.2 + b2n (third && z.2), fout := o.ev.fout })

/-- Applies an element function to the two BF16 elements of a lane. -/
def bf16Pair (g : Nat → Nat × Ev) : Nat × Ev :=
  let x := g 0
  let y := g 16
  (x.1 + y.1 * 65536, x.2.add y.2)

/-- Half of a word. -/
def half (v s : Nat) : Nat := v >>> s % 65536

/-- One lane of an arithmetic op. -/
def arithLane (k : Arith) (lt rnd u a b c : Nat) : Nat × Ev :=
  if lt = 0 then arithEl k 0 (rndOf rnd u) a b c
  else if lt = 1 then bf16Pair fun s => arithEl k 1 (rndOf rnd (half u s)) (half a s) (half b s) (half c s)
  else
    let v := match k with
      | .add => a + b
      | .sub => a + (2 ^ 32 - b % 2 ^ 32)
      | .mul => a * b
      | .fma => a * b + c
    (v % 2 ^ 32, {})

/-- The code an element is read as: a flushed subnormal is the zero of its sign. -/
def asRead (fmt code : Nat) : Nat :=
  let e := readElem fmt code
  if e.2 then signMag (fmtBits fmt) e.1.neg 0 else if e.1.isNan then (convert fmt .even false Elem.nan).code else code

/-- Whether a value is greater than another, with −0 below +0. -/
def above (x y : Elem) : Bool :=
  let c := eCmp x y
  decide (0 < c) || (c == 0 && x.isZero && y.isZero && !x.neg && y.neg)

/-- MAX or MIN of two float elements. -/
def maxEl (isMax : Bool) (fmt a b : Nat) : Nat × Ev :=
  let x := readElem fmt a
  let y := readElem fmt b
  let ca := asRead fmt a
  let cb := asRead fmt b
  let pick := if x.1.isNan then cb else if y.1.isNan then ca
    else if isMax then (if above y.1 x.1 then cb else ca) else (if above x.1 y.1 then cb else ca)
  (pick, { fin := b2n x.2 + b2n y.2 })

/-- The integer a lane word stands for: INT32 or UINT32. -/
def intLane (lt v : Nat) : Int := if lt = 2 then toSigned 32 v else v

/-- One lane of MAX or MIN. -/
def maxLane (isMax : Bool) (lt a b : Nat) : Nat × Ev :=
  if lt = 0 then maxEl isMax 0 a b
  else if lt = 1 then bf16Pair fun s => maxEl isMax 1 (half a s) (half b s)
  else
    let x := intLane lt a
    let y := intLane lt b
    (if isMax then (if x < y then b else a) else (if y < x then b else a), {})

/-- One lane of NEG: sign bits inverted, or the two's complement. -/
def negLane (lt a : Nat) : Nat :=
  if lt = 0 then Nat.xor a 0x80000000 else if lt = 1 then Nat.xor a 0x80008000 else (2 ^ 32 - a % 2 ^ 32) % 2 ^ 32

/-- One lane of SHR. -/
def shrLane (lt a b : Nat) : Nat :=
  let s := b % 32
  if lt = 2 then ofSigned 32 (ashr (toSigned 32 a) s) else a / 2 ^ s

/-- One lane of CMP: its truth and input flushes; a reserved sub-function is false. -/
def cmpLane (sub lt a b : Nat) : Bool × Ev :=
  let pick (c : Int) (un : Bool) : Bool :=
    match sub with
    | 0 => !un && c == 0
    | 1 => un || c != 0
    | 2 => !un && decide (c < 0)
    | 3 => !un && decide (c ≤ 0)
    | 4 => !un && decide (0 < c)
    | 5 => !un && decide (0 ≤ c)
    | 6 => un
    | _ => false
  if lt = 0 then
    let x := readF32 a
    let y := readF32 b
    (pick (eCmp x.1 y.1) (x.1.isNan || y.1.isNan), { fin := b2n x.2 + b2n y.2 })
  else (pick (intLane lt a - intLane lt b) false, {})

/-! ## Conversions (R106 to R109) -/

/-- Format of a lane type as a source or target: FP32, BF16, INT32, UINT32. -/
def ltFmt (lt : Nat) : Nat := if lt = 0 then 0 else if lt = 1 then 1 else if lt = 2 then 0x10 else 0x11

/-- Reads an element of a lane type. -/
def readLt (lt v : Nat) : Elem × Bool :=
  if lt = 0 then readElem 0 v
  else if lt = 1 then readElem 1 v
  else let z := intLane lt v; (Elem.fin (decide (z < 0)) z.natAbs 0, false)

/-- E8M0 of a value (R109). -/
def toE8M0 (e : Elem) : Nat :=
  if e.isZero then 0 else if e.isInf || e.isNan then 255 else (max 0 (min 254 (e.log2 + 127))).toNat

/-- One element of CVT. -/
def cvtEl (sub lt fo : Nat) (r : Rnd) (sat : Bool) (v : Nat) : Nat × Ev :=
  let src := if sub = 0 then readLt lt v else readElem fo v
  let inp : Ev := { nan := b2n src.1.isNan, inf := b2n src.1.isInf, fin := b2n src.2 }
  if sub = 0 ∧ fo = 0xB then (toE8M0 src.1, inp)
  else
    let o := convert (if sub = 0 then fo else ltFmt lt) r sat src.1
    let ev := if fo = 0xB then { o.ev with inv := 0, ovf := 0 } else o.ev
    (o.code, inp.add ev)

/-- One lane of CVT. -/
def cvtLane (sub lt fo rnd u : Nat) (sat : Bool) (v : Nat) : Nat × Ev :=
  let w := fmtBits fo
  let lw := if lt = 1 then 16 else 32
  let n := if lt = 1 then 2 else 1
  let ws := if sub = 0 then lw else w
  let wd := if sub = 0 then w else lw
  forN n (fun i x =>
    let y := cvtEl sub lt fo (rndOf rnd (half u (16 * i))) sat (v >>> (ws * i) % 2 ^ ws)
    (x.1 + y.1 * 2 ^ (wd * i), x.2.add y.2)) (0, {})

/-! ## Special functions (R385, Table 06-3) -/

/-- The canonical NaN with an event. -/
def nanWith (ev : Ev) : Nat × Ev := (0x7FC00000, ev)

/-- The value and own events of a special function of an element that is not NaN. -/
def sfuEl (sub : Nat) (e : Elem) : Nat × Ev :=
  let out (v : Elem) : Nat × Ev := let r := toF32 .even v; (r.code, r.ev)
  let inf (neg : Bool) (ev : Ev) : Nat × Ev := (signMag 32 neg 0x7F800000, ev)
  let zero (neg : Bool) : Nat × Ev := (signMag 32 neg 0, {})
  match sub with
  | 0 => if e.isInf then (if e.neg then zero false else inf false {}) else out (eExp2 e)
  | 1 => if e.isZero then inf true { divz := 1 } else if e.neg then nanWith { inv := 1 }
         else if e.isInf then inf false {} else out (eLog2 e)
  | 2 => if e.isZero then inf e.neg { divz := 1 } else if e.isInf then zero e.neg else out (eRcp e)
  | 3 => if e.isZero then inf e.neg { divz := 1 } else if e.neg then nanWith { inv := 1 }
         else if e.isInf then zero false else out (eRsqrt e)
  | 4 => if e.isZero then zero e.neg else if e.neg then nanWith { inv := 1 }
         else if e.isInf then inf false {} else out (eSqrt e)
  | _ => if e.isZero then zero e.neg else if e.isInf then out (Elem.fin e.neg 1 0) else out (eTanh e)

/-- One lane of SFU. -/
def sfuLane (sub v : Nat) : Nat × Ev :=
  let x := readF32 v
  let inp : Ev := { nan := b2n x.1.isNan, inf := b2n x.1.isInf, fin := b2n x.2 }
  if x.1.isNan then nanWith inp else let r := sfuEl sub x.1; (r.1, inp.add r.2)

/-! ## Ops over the lanes of a facet -/

/-- Posts the events of a lane op 15 cycles after its issue (R122). -/
def laneEvents (i : Issue) (f k : Nat) (els : List (Ev × Nat)) (w : Work) : Work :=
  let hs := hitsOf { unit := 2, facet := f, bidx := i.bidx, ctx := i.n, icount := i.icount, tctx := k }
    (els.map fun e => (e.1, 0, e.2))
  if hs.isEmpty then w else i.later 15 (.events hs) w

/-- Writes vector results 16 cycles after the issue (R14). -/
def laneWrite (i : Issue) (f k : Nat) (vs : List (Nat × Nat)) (w : Work) : Work :=
  if vs.isEmpty then w else i.later 16 (.lane f k 0 vs []) w

/-- Counts a lane op of facet f, and the lanes its guard excludes (Table 16-2). -/
def countLane (i : Issue) (o : LaneOp) (opc f : Nat) (w : Work) : Work :=
  w.dev fun d => (d.countFacet f 6 (fun s => s == 0 || s == opc) 1).countFacet f 7 noSub
    (512 - (d.lanesIn f (thread i o.pin o.pctx.toNat) o).length)

/-- Writes predicate results 16 cycles after the issue. -/
def predWrite (i : Issue) (f k : Nat) (ps : List (Nat × Nat)) (w : Work) : Work :=
  if ps.isEmpty then w else i.later 16 (.lane f k 0 [] ps) w

/-- A lane op that computes vd in each lane the guard lets act, from the lane number and the words a stochastic
rounding draws. -/
def mapOn (i : Issue) (o : LaneOp) (draws : Bool) (g : Dev → Nat → Nat → Nat → Nat → Nat × Ev) (f : Nat) (w : Work) :
    Work :=
  let k := thread i o.pin o.pctx.toNat
  let x := if draws then w.1.drawAll f else ([], w.1)
  let w : Work := (x.2, w.2)
  let ls := w.1.lanesIn f k o
  let rs := ls.map fun l => (l, g w.1 f k l (nth (x.1.getD l []) 0))
  let w := laneWrite i f k (rs.map fun r => (o.vd.toNat * 512 + r.1, r.2.1)) w
  laneEvents i f k (rs.map fun r => (r.2.2, r.1)) w

/-- ADD, SUB, MUL or FMA in facet f. -/
def arithOn (a : Arith) (i : Issue) (o : LaneOp) (f : Nat) (w : Work) : Work :=
  mapOn i o (o.rnd == 1) (fun d f k l u =>
    arithLane a o.lt.toNat o.rnd.toNat u (d.vreg f k o.va.toNat l) (d.opB f k o l) (d.vreg f k o.vc.toNat l)) f w

/-- A bitwise or other op of two words without events. -/
def wordOn (g : Nat → Nat → Nat) (i : Issue) (o : LaneOp) (f : Nat) (w : Work) : Work :=
  mapOn i o false (fun d f k l _ => (g (d.vreg f k o.va.toNat l) (d.opB f k o l), {})) f w

def addOn : Issue → LaneOp → Nat → Work → Work := arithOn .add
def subOn : Issue → LaneOp → Nat → Work → Work := arithOn .sub
def mulOn : Issue → LaneOp → Nat → Work → Work := arithOn .mul
def fmaOn : Issue → LaneOp → Nat → Work → Work := arithOn .fma

def minOn (i : Issue) (o : LaneOp) (f : Nat) (w : Work) : Work :=
  mapOn i o false (fun d f k l _ => maxLane false o.lt.toNat (d.vreg f k o.va.toNat l) (d.opB f k o l)) f w

def maxOn (i : Issue) (o : LaneOp) (f : Nat) (w : Work) : Work :=
  mapOn i o false (fun d f k l _ => maxLane true o.lt.toNat (d.vreg f k o.va.toNat l) (d.opB f k o l)) f w

def negOn (i : Issue) (o : LaneOp) : Nat → Work → Work := wordOn (fun a _ => negLane o.lt.toNat a) i o
def andOn : Issue → LaneOp → Nat → Work → Work := wordOn Nat.land
def orOn : Issue → LaneOp → Nat → Work → Work := wordOn Nat.lor
def xorOn : Issue → LaneOp → Nat → Work → Work := wordOn Nat.xor
def shlOn : Issue → LaneOp → Nat → Work → Work := wordOn fun a b => a * 2 ^ (b % 32) % 2 ^ 32
def shrOn (i : Issue) (o : LaneOp) : Nat → Work → Work := wordOn (fun a b => shrLane o.lt.toNat a b) i o

def selOn (i : Issue) (o : LaneOp) (f : Nat) (w : Work) : Work :=
  mapOn i o false (fun d f k l _ =>
    (if d.preg f k o.pd.toNat l then d.vreg f k o.va.toNat l else d.opB f k o l, {})) f w

def moviOn (i : Issue) (o : LaneOp) : Nat → Work → Work := wordOn (fun _ _ => o.imm.toNat) i o

def laneidOn (i : Issue) (o : LaneOp) (f : Nat) (w : Work) : Work :=
  if 3 ≤ o.sub.toNat then w else
  mapOn i o false (fun _ f k l _ => (if o.sub = 0 then l else if o.sub = 1 then k else f, {})) f w

def cvtOn (i : Issue) (o : LaneOp) (f : Nat) (w : Work) : Work :=
  if 2 ≤ o.sub.toNat then w else
  mapOn i o (o.rnd == 1) (fun d f k l u =>
    cvtLane o.sub.toNat o.lt.toNat o.fo.toNat o.rnd.toNat u o.sat (d.vreg f k o.va.toNat l)) f w

def sfuOn (i : Issue) (o : LaneOp) (f : Nat) (w : Work) : Work :=
  if 6 ≤ o.sub.toNat then w else
  mapOn i o false (fun d f k l _ => sfuLane o.sub.toNat (d.vreg f k o.va.toNat l)) f w

def shufOn (i : Issue) (o : LaneOp) (f : Nat) (w : Work) : Work :=
  if 2 ≤ o.sub.toNat then w else
  mapOn i o false (fun d f k l _ =>
    (d.vreg f k o.va.toNat
      (if o.sub = 0 then (l + o.imm.toNat) % 512 else Nat.xor l (o.imm.toNat % 512)), {})) f w

/-- RAND: four words to vd to vd + 3 (R128, R129). -/
def randOn (i : Issue) (o : LaneOp) (f : Nat) (w : Work) : Work :=
  let k := thread i o.pin o.pctx.toNat
  let x := w.1.drawAll f
  let w : Work := (x.2, w.2)
  let ls := w.1.lanesIn f k o
  laneWrite i f k (ls.flatMap fun l => (List.range 4).map fun j => ((o.vd.toNat + j) * 512 + l, nth (x.1.getD l []) j)) w

/-- CMP: p[pd] in each lane the guard lets act. -/
def cmpOn (i : Issue) (o : LaneOp) (f : Nat) (w : Work) : Work :=
  if o.sub = 7 then w else
  let k := thread i o.pin o.pctx.toNat
  let d := w.1
  let rs := (d.lanesIn f k o).map fun l =>
    (l, cmpLane o.sub.toNat o.lt.toNat (d.vreg f k o.va.toNat l) (d.opB f k o l))
  let w := predWrite i f k (rs.map fun r => (o.pd.toNat * 512 + r.1, b2n r.2.1)) w
  laneEvents i f k (rs.map fun r => (r.2.2, r.1)) w

/-- PLOG. -/
def plogOn (i : Issue) (o : LaneOp) (f : Nat) (w : Work) : Work :=
  if 4 ≤ o.sub.toNat then w else
  let k := thread i o.pin o.pctx.toNat
  let d := w.1
  predWrite i f k ((d.lanesIn f k o).map fun l =>
    let a := d.preg f k (o.va.toNat % 16) l
    let b := d.preg f k (o.vb.toNat % 16) l
    (o.pd.toNat * 512 + l,
     b2n (match o.sub.toNat with | 0 => a && b | 1 => a || b | 2 => a != b | _ => a && !b))) w

/-! ## RED (R71) -/

/-- One node of the tree of RED SUM, MAX or MIN. -/
def redNode (sub lt a b : Nat) : Nat × Ev :=
  if sub = 0 then
    if lt = 0 then let r := f32Add a b; (r.code, r.ev) else ((a + b) % 2 ^ 32, {})
  else maxLane (sub == 1) lt a b

/-- One level of the tree: neighbours combine; `width` lanes lie under each new node. -/
def redLevel (sub lt width : Nat) : Nat → List Nat → List Nat × List (Ev × Nat)
  | j, a :: b :: l =>
    let r := redNode sub lt a b
    let s := redLevel sub lt width (j + 1) l
    (r.1 :: s.1, (r.2, j * width) :: s.2)
  | _, l => (l, [])

/-- The nine levels of the tree. -/
def redTree (sub lt : Nat) : Nat → Nat → List Nat → List Nat × List (Ev × Nat)
  | 0, _, l => (l, [])
  | n + 1, width, l =>
    let r := redLevel sub lt (2 * width) 0 l
    let s := redTree sub lt n (2 * width) r.1
    (s.1, r.2 ++ s.2)

/-- The identity of a reduction. -/
def redIdent (sub lt : Nat) : Nat :=
  match sub with
  | 0 => if lt = 0 then 0x80000000 else 0
  | 1 => if lt = 0 then 0x7FC00000 else if lt = 2 then 0x80000000 else 0
  | _ => if lt = 0 then 0x7FC00000 else if lt = 2 then 0x7FFFFFFF else 0xFFFFFFFF

/-- ARGMAX over (lane, value) pairs in lane order. -/
def argmax (lt : Nat) (l : List (Nat × Nat)) : Nat :=
  match l with
  | [] => 0xFFFFFFFF
  | x :: xs =>
    (xs.foldl (fun (b : Nat × Nat) (y : Nat × Nat) =>
      let better :=
        if lt = 0 then
          let p := (readF32 y.2).1
          let q := (readF32 b.2).1
          !p.isNan && (q.isNan || above p q)
        else decide (intLane lt b.2 < intLane lt y.2)
      if better then y else b) x).1

/-- The events of RED that come from the lanes themselves: flushes, and for SUM what the operands are. -/
def redInput (sub lt v : Nat) : Ev :=
  if lt ≠ 0 then {} else
  let x := readF32 v
  { fin := b2n x.2, nan := b2n (sub == 0 && x.1.isNan), inf := b2n (sub == 0 && x.1.isInf) }

/-- RED. -/
def redOn (i : Issue) (o : LaneOp) (f : Nat) (w : Work) : Work :=
  if 4 ≤ o.sub.toNat then w else
  let k := thread i o.pin o.pctx.toNat
  let d := w.1
  let sub := o.sub.toNat
  let lt := o.lt.toNat
  let ls := d.lanesIn f k o
  let val (l : Nat) : Nat := let v := d.vreg f k o.va.toNat l; if lt = 0 then asRead 0 v else v
  let inp := ls.map fun l => (redInput sub lt (d.vreg f k o.va.toNat l), l)
  let r : Nat × List (Ev × Nat) :=
    if sub = 3 then (argmax lt (ls.map fun l => (l, val l)), [])
    else
      let leaves := (List.range 512).map fun l =>
        if d.guardIn f k o.ge o.gn o.pg.toNat l then val l else redIdent sub lt
      let t := redTree sub lt 9 1 leaves
      (nth t.1 0, t.2)
  let w := laneWrite i f k (ls.map fun l => (o.vd.toNat * 512 + l, r.1)) w
  laneEvents i f k (inp ++ r.2) w

/-! ## TOPK, DISP, DCLR (R72, R73, R145) -/

/-- Whether entry x outranks entry y: (value, index). -/
def outranks (x y : Nat × Nat) : Bool :=
  let a := (readF32 x.1).1
  let b := (readF32 y.1).1
  if a.isNan && b.isNan then decide (x.2 < y.2)
  else if a.isNan then false
  else if b.isNan then true
  else
    let c := eCmp a b
    decide (0 < c) || (c == 0 && decide (x.2 < y.2))

/-- Inserts an entry at its rank. -/
def rankIn (x : Nat × Nat) : List (Nat × Nat) → List (Nat × Nat)
  | [] => [x]
  | y :: ys => if outranks x y then x :: y :: ys else y :: rankIn x ys

/-- TOPK. -/
def topkOn (i : Issue) (o : LaneOp) (f : Nat) (w : Work) : Work :=
  let k := thread i o.pin o.pctx.toNat
  let d := w.1
  let m := o.m1.toNat + 1
  let vd := o.vd.toNat
  let rs := (d.lanesIn f k o).map fun l =>
    let old := (List.range m).map fun j => (d.vreg f k (vd + j) l, d.vreg f k (vd + m + j) l)
    let cand := d.vreg f k o.va.toNat l
    let new := (rankIn (asRead 0 cand, d.opB f k o l) (old.map fun e => (asRead 0 e.1, e.2))).take m
    let ws := (List.range m).flatMap fun j =>
      let e := new.getD j (0, 0)
      [((vd + j) * 512 + l, e.1), ((vd + m + j) * 512 + l, e.2)]
    (ws, ({ fin := countIf (fun v => (readF32 v).2) (cand :: old.map Prod.fst) } : Ev), l)
  let w := laneWrite i f k (rs.flatMap fun r => r.1) w
  laneEvents i f k (rs.map fun r => (r.2.1, r.2.2)) w

/-- The codes DISP assigns to one lane: walks its ranks until `k` experts are assigned (R73). -/
def dispRanks (f e c : Nat) : Nat → List Nat → Dev → List Nat × Dev
  | 0, _, d => ([], d)
  | _, [], d => ([], d)
  | k + 1, x :: xs, d =>
    let n := d.dcnt.get (f * 1024 + x)
    if x < e ∧ n < c then
      let d := { d with dcnt := d.dcnt.set (f * 1024 + x) (n + 1) }
      let r := dispRanks f e c k xs d
      ((x * c + n) % 2 ^ 32 :: r.1, r.2)
    else dispRanks f e c (k + 1) xs d

/-- DISP. -/
def dispOn (i : Issue) (o : LaneOp) (f : Nat) (w : Work) : Work :=
  let t := thread i o.pin o.pctx.toNat
  let e := o.imm.toNat % 2048
  let c := o.imm.toNat / 2048 % 65536
  let m := o.m1.toNat + 1
  let k := o.sub.toNat + 1
  let ls := w.1.lanesIn f t o
  let r := forL ls (fun l (x : List (Nat × Nat) × Dev) =>
    let ranks := (List.range (if o.pol then m else k)).map fun j => x.2.vreg f t (o.va.toNat + j) l
    let y := dispRanks f e c k ranks x.2
    (x.1 ++ (List.range k).map fun j => ((o.vd.toNat + j) * 512 + l, y.1.getD j 0xFFFFFFFF), y.2)) ([], w.1)
  laneWrite i f t r.1 (r.2, w.2)

/-- DCLR. -/
def dclrOn (_ : Issue) (_ : LaneOp) (f : Nat) (w : Work) : Work :=
  w.dev fun d => { d with dcnt := alClear d.dcnt (f * 1024) (f * 1024 + 1024) }

/-! ## Condition writes (R74, R75) -/

/-- A condition write of one op: register, bits, value, latency, and whether writes of one bundle to it are
combined by AND. -/
structure CondW where
  cn : Nat
  mask : Nat
  v : Nat
  lam : Nat
  isAnd : Bool
deriving DecidableEq, Repr

/-- CSET over the enabled facets of a site. -/
def csetOf (i : Issue) (s : Site) (o : LaneOp) (d : Dev) : Option CondW :=
  if 2 ≤ o.sub.toNat then none else
  let k := thread i o.pin o.pctx.toNat
  let one (f : Nat) : Bool :=
    let ps := (d.lanesIn f k o).map fun l => d.preg f k o.pd.toNat l
    if o.sub = 0 then ps.any id else ps.all id
  let v := if o.sub = 0 then (siteFacets s).any one else (siteFacets s).all one
  let b := o.imm.toNat % 2
  some { cn := o.cn.toNat, mask := 2 ^ b, v := b2n v * 2 ^ b, lam := 24, isAnd := o.sub == 1 }

/-- CIDX. -/
def cidxOf (i : Issue) (s : Site) (o : LaneOp) (d : Dev) : Option CondW :=
  if o.sub = 1 then some { cn := o.cn.toNat, mask := 3, v := o.imm.toNat % 4, lam := 2, isAnd := false }
  else if o.sub = 0 then
    (siteFacets s).head?.map fun f =>
      { cn := o.cn.toNat, mask := 3, v := min 3 (d.vreg f (thread i o.pin o.pctx.toNat) o.va.toNat 0), lam := 24,
        isAnd := false }
  else none

/-- CFLAG: its write, and the device with the sampled flags cleared for sub 1. -/
def cflagOf (s : Site) (o : LaneOp) (d : Dev) : Option CondW × Dev :=
  if 2 ≤ o.sub.toNat then (none, d) else
  let sel := o.imm.toNat % 256
  let v := (siteFacets s).any fun f => Nat.land (d.reg (rFctNev f)) sel != 0
  let b := o.imm.toNat / 256 % 2
  let d := if o.sub = 1 then forL (siteFacets s) (fun f d =>
      let x := d.reg (rFctNev f)
      d.setReg (rFctNev f) (x - Nat.land x sel)) d
    else d
  (some { cn := o.cn.toNat, mask := 2 ^ b, v := b2n v * 2 ^ b, lam := 8, isAnd := false }, d)

/-- Adds a write to those of its bundle: writes to the same bits of one register are ORed, or ANDed for CSET ALL. -/
def addCond (l : List CondW) (c : CondW) : List CondW :=
  if l.any fun x => x.cn == c.cn && x.mask == c.mask && x.lam == c.lam then
    l.map fun x => if x.cn = c.cn ∧ x.mask = c.mask ∧ x.lam = c.lam then
      { x with v := if c.isAnd then Nat.land x.v c.v else Nat.lor x.v c.v } else x
  else l ++ [c]

/-- Writes condition registers after their latencies. -/
def condLater (i : Issue) (cs : List CondW) (d : Dev) : Dev :=
  forL cs (fun c d => d.later i.h i.n (i.cyc + c.lam) (.cond c.cn c.mask c.v)) d

/-! ## The rows -/

/-- A lane op by itself. -/
def Dev.laneRow (d : Dev) (s : Site) (o : LaneOp) (opc : Nat) (f : Issue → LaneOp → Nat → Work → Work) : Dev :=
  d.siteOp s 3 fun i => siteEach s fun x w => f i o x (countLane i o opc x w)

/-- ADD (R70, R119). -/
def execAdd (s : Site) (o : LaneOp) (st : State) : Host.Outcome State Fault Refusal := st.act fun d => d.laneRow s o 0x01 addOn
/-- SUB. -/
def execSub (s : Site) (o : LaneOp) (st : State) : Host.Outcome State Fault Refusal := st.act fun d => d.laneRow s o 0x02 subOn
/-- MUL. -/
def execMul (s : Site) (o : LaneOp) (st : State) : Host.Outcome State Fault Refusal := st.act fun d => d.laneRow s o 0x03 mulOn
/-- FMA. -/
def execFma (s : Site) (o : LaneOp) (st : State) : Host.Outcome State Fault Refusal := st.act fun d => d.laneRow s o 0x04 fmaOn
/-- MIN. -/
def execMin (s : Site) (o : LaneOp) (st : State) : Host.Outcome State Fault Refusal := st.act fun d => d.laneRow s o 0x05 minOn
/-- MAX. -/
def execMax (s : Site) (o : LaneOp) (st : State) : Host.Outcome State Fault Refusal := st.act fun d => d.laneRow s o 0x06 maxOn
/-- NEG. -/
def execNeg (s : Site) (o : LaneOp) (st : State) : Host.Outcome State Fault Refusal := st.act fun d => d.laneRow s o 0x07 negOn
/-- AND. -/
def execAnd (s : Site) (o : LaneOp) (st : State) : Host.Outcome State Fault Refusal := st.act fun d => d.laneRow s o 0x08 andOn
/-- OR. -/
def execOr (s : Site) (o : LaneOp) (st : State) : Host.Outcome State Fault Refusal := st.act fun d => d.laneRow s o 0x09 orOn
/-- XOR. -/
def execXor (s : Site) (o : LaneOp) (st : State) : Host.Outcome State Fault Refusal := st.act fun d => d.laneRow s o 0x0A xorOn
/-- SHL. -/
def execShl (s : Site) (o : LaneOp) (st : State) : Host.Outcome State Fault Refusal := st.act fun d => d.laneRow s o 0x0B shlOn
/-- SHR. -/
def execShr (s : Site) (o : LaneOp) (st : State) : Host.Outcome State Fault Refusal := st.act fun d => d.laneRow s o 0x0C shrOn
/-- SEL. -/
def execSel (s : Site) (o : LaneOp) (st : State) : Host.Outcome State Fault Refusal := st.act fun d => d.laneRow s o 0x0D selOn
/-- CMP. -/
def execCmp (s : Site) (o : LaneOp) (st : State) : Host.Outcome State Fault Refusal := st.act fun d => d.laneRow s o 0x0E cmpOn
/-- PLOG. -/
def execPlog (s : Site) (o : LaneOp) (st : State) : Host.Outcome State Fault Refusal := st.act fun d => d.laneRow s o 0x0F plogOn
/-- MOVI. -/
def execMovi (s : Site) (o : LaneOp) (st : State) : Host.Outcome State Fault Refusal := st.act fun d => d.laneRow s o 0x10 moviOn
/-- LANEID. -/
def execLaneid (s : Site) (o : LaneOp) (st : State) : Host.Outcome State Fault Refusal :=
  st.act fun d => d.laneRow s o 0x11 laneidOn
/-- CVT (R106 to R109). -/
def execCvt (s : Site) (o : LaneOp) (st : State) : Host.Outcome State Fault Refusal := st.act fun d => d.laneRow s o 0x12 cvtOn
/-- SFU (R385). -/
def execSfu (s : Site) (o : LaneOp) (st : State) : Host.Outcome State Fault Refusal := st.act fun d => d.laneRow s o 0x13 sfuOn
/-- RED (R71). -/
def execRed (s : Site) (o : LaneOp) (st : State) : Host.Outcome State Fault Refusal := st.act fun d => d.laneRow s o 0x14 redOn
/-- SHUF. -/
def execShuf (s : Site) (o : LaneOp) (st : State) : Host.Outcome State Fault Refusal := st.act fun d => d.laneRow s o 0x15 shufOn
/-- RAND (R128). -/
def execRand (s : Site) (o : LaneOp) (st : State) : Host.Outcome State Fault Refusal := st.act fun d => d.laneRow s o 0x16 randOn
/-- TOPK (R72). -/
def execTopk (s : Site) (o : LaneOp) (st : State) : Host.Outcome State Fault Refusal := st.act fun d => d.laneRow s o 0x17 topkOn
/-- DISP (R73, R145). -/
def execDisp (s : Site) (o : LaneOp) (st : State) : Host.Outcome State Fault Refusal := st.act fun d => d.laneRow s o 0x18 dispOn
/-- DCLR (R145). -/
def execDclr (s : Site) (o : LaneOp) (st : State) : Host.Outcome State Fault Refusal := st.act fun d => d.laneRow s o 0x19 dclrOn

/-- A condition op by itself: it samples at the end of its cycle. -/
def Dev.condRow (d : Dev) (s : Site) (o : LaneOp) (opc : Nat) (f : Issue → Dev → Option CondW × Dev) : Dev :=
  if d.siteOk s then
    let i := d.issueOf s.c
    let d := d.oneOp s.c 4 fun i w => siteEach s (countLane i o opc) w
    let r := f i d
    condLater i r.1.toList r.2
  else d

/-- CSET (R74, R75). -/
def execCset (s : Site) (o : LaneOp) (st : State) : Host.Outcome State Fault Refusal :=
  st.act fun d => d.condRow s o 0x1A fun i d => (csetOf i s o d, d)
/-- CIDX (R74). -/
def execCidx (s : Site) (o : LaneOp) (st : State) : Host.Outcome State Fault Refusal :=
  st.act fun d => d.condRow s o 0x1B fun i d => (cidxOf i s o d, d)
/-- CFLAG (R74, R121). -/
def execCflag (s : Site) (o : LaneOp) (st : State) : Host.Outcome State Fault Refusal :=
  st.act fun d => d.condRow s o 0x1C fun _ d => cflagOf s o d

def Effect.isCond : Effect → Bool
  | .cond _ _ _ => true
  | _ => false

/-- CONDITION_WRITE: the next condition write of a context comes about (R74). -/
def execConditionWrite (c : CtxId) (st : State) : Host.Outcome State Fault Refusal :=
  st.act fun d => d.landNext c Effect.isCond

end Sys2Proof.Machine
end

