-- ==== Sys2Proof/Machine/Barrov.lean ====
section
/-! DEFINITION. The Barrov transport and collectives (10_barrov_network.md, R195 to R205, R209): launches, rendezvous,
messages, stripes, results and the ends of ops. -/

namespace Sys2Proof.Machine

/-! ## Frames -/

/-- The 32 B header of a received frame as it stands on the wire (Table 10-2). -/
def barrovHdrBytes (t : Nat) (h : BarrovHdr) (flags : Nat) : List Byte :=
  beBytes 1 h.ver.toNat ++ beBytes 1 t ++ beBytes 1 h.op.toNat ++ beBytes 1 flags ++ beBytes 4 h.gid.toNat ++
    beBytes 2 h.src.toNat ++ beBytes 2 h.dst.toNat ++ beBytes 4 h.epoch.toNat ++ beBytes 4 h.seq.toNat ++
    beBytes 1 h.stripe.toNat ++ beBytes 1 h.dtype.toNat ++ beBytes 2 h.plen.toNat ++ beBytes 8 h.off.toNat

/-- EPOCH ‖ SRC ‖ DST ‖ STRIPE ‖ SEQ[23:0] (R198). -/
def frameNonce (h : BarrovHdr) : BitVec 96 :=
  BitVec.ofNat 96 (h.epoch.toNat * 2 ^ 64 + h.src.toNat * 2 ^ 48 + h.dst.toNat * 2 ^ 32 + h.stripe.toNat * 2 ^ 24 +
    h.seq.toNat % 2 ^ 24)

/-- The payload of a DATA or FAR_RSP frame, if it passes its seal (R198); slot 0xFFFF is unsealed. -/
def Dev.unseal (d : Dev) (slot p t : Nat) (f : BarrovFrame) (begun : Bool) : Option (List Byte) :=
  if slot = 0xFFFF then some f.payload
  else match d.slotFor slot p 4 begun with
    | none => none
    | some k =>
      Config.gcmDec k (frameNonce f.hdr) (barrovHdrBytes t f.hdr (Nat.lor f.hdr.flags.toNat 1)) f.payload f.gcmTag

/-- Port of the first stripe to a member of group g: the lowest up port of its set. -/
def Dev.firstPort (d : Dev) (g : Nat) : Nat := (d.upPorts (d.grpPorts g)).headD 48

/-- The group of the partition's context on the other hemisphere: the one that the member table of g names for rank r, of the
same size, rank and table entries (log 107). -/
def Dev.twin (d : Dev) (g r : Nat) : Option Nat :=
  ((List.range 256).map fun k => g / 256 * 256 + k).find? fun k =>
    k != g && d.grpOn k && d.grpRank k == r && d.grpMem k == d.grpMem g && d.grpHemi k != d.grpHemi g &&
      d.member k (d.grpRank g) == (0xFFFF, d.grpHemi g)

/-- A frame of group g to member `peer`, with the header fields of its op. -/
def Dev.frameTo (d : Dev) (ftype g epoch peer op dtype : Nat) (payload : List Byte) : SentFrame :=
  let gid := d.reg (rBrvGid g)
  { port := d.firstPort g, ftype, g, epoch, peer, stripe := 0, seq := 0, flags := 0, payload, op, gid, src := d.grpRank g, dtype,
    net := some (d.netTo (g / 256) (d.member g peer).1 gid 0) }

/-! ## Ends of ops (R202, R203) -/

/-- A record that ends an op on its tag: its value is the epoch, or the tag for DEADLINE (Table 13-5). -/
def brvRec (p g bidx n tag cause value : Nat) : ErrRec :=
  { part := some p, cls := clsRequest, cause, block := 8, unit := g, det := detail 0 bidx n tag value }

/-- The op of a group's epoch. -/
def Dev.job (d : Dev) (g epoch : Nat) : Option BarrovJob := d.brv.jobs.find? fun j => j.g == g && j.epoch == epoch

/-- Replaces a job's record. -/
def Dev.setJob (d : Dev) (j : BarrovJob) : Dev :=
  { d with brv := { d.brv with jobs := d.brv.jobs.map fun x => if x.g = j.g ∧ x.epoch = j.epoch then j else x } }

/-- Everything held of an epoch of a group is dropped. -/
def Dev.dropEpoch (d : Dev) (g epoch : Nat) : Dev :=
  Dev.sweepErasing { d with brv := { d.brv with
    jobs := d.brv.jobs.filter fun j => !(j.g == g && j.epoch == epoch),
    stripes := d.brv.stripes.filter fun s => !(s.id.g.toNat == g && s.id.epoch.toNat == epoch),
    early := d.brv.early.filter fun r => !(r.g == g && r.epoch == epoch),
    aborted := d.brv.aborted.filter fun x => x != (g, epoch) } }

/-- The ABORT of a member reaches group g: its op of the epoch will end with ABORT, and the group is in fault (R202). -/
def Dev.hearAbort (d : Dev) (g epoch : Nat) : Dev :=
  let aborted := (d.brv.aborted.filter fun x => x != (g, epoch)) ++ [(g, epoch)]
  let d := if epoch < d.grpEpoch g && (d.job g epoch).isNone then d else { d with brv := { d.brv with aborted } }
  (d.setGrpState g 2).setGrpCause g 7

/-- ABORT goes to a member: over its port, or to the partition's other context. -/
def Dev.sendAbort (d : Dev) (g epoch peer op : Nat) : Dev :=
  if d.remote g peer then d.send (d.frameTo 6 g epoch peer op 0 [])
  else match d.twin g peer with
    | some k => d.hearAbort k epoch
    | none => d

/-- ABORT goes to the members named, and the group is in STATE fault with a cause; `none` leaves FCAUSE. -/
def Dev.faultGroup (d : Dev) (g epoch : Nat) (fc : Option Nat) (ranks : List Nat) (op : Nat := 0) : Dev :=
  let d := forL ranks (fun r d => d.sendAbort g epoch r op) d
  let d := d.setGrpState g 2
  match fc with | some c => d.setGrpCause g c | none => d

/-- The members whose RDV of an epoch has arrived. -/
def Dev.earlyRanks (d : Dev) (g epoch : Nat) : List Nat :=
  (d.brv.early.filter fun r => r.g == g && r.epoch == epoch).map Rdv.rank

/-- The op of a job leaves its tag in error. -/
def Dev.failRequest (d : Dev) (j : BarrovJob) : Dev :=
  d.modCtxFor (j.g / 256) j.c.h.val j.c.n.val fun c =>
    ({ c with requests := c.requests.filter fun r => r.kind != ReqKind.barrov j.g j.epoch } : Ctx).markErr j.o.tag.toNat

/-- A launched op ends with a record: its tag, ABORT to its members, and its group's fault (R202); a parity chord ends its
command with the record's cause (R205). -/
def Dev.endJobWith (d : Dev) (j : BarrovJob) (fc : Option Nat) (r : ErrRec) : Dev :=
  let fail := (d.failRequest j)
  let d := if j.parity.isSome then d else fail
  let d := (d.dropEpoch j.g j.epoch).faultGroup j.g j.epoch fc j.met (j.op + j.o.rop.toNat * 16)
  match j.parity with
  | some y => d.finishSeq y.seq (some clsRequest) r.cause (detail 0 0 0 0 j.epoch)
  | none => d.record r

/-- A launched op ends with a cause. -/
def Dev.endJob (d : Dev) (j : BarrovJob) (cause : Nat) (fc : Option Nat) : Dev :=
  d.endJobWith j fc (brvRec (j.g / 256) j.g j.bidx j.c.n.val j.o.tag.toNat cause (if cause = 0x51 then j.o.tag.toNat else j.epoch))

/-! ## Messages (R197, R200, R204, R205)

Reductions run along the chain: each member passes its running sums to its successor, and the last one's result comes back.
A gather passes what is known of each side to the other, a broadcast leaves its root in both directions, and A2A sends each
member its block; the spec gives what a message of A2A and of a parity chord holds, and the rest is the model's (log 107). -/

/-- The rendezvous set of an op: every other member for A2A, else the chain neighbours; the chain of a parity chord goes from
its last data member to every parity member (R201, R205). -/
def rdvSet (op n rank : Nat) (parity : Option ParityRun := none) : List Nat :=
  match parity with
  | none => (List.range n).filter fun r => r != rank && (op == 5 || r + 1 == rank || r == rank + 1)
  | some y => (List.range n).filter fun r =>
      if rank < y.n then r + 1 == rank || (r == rank + 1 && decide (r < y.n)) || (rank + 1 == y.n && decide (y.n ≤ r)) else r + 1 == y.n

/-- Bytes of the message of member a to member b. -/
def messageLen (j : BarrovJob) (n a b : Nat) : Nat :=
  match j.parity with
  | some y => if b < a then 0 else if b < y.n then y.r * j.len else j.len
  | none =>
    match j.op with
    | 5 => j.o.slot.toNat * 64
    | 3 => if a < b then (a + 1) * j.len else (n - a) * j.len
    | 4 => if (a < b ∧ j.o.root.toNat ≤ a) ∨ (b < a ∧ a ≤ j.o.root.toNat) then j.len else 0
    | _ => if a < b ∧ j.o.dtype.toNat = 1 then 2 * j.len else j.len

/-- The message of member r, once all of it has arrived. -/
def Dev.messageFrom (d : Dev) (j : BarrovJob) (r : Nat) : Option (List Byte) :=
  let got := (d.brv.stripes.filter fun s => s.id.g.toNat == j.g && s.id.epoch.toNat == j.epoch && s.id.peer.toNat == r).flatMap StripeSt.got
  let len := messageLen j (d.grpMem j.g) r (d.grpRank j.g)
  if got.length = len then some ((List.range len).map fun i => alGet 0 got i) else none

/-- One step of a reduction: the running FP32 sum and the contribution of a member. -/
def chordStep (rop s c : Nat) : Nat × Ev :=
  match rop with
  | 1 => maxLane true 0 s c
  | 2 => maxLane false 0 s c
  | _ => let r := f32Add s c; (r.code, r.ev)

/-- A BF16 contribution widened to FP32, its subnormals flushed (R104). -/
def widenBf16 (x : Nat) : Nat × Ev :=
  let fl := (readElem 1 x).2
  (if fl then x / 2 ^ 15 * 2 ^ 31 else x * 2 ^ 16, { fin := b2n fl })

/-- The running value of one element at a member: its contribution at the first of the chain, else one step from its
predecessor's; with the events that the member's engine raises (R204). -/
def chordElem (rop : Nat) (bf : Bool) (before : Option Nat) (c : Nat) : Nat × Ev :=
  let w := if bf then widenBf16 c else (c, {})
  match before with
  | none => w
  | some s => let r := chordStep rop s w.1; (r.1, w.2.add r.2)

/-- The result of one element at the last member: rounded to BF16 with round-to-nearest-even and SAT = 0, or FP32 with the
canonical NaN (R99, R204). -/
def chordEnd (bf : Bool) (x : Nat × Ev) : Nat × Ev :=
  if bf then let v := convert 1 .even false (readF32 x.1).1; (v.code, x.2.add v.ev)
  else (if (readF32 x.1).1.isNan then 0x7FC00000 else x.1, x.2)

/-- The running sums at a member, from its predecessor's. -/
def chordRun (j : BarrovJob) (own : List Byte) (before : Option (List Byte)) : List (Nat × Ev) :=
  let bf := j.o.dtype.toNat == 1
  let w := if bf then 2 else 4
  (List.range (j.len / w)).map fun k =>
    chordElem j.o.rop.toNat bf (before.map fun b => leAt b (4 * k) 4) (leAt own (w * k) w)

/-- The bytes of running sums. -/
def sumBytes (l : List (Nat × Ev)) : List Byte := l.flatMap fun x => leBytes 4 x.1

/-- The result of a reduction from the last member's running sums. -/
def resultOf (j : BarrovJob) (l : List (Nat × Ev)) : List Byte :=
  let bf := j.o.dtype.toNat == 1
  l.flatMap fun x => leBytes (if bf then 2 else 4) (chordEnd bf x).1

/-- The Cauchy coefficient c_(j,i). -/
def cauchy (j i : Nat) : Nat := gfInv (Nat.xor (0x10 + j) i)

/-- Data member i adds its shard into running parity j (R205). -/
def parityStep (j i : Nat) (shard before : List Byte) : List Byte :=
  (List.range (shard.length / 2)).flatMap fun k =>
    leBytes 2 (Nat.xor (leAt before (2 * k) 2) (gfMul (cauchy j i) (leAt shard (2 * k) 2)))

/-- The running parities at a data member, from its predecessor's. -/
def parityRun (y : ParityRun) (rank len : Nat) (shard before : List Byte) : List Byte :=
  (List.range y.r).flatMap fun k => parityStep k rank shard (slice before (k * len) len)

/-- What arrived from the member before, nothing at the first. -/
def Dev.fromPrev (d : Dev) (j : BarrovJob) : Option (Option (List Byte)) :=
  let rank := d.grpRank j.g
  if rank = 0 then some none else (d.messageFrom j (rank - 1)).map some

/-- What arrived from the member after, nothing at the last. -/
def Dev.fromNext (d : Dev) (j : BarrovJob) : Option (Option (List Byte)) :=
  let rank := d.grpRank j.g
  if d.grpMem j.g ≤ rank + 1 then some none else (d.messageFrom j (rank + 1)).map some

/-- The result of a reduction, at the last member of the chain from its own sums, elsewhere as it comes back. -/
def Dev.chordResult (d : Dev) (j : BarrovJob) (own : List Byte) : Option (List Byte) :=
  (d.fromNext j).bind fun next => match next with
    | some b => some b
    | none => (d.fromPrev j).map fun before => resultOf j (chordRun j own before)

/-- The message to member b, once what it depends on is known. -/
def Dev.message (d : Dev) (j : BarrovJob) (b : Nat) : Option (List Byte) :=
  let rank := d.grpRank j.g
  if messageLen j (d.grpMem j.g) rank b = 0 then some [] else
  j.own.bind fun own =>
    match j.parity with
    | some y => (d.fromPrev j).map fun before =>
        let ps := parityRun y rank j.len own (before.getD [])
        if b < y.n then ps else slice ps ((b - y.n) * j.len) j.len
    | none =>
      match j.op with
      | 5 => some (slice own (b * (j.o.slot.toNat * 64)) (j.o.slot.toNat * 64))
      | 3 => if rank < b then (d.fromPrev j).map fun x => x.getD [] ++ own else (d.fromNext j).map fun x => own ++ x.getD []
      | 4 => if j.o.root.toNat = rank then some own
        else if rank < b then (d.fromPrev j).bind id else (d.fromNext j).bind id
      | _ => if rank < b then (d.fromPrev j).map fun before => sumBytes (chordRun j own before) else d.chordResult j own

/-- What an op leaves at dst, once it is known (Table 10-3, R205): nothing at a data member of a parity chord. -/
def Dev.jobResult (d : Dev) (j : BarrovJob) : Option (List Byte) :=
  let n := d.grpMem j.g
  let rank := d.grpRank j.g
  match j.parity with
  | some y => if rank < y.n then (j.own.bind fun _ => (d.fromPrev j).map fun _ => []) else d.messageFrom j (y.n - 1)
  | none =>
    j.own.bind fun own =>
      match j.op with
      | 5 =>
        let b := j.o.slot.toNat * 64
        ((List.range n).mapM fun r => if r = rank then some (slice own (rank * b) b) else d.messageFrom j r).map List.flatten
      | 3 => (d.fromPrev j).bind fun x => (d.fromNext j).map fun y => x.getD [] ++ own ++ y.getD []
      | 4 => if j.o.root.toNat = rank then some own
        else if j.o.root.toNat < rank then (d.fromPrev j).bind id else (d.fromNext j).bind id
      | 1 => (d.chordResult j own).map fun b => slice b (rank * (j.len / n)) (j.len / n)
      | _ => d.chordResult j own

/-- The events that this member's engine raised in a reduction: of its additions, and of the rounding at the last member. -/
def Dev.jobEvents (d : Dev) (j : BarrovJob) : Ev :=
  match j.own, d.fromPrev j with
  | some own, some before =>
    if j.parity.isSome ∨ 2 < j.op then {} else
    let bf := j.o.dtype.toNat == 1
    (chordRun j own before).foldl (fun e x => e.add (if d.grpRank j.g + 1 = d.grpMem j.g then chordEnd bf x else x).2) {}
  | _, _ => {}

/-! ## Stripes (R197) -/

/-- The stripe of an identifier. -/
def Dev.stripe (d : Dev) (id : StripeId) : Option StripeSt := d.brv.stripes.find? fun s => s.id == id

/-- Replaces a stripe's state, or adds it. -/
def Dev.setStripe (d : Dev) (s : StripeSt) : Dev :=
  let known := d.brv.stripes.any fun t => t.id == s.id
  let stripes := if known then d.brv.stripes.map fun t => if t.id = s.id then s else t else d.brv.stripes ++ [s]
  { d with brv := { d.brv with stripes } }

/-- A stripe of which nothing is sent. -/
def StripeSt.recv (id : StripeId) (port : Nat) : StripeSt :=
  { id, data := [], off := 0, frames := 0, acked := 0, retries := 0, port, rnr := false, rate := 0, cutAt := 0, expect := 0,
    sinceAck := 0, ce := false, got := [] }

/-- First byte of stripe s of `k` (R197). -/
def stripeAt (len k s : Nat) : Nat := if s = k then len else s * len / k / 64 * 64

/-- Line rate of a port in Mb/s (Table 10-1). -/
def Dev.lineRate (d : Dev) (n : Nat) : Nat :=
  match d.fld (rPortCfg n) 30 28 with | 1 => 200000 | 2 => 400000 | 3 => 800000 | _ => 0

/-- Identifier of a stripe. -/
def stripeId (g epoch peer s : Nat) : StripeId :=
  { g := BitVec.ofNat 12 g, epoch := BitVec.ofNat 32 epoch, peer := BitVec.ofNat 16 peer, stripe := BitVec.ofNat 8 s }

/-- The stripes of the message to a peer over the ports given, with what each has received so far. -/
def Dev.stripesTo (d : Dev) (g epoch peer : Nat) (msg : List Byte) (ports : List Nat) : List StripeSt :=
  let k := ports.length
  let len := msg.length
  (List.range k).map fun s =>
    let n := ports.getD s 0
    let id := stripeId g epoch peer s
    let lo := stripeAt len k s
    let data := slice msg lo (stripeAt len k (s + 1) - lo)
    { (d.stripe id).getD (StripeSt.recv id n) with
      data, off := lo, frames := ceilDiv data.length (d.grpPayload g), port := n, rate := d.lineRate n }

/-- Frame k of a stripe (R196 to R198): every frame but the last carries the full payload; FIRST and LAST mark its ends, and
a sealed group seals it. -/
def Dev.dataFrame (d : Dev) (s : StripeSt) (k : Nat) : SentFrame :=
  let g := s.id.g.toNat
  let pay := d.grpPayload g
  let peer := s.id.peer.toNat
  let st := s.id.stripe.toNat
  let op := (d.job g s.id.epoch.toNat).map fun j => (j.op + j.o.rop.toNat * 16, j.o.dtype.toNat)
  let f := d.frameTo 1 g s.id.epoch.toNat peer (op.getD (0, 0)).1 (op.getD (0, 0)).2 (slice s.data (k * pay) pay)
  let f := { f with port := s.port, stripe := st, seq := k, flags := b2n (k == 0) * 2 + b2n (k + 1 == s.frames) * 4,
                    off := s.off + k * pay, net := some (d.netTo (g / 256) (d.member g peer).1 f.gid st) }
  if d.grpKey g = 0xFFFF then f
  else match d.slotFor (d.grpKey g) (g / 256) 4 true with
    | some key => f.seal key
    | none => f

/-- Sends the frames of a stripe from frame `first` on. -/
def Dev.sendFrames (d : Dev) (s : StripeSt) (first : Nat) : Dev :=
  forL ((List.range s.frames).drop first) (fun k d => d.send (d.dataFrame s k)) d

/-- The sender goes back to its first unacknowledged frame and sends from there on: RETX counts the frames. -/
def Dev.resend (d : Dev) (s : StripeSt) : Dev :=
  let d := (d.setStripe s).sendFrames s s.acked
  if s.port < 48 then (d.portCount s.port 6 (s.frames - s.acked)).countPort s.port 5 noSub (s.frames - s.acked) else d

/-- A retry of the first unacknowledged frame of a stripe: beyond BRV_TMO.RETRY the op ends with RETRY (R203). -/
def Dev.retry (d : Dev) (s : StripeSt) : Dev :=
  if d.fld rBrvTmo 19 16 ≤ s.retries then
    match d.job s.id.g.toNat s.id.epoch.toNat with
    | some j => d.endJob j 0x22 (some 4)
    | none => d
  else d.resend { s with retries := s.retries + 1 }

/-- Acknowledges frames before `seq`. -/
def StripeSt.ackTo (s : StripeSt) (seq : Nat) : StripeSt :=
  let a := min seq s.frames
  if s.acked < a then { s with acked := a, retries := 0, rnr := false } else s

/-- Every stripe this member sends for an epoch is acknowledged. -/
def Dev.allAcked (d : Dev) (g epoch : Nat) : Bool :=
  d.brv.stripes.all fun s => !(s.id.g.toNat == g && s.id.epoch.toNat == epoch) || decide (s.frames ≤ s.acked)

/-- The set of a job's messages. -/
def Dev.jobSet (d : Dev) (j : BarrovJob) : List Nat := rdvSet j.op (d.grpMem j.g) (d.grpRank j.g) j.parity

/-- An op still needs a port: it has a member behind one, and has not exchanged all of its data. -/
def Dev.needsPort (d : Dev) (j : BarrovJob) : Bool :=
  (d.jobSet j).any (fun r => d.remote j.g r) && (!j.data || !d.allAcked j.g j.epoch || (d.jobResult j).isNone)

/-- The message to a member goes out: cut into stripes over the ports that are up, or into the hands of the partition's
other context. -/
def Dev.sendMessage (d : Dev) (j : BarrovJob) (b : Nat) (msg : List Byte) : Dev :=
  let d := d.setJob { j with sent := j.sent ++ [b], met := if j.met.contains b then j.met else j.met ++ [b] }
  if d.remote j.g b then
    let ports := d.upPorts (d.grpPorts j.g)
    if msg.isEmpty then d
    else forL (d.stripesTo j.g j.epoch b msg ports) (fun s d => (d.setStripe s).sendFrames s 0) d
  else match d.twin j.g b with
    | none => d
    | some k =>
      let id := stripeId k j.epoch (d.grpRank j.g) 0
      d.setStripe { StripeSt.recv id 48 with got := placeBytes 0 msg }

/-- The messages of an op in its data phase that can go out do, each once. -/
def Dev.push (d : Dev) (j : BarrovJob) : Dev :=
  forL (d.jobSet j) (fun b d =>
    match d.job j.g j.epoch with
    | none => d
    | some j => if j.sent.contains b then d else match d.message j b with
      | some msg => d.sendMessage j b msg
      | none => d) d

/-! ## Rendezvous (R201) -/

/-- What this member's RDV says. -/
def Dev.ownRdv (d : Dev) (j : BarrovJob) : Rdv :=
  { g := j.g, epoch := j.epoch, rank := d.grpRank j.g, op := j.op + j.o.rop.toNat * 16, dtype := j.o.dtype.toNat,
    len := j.len, slot := j.o.slot.toNat, root := j.o.root.toNat, nmem := d.grpMem j.g }

/-- Payload of an RDV frame. -/
def rdvBytes (r : Rdv) : List Byte :=
  beBytes 8 r.len ++ beBytes 4 r.slot ++ beBytes 2 r.root ++ beBytes 2 r.nmem ++ List.replicate 16 0

/-- Holds an RDV for the op of its epoch. -/
def Dev.keepRdv (d : Dev) (r : Rdv) : Dev :=
  let early := (d.brv.early.filter fun x => !(x.g == r.g && x.epoch == r.epoch && x.rank == r.rank)) ++ [r]
  { d with brv := { d.brv with early } }

/-- RDV goes to a member: over its port, or to the partition's other context. -/
def Dev.sendRdv (d : Dev) (j : BarrovJob) (peer : Nat) : Dev :=
  let own := d.ownRdv j
  if d.remote j.g peer then d.send (d.frameTo 5 j.g j.epoch peer own.op own.dtype (rdvBytes own))
  else match d.twin j.g peer with
    | some k => d.keepRdv { own with g := k }
    | none => d

/-- Bytes an op writes at dst (Table 10-3). -/
def resultBytes (op n len : Nat) : Nat :=
  if op = 1 then len / n else if op = 3 then n * len else len

/-- A stripe of a message of this op would carry more than 2^24 frames (R198). -/
def Dev.tooLong (d : Dev) (j : BarrovJob) : Bool :=
  let k := max 1 (d.upPorts (d.grpPorts j.g)).length
  (d.jobSet j).any fun b => d.remote j.g b && decide (2 ^ 24 * d.grpPayload j.g * k < messageLen j (d.grpMem j.g) (d.grpRank j.g) b)

/-- The key of an op's group serves it (R243). -/
def Dev.keyed (d : Dev) (j : BarrovJob) : Bool :=
  d.grpKey j.g == 0xFFFF || (d.slotFor (d.grpKey j.g) (j.g / 256) 4).isSome

/-- The contribution of this member is there to be read: all of it has come from the peer that holds it. -/
def Dev.sourceHere (d : Dev) (j : BarrovJob) : Bool :=
  !isFar j.src || (d.winTarget (j.g / 256) j.src).1 != 1 || decide (j.len ≤ j.far.length)

/-- The bytes of this member's contribution. -/
def Dev.sourceBytes (d : Dev) (j : BarrovJob) : List Byte :=
  if isFar j.src && (d.winTarget (j.g / 256) j.src).1 == 1 then (List.range j.len).map fun i => alGet 0 j.far i
  else d.gread (j.g / 256) j.src j.len

/-- The data phase of a job begins (R197, R203): its key must still serve, and its contribution is read, which a repair holds
and an uncorrectable granule ends (R174, R184). A parity member contributes nothing. -/
def Dev.beginData (d : Dev) (j : BarrovJob) : Dev :=
  let reads := match j.parity with | some y => decide (d.grpRank j.g < y.n) | none => true
  if !d.keyed j then d.endJob j 0x14 (some 6)
  else if !reads then d.setJob { j with data := true, own := some [] }
  else if !d.sourceHere j then d
  else if d.chanHeld j.src j.len then d.hold (.barrov j.g j.epoch)
  else
    let x := d.readRim 0 j.src j.len
    match x.2 with
    | [] =>
      let d := x.1.setJob { j with data := true, own := some (x.1.sourceBytes j) }
      if isFar j.src then { d with fresh := d.fresh + 1 } else d
    | g :: _ => x.1.endJobWith j none (ueRec (some (j.g / 256)) g.1 0 j.bidx j.c.n.val j.o.tag.toNat g.2)

/-- A launched op that is not waiting compares the RDV frames of its set that have arrived (R201): a disagreement ends it, a
whole set that agrees begins its data phase. A bundle's op that has not begun its rendezvous waits until its partition is
resident (R285). -/
def Dev.rendezvous (d : Dev) (j : BarrovJob) : Dev :=
  if j.waiting || j.data || (!j.begun && j.parity.isNone && d.partState (j.g / 256) != 1) then d else
  let own := d.ownRdv j
  let set := d.jobSet j
  let rs := d.brv.early.filter fun r => r.g == j.g && r.epoch == j.epoch && set.contains r.rank
  let heard := (rs.map Rdv.rank).eraseDups
  let j := { j with heard, begun := !heard.isEmpty, met := (j.met ++ heard).eraseDups }
  let d := d.setJob j
  if rs.any (fun r => { r with rank := own.rank } != own) then d.endJob j 0x20 (some 2)
  else if set.all (fun r => heard.contains r) then d.beginData j else d

/-- An op takes its place among the 8 epochs in flight: with no port up to a member it ends with UNREACHABLE, with a message
too long for its key with KEY, before any frame (R198, R203); else its RDV goes out. -/
def Dev.letBegin (d : Dev) (j : BarrovJob) : Dev :=
  let j := { j with waiting := false }
  let d := d.setJob j
  let set := d.jobSet j
  if set.any (fun r => d.remote j.g r) && (d.upPorts (d.grpPorts j.g)).isEmpty then d.endJob j 0x23 (some 5)
  else if d.grpKey j.g != 0xFFFF && d.tooLong j then d.endJob j 0x14 (some 6)
  else
    let d := forL set (fun r d => d.sendRdv j r) d
    d.setJob { j with met := (j.met ++ set).eraseDups }

/-- The next waiting op of a group, in launch order, begins when fewer than 8 are in flight and its partition is resident; a
group with no op left is idle again. -/
def Dev.nextJob (d : Dev) (g : Nat) : Dev :=
  let js := d.brv.jobs.filter fun j => j.g == g
  if js.isEmpty then (if d.grpFault g then d else d.setGrpState g 0)
  else if countIf (fun j => !j.waiting) js < 8 then
    match js.find? fun j => j.waiting with
    | some j => if j.parity.isSome || d.partState (g / 256) == 1 then d.letBegin j else d
    | none => d
  else d

/-- An op goes on as far as it can: an ABORT of its epoch ends it, a waiting one begins in its turn, then its rendezvous, then
its messages. -/
def Dev.stepJob (d : Dev) (j : BarrovJob) : Dev :=
  if d.brv.aborted.contains (j.g, j.epoch) then d.endJob j 0x29 (some 7)
  else if j.data then d.push j
  else if j.waiting then d
  else d.rendezvous j

/-- The ops of partition p go on; four rounds carry what its two contexts exchange with one another. -/
def Dev.advance (d : Dev) (p : Nat) : Dev :=
  forN 4 (fun _ d =>
    let mine := d.brv.jobs.filter fun j => j.g / 256 == p
    let d := forL mine (fun j d => match d.job j.g j.epoch with | some j => d.stepJob j | none => d) d
    forL ((mine.map BarrovJob.g).eraseDups) (fun g d => d.nextJob g) d) d

/-- An op ends, its group's next one begins, and the partition's other ops go on. -/
def Dev.endAndGoOn (d : Dev) (j : BarrovJob) (cause : Nat) (fc : Option Nat) : Dev :=
  ((d.endJob j cause fc).nextJob j.g).advance (j.g / 256)

/-! ## Launch (R200) -/

/-- Whether an op breaks a constraint of R200 or Table 10-3. -/
def Dev.barrovBad (d : Dev) (g op : Nat) (h : Nat) (o : BarrovOp) : Bool :=
  let n := d.grpMem g
  let len := o.len.toNat
  !d.grpOn g || h != d.grpHemi g || len % 64 != 0 ||
    (op ≤ 2 && decide (1 < o.dtype.toNat)) ||
    (op == 1 && len % (64 * n) != 0) ||
    (op == 4 && decide (n ≤ o.root.toNat)) ||
    (op == 5 && len != n * o.slot.toNat * 64)

/-- An op ends at its launch: its record, its tag's error, and its group's fault. -/
def launchEnd (i : Issue) (g epoch : Nat) (o : BarrovOp) (cause : Nat) (fc : Option Nat) (value : Nat) (w : Work) : Work :=
  let d := w.1.modCtx i.h i.n fun c => c.markErr o.tag.toNat
  let ranks := d.earlyRanks g epoch
  let d := (d.dropEpoch g epoch).faultGroup g epoch fc ranks
  (d.advance i.p, w.2.err (brvRec i.p g i.bidx i.n o.tag.toNat cause value))

/-- A Barrov op of opcode `op` (R200). An epoch that a member has aborted ends with ABORT, before the group's fault is
looked at (R202). -/
def barrovOp (op : Nat) (c : CtxId) (i : Issue) (o : BarrovOp) (w : Work) : Work :=
  let g := i.p * 256 + o.grp.toNat
  let len := o.len.toNat
  let src := w.1.gaAddr i.h i.n o.src
  let dst := w.1.gaAddr i.h i.n o.dst
  let w := gaAdvance o.dst o.dpi len (gaAdvance o.src o.spi len w)
  if 1024 ≤ countIf (fun j => j.g / 256 == i.p) w.1.brv.jobs then
    (w.1, w.2.err { part := some i.p, cls := clsPartition, cause := 0x4E, block := 8, unit := g,
                    det := detail 0 i.bidx i.n o.tag.toNat o.grp.toNat })
  else
    let epoch := w.1.grpEpoch g
    let keyed := w.1.grpOn g && w.1.grpKey g != 0xFFFF
    let w0 := w
    let w := w.dev fun d => if epoch = 0xFFFFFFFF then d else d.setGrpEpoch g (epoch + 1)
    if w.1.brv.aborted.contains (g, epoch) then launchEnd i g epoch o 0x29 (some 7) epoch w
    else if w.1.grpFault g then launchEnd i g epoch o 0x24 (some 0xA) epoch w
    else if w.1.barrovBad g op i.h o then launchEnd i g epoch o 0x1 (some 1) epoch w
    else if epoch = 0xFFFFFFFF || (keyed && (w.1.slotFor (w.1.grpKey g) i.p 4).isNone) then
      launchEnd i g epoch o 0x14 (some 6) epoch w
    else
      let n := w.1.grpMem g
      let w' := launch i o.tag.toNat (.barrov g epoch)
        [{ a := src, len, wr := false }, { a := dst, len := resultBytes op n len, wr := true }] [] false w
      if w'.1.nextReq = w0.1.nextReq then
        -- the tag limit or an address refused it: the record stands, and the group is in fault (R202)
        w'.dev fun d => (d.dropEpoch g epoch).faultGroup g epoch none (d.earlyRanks g epoch)
      else w'.dev fun d =>
        let j : BarrovJob := { g, epoch, op, c, o, src, dst, len, bidx := i.bidx, icount := i.icount, waiting := true,
                               begun := false, data := false, heard := [], met := d.earlyRanks g epoch }
        let d := { d with brv := { d.brv with jobs := d.brv.jobs ++ [j] } }
        ((d.setGrpState g 1).nextJob g).advance i.p

/-! ## Completion (R80, R204) -/

/-- Pieces that hold a result and have only to land: cut for a facet's inbound port where they pass one (R17). Their source is
no address. -/
def filledPieces (dst : Nat) (bs : List Byte) : List Piece :=
  (piecesOf (2 ^ 48) [dst] bs.length).map fun q =>
    { q with rd := q.len, got := placeBytes 0 (slice bs (q.src - 2 ^ 48) q.len) }

/-- The result of an op stands before its facet's port, or is written to rim memory; with nothing left to land its request is
complete. -/
def Dev.landResult (d : Dev) (j : BarrovJob) (bs : List Byte) : Dev :=
  let h := j.c.h.val
  let n := j.c.n.val
  match (d.ctx h n).requests.find? fun r => r.kind == .barrov j.g j.epoch with
  | none => d
  | some r =>
    let r := { r with pieces := filledPieces j.dst bs, cut := true }
    let d := d.setRequest h n r
    (forL r.pieces (fun q d => d.landPiece h n r q fun a => !isLs a) d).retire h n r.id

/-- A Barrov op whose data has been exchanged completes (R80): its events are raised, its result lands, and the next op of the
group begins; a parity member stores its shard, and the command completes (R205). -/
def Dev.completeJob (d : Dev) (j : BarrovJob) (bs : List Byte) : Dev :=
  let site : NevSite := { unit := 5, facet := 0, bidx := j.bidx, ctx := j.c.n.val, icount := j.icount, tctx := 0 }
  let d := d.raise (j.g / 256) (hitsOf site [(d.jobEvents j, 0, 0)])
  let d := match j.parity with
    | none => d.landResult j bs
    | some y => (d.gwrite j.dst bs).finishSeq y.seq none 0 0
  ((d.dropEpoch j.g j.epoch).nextJob j.g).advance (j.g / 256)

/-- Completes the op of an epoch where its data has been exchanged, once no repair holds what it writes (R80, R184); one
whose source a repair held goes on. -/
def Dev.opComplete (d : Dev) (g epoch : Nat) : Dev :=
  match d.job g epoch with
  | none => d
  | some j =>
    if !j.data then d.advance (g / 256)
    else if !d.allAcked g epoch || !((d.jobSet j).all fun b => j.sent.contains b) then d
    else match d.jobResult j with
      | none => d
      | some bs =>
        if d.chanHeld j.dst bs.length then d.hold (.barrov g epoch) else d.completeJob j bs

/-! ## Rates (R193) -/

/-- One reduction of a rate in Mb/s. -/
def Dev.cutRate (d : Dev) (r : Nat) : Nat :=
  max (r * (256 - d.fld rBrvCc 7 0) / 256) (d.fld rBrvCc 31 24 * 1000)

/-- One increase. -/
def Dev.raiseRate (d : Dev) (r line : Nat) : Nat := min (r + d.fld rBrvCc 23 8 * 100) line

/-- Whether 50 µs have passed since a time held as time + 1, 0 for never. -/
def Dev.past50 (d : Dev) (t : Nat) : Bool := t == 0 || decide (t - 1 + 50000 ≤ d.now)

/-- A CE echo or CNP reduces the rate of a stripe, at most once per 50 µs. -/
def Dev.cutStripe (d : Dev) (x : StripeSt) : Dev :=
  if d.past50 x.cutAt then
    (d.setStripe { x with rate := d.cutRate x.rate, cutAt := d.now + 1 }).countPort x.port 0xA noSub 1
  else d

/-! ## Received frames -/

/-- A frame whose VER is not 1 or whose PLEN is above the payload size is discarded (R196). -/
def frameOk (f : BarrovFrame) (limit : Nat) : Bool :=
  f.hdr.ver == 1 && decide (f.hdr.plen.toNat ≤ limit)

/-- A frame is discarded and counted in FCS_ERR. -/
def Dev.dropFrame (d : Dev) (f : BarrovFrame) : Dev := (d.portCount f.port.val 2).portErr f.port.val 1

/-- A port takes a frame for the partition that holds it, and an absorbed port takes none (R187). -/
def Dev.takes (d : Dev) (f : BarrovFrame) : Bool := !d.ganged f.port.val && d.portPart f.port.val == some f.p.val

/-- Stripe identifier that a frame of group g names, its sender as the peer. -/
def frameStripe (g : Nat) (f : BarrovFrame) : StripeId :=
  { g := BitVec.ofNat 12 g, epoch := f.hdr.epoch, peer := f.hdr.src, stripe := f.hdr.stripe }

/-- Answers a frame on its own stripe: ACK 2, NAK 3, RNR 4. -/
def Dev.answer (d : Dev) (f : BarrovFrame) (g ftype seq flags : Nat) : Dev :=
  let x := d.frameTo ftype g f.hdr.epoch.toNat f.hdr.src.toNat f.hdr.op.toNat 0 []
  d.send { x with port := f.port.val, stripe := f.hdr.stripe.toNat, seq, flags,
                  net := some (d.netTo (g / 256) (d.member g f.hdr.src.toNat).1 x.gid f.hdr.stripe.toNat) }

/-- A frame of a group: acts on the group it names, if that is enabled; a malformed one is discarded (R196). -/
def Dev.onGroup (d : Dev) (f : BarrovFrame) (act : Nat → Dev) : Dev :=
  if !d.takes f then d else
  match d.groupOf f.p.val f.hdr.gid.toNat with
  | none => if f.hdr.ver == 1 then d else d.dropFrame f
  | some g => if frameOk f (d.grpPayload g) then act g else d.dropFrame f

/-- A frame has been exchanged with a member. -/
def Dev.meet (d : Dev) (g epoch rank : Nat) : Dev :=
  match d.job g epoch with
  | some j => d.setJob { j with met := if j.met.contains rank then j.met else j.met ++ [rank] }
  | none => d

/-- The receive buffer of a port is full: a frame has no buffer (log 106). -/
def Dev.noBuffer (d : Dev) (n : Nat) : Bool := decide (1024 ≤ (d.port n).occ.foldl (fun s e => s + e.2) 0)

/-- DATA (R197): delivered in order and acknowledged, NAKed on a gap, RNR before its op or without a buffer. -/
def Dev.onData (d : Dev) (f : BarrovFrame) (g : Nat) : Dev :=
  match d.unseal (d.grpKey g) f.p.val 1 f (match d.job g f.hdr.epoch.toNat with | some j => j.data | none => false) with
  | none => (d.portCount f.port.val 4).portErr f.port.val 3
  | some bs =>
    let epoch := f.hdr.epoch.toNat
    let seq := f.hdr.seq.toNat
    match d.job g epoch with
    | none => if epoch < d.grpEpoch g ∧ !d.grpFault g then d.answer f g 2 (seq + 1) 0 else d.answer f g 4 seq 0
    | some j =>
      if j.waiting || d.noBuffer f.port.val then d.answer f g 4 seq 0 else
      let d := d.meet g epoch f.hdr.src.toNat
      let s := (d.stripe (frameStripe g f)).getD (StripeSt.recv (frameStripe g f) f.port.val)
      if s.expect < seq then (d.setStripe s).answer f g 3 s.expect 0
      else
        let s := if seq = s.expect then
            { s with expect := seq + 1, sinceAck := s.sinceAck + 1, got := s.got ++ placeBytes f.hdr.off.toNat bs }
          else s
        let d := if bit f.hdr.flags.toNat 2 || decide (16 ≤ s.sinceAck) || seq + 1 != s.expect then
            (d.setStripe { s with sinceAck := 0, ce := false }).answer f g 2 s.expect (8 * b2n s.ce)
          else d.setStripe s
        d.advance (g / 256)

/-- RDV (R201): held for the op of its epoch and compared with it. -/
def Dev.onRdv (d : Dev) (f : BarrovFrame) (g : Nat) : Dev :=
  let b := f.payload
  let r : Rdv := { g, epoch := f.hdr.epoch.toNat, rank := f.hdr.src.toNat, op := f.hdr.op.toNat, dtype := f.hdr.dtype.toNat,
                   len := beNat (slice b 0 8), slot := beNat (slice b 8 4), root := beNat (slice b 12 2),
                   nmem := beNat (slice b 14 2) }
  if r.epoch < d.grpEpoch g ∧ (d.job g r.epoch).isNone then d else (d.keepRdv r).advance (g / 256)

/-- ABORT (R202). -/
def Dev.onAbort (d : Dev) (f : BarrovFrame) (g : Nat) : Dev := (d.hearAbort g f.hdr.epoch.toNat).advance (g / 256)

/-! ## Far-tier reads (R181, R198, R209, R292) -/

/-- Bytes of one sector's reserve of p. -/
def Dev.rsvBytes (d : Dev) (p : Nat) : Nat := d.reg (rPsvRsv p) * (256 * MiB)

/-- The held sectors of p, in increasing number. -/
def Dev.heldSectors (d : Dev) (p : Nat) : List Nat := (List.range 16).filter fun g => d.holds p g

/-- The rim address that an offset of p's reserves names in reserve mode (R292). -/
def Dev.reserveAddr (d : Dev) (p o : Nat) : Option Nat :=
  if d.rsvBytes p = 0 then none
  else ((d.heldSectors p)[o / d.rsvBytes p]?).map fun g => d.reserveLo p g + o % d.rsvBytes p

/-- The rim address at which serve window k of p presents a requested address, if it does (Table 10-5). -/
def Dev.serveAt (d : Dev) (p k a : Nat) : Option Nat :=
  let v := d.reg (rBrvServe p k)
  let sz := bits v 79 74
  if sz < 12 ∨ 43 < sz then none
  else if bit v 80 then (if a < 2 ^ sz then d.reserveAddr p a else none)
  else if bits v 47 0 ≤ a ∧ a < bits v 47 0 + 2 ^ sz then some a else none

/-- The rim addresses that a FAR_REQ reads, or none where a byte lies outside the serve windows. -/
def Dev.served (d : Dev) (p a n : Nat) : Option (List Nat) :=
  (List.range n).mapM fun i => (List.range 4).findSome? fun k => d.serveAt p k (a + i)

/-- The entry of p's peers with a source address. -/
def Dev.peerAt (d : Dev) (p : Nat) (ip : BitVec 128) : Option Nat :=
  (List.range 16384).find? fun i =>
    d.flag (rBrvPeer i) 255 && d.fld (rBrvPeer i) 253 250 == p && d.fld (rBrvPeer i) 127 0 == ip.toNat

/-- How a FAR_REQ of a peer is answered: the key that seals the answer, none for plaintext under the export-clear policy; or
the cause that refuses it (R1, R198, R243; log 106). -/
def Dev.farKey (d : Dev) (p : Nat) (ip : BitVec 128) : Except Nat (Option (BitVec 256)) :=
  match d.peerAt p ip with
  | none => .error 0x6
  | some i =>
    let slot := d.fld (rBrvPeer i) 175 160
    if slot = 0xFFFF then (if d.flag (rCusPol p) 63 then .ok none else .error 0x14)
    else match d.slotFor slot p 4 with
      | some k => .ok (some k)
      | none => .error 0x14

/-- FAR_RSP to a FAR_REQ: its bytes sealed, or the cause of the refusal in SEQ (log 106). -/
def Dev.farAnswer (d : Dev) (f : BarrovFrame) (peer : Nat) (key : Option (BitVec 256)) (seq : Nat) (payload : List Byte) : Dev :=
  let r : SentFrame := { port := f.port.val, ftype := 8, g := 0, epoch := f.hdr.epoch.toNat, peer := f.hdr.src.toNat,
                         stripe := f.hdr.stripe.toNat, seq, flags := 0, payload, op := 7, off := f.hdr.off.toNat,
                         net := some (d.netTo f.p.val peer 0 f.hdr.stripe.toNat) }
  d.send (match key with | some k => r.seal k | none => r)

/-- FAR_REQ (R209): PLEN bytes at OFF are served from the serve windows, or the refusal is answered; an uncorrectable granule
refuses it with its cause (R174). -/
def Dev.onFarReq (d : Dev) (f : BarrovFrame) : Dev :=
  let p := f.p.val
  let peer := (d.peerAt p f.ip).getD 0
  match d.farKey p f.ip, d.served p f.hdr.off.toNat f.hdr.plen.toNat with
  | .error c, _ => d.farAnswer f peer none c []
  | .ok k, none => d.farAnswer f peer k 6 []
  | .ok k, some as =>
    let gs := (as.map fun a => a / 64 * 64).eraseDups
    let x := forL gs (fun g (x : Dev × Bool) => let y := x.1.readAgent g 64; (y.1, x.2 && y.2)) (d, true)
    if x.2 then x.1.farAnswer f peer k 0 (as.map fun a => x.1.rim.byte a) else x.1.farAnswer f peer k 0x38 []

/-- The far-tier address that a request still reads from: of its index list while nothing else has been read, of a piece, of
a prefetch, or of a Barrov op's source (R181). -/
def Dev.farAt (d : Dev) (r : Request) : Option Nat :=
  let fresh := r.pieces.all fun q => q.rd == 0
  match (if fresh then r.list else none), r.pieces.find? (fun q => isFar q.src && q.rd != q.len), r.kind with
  | some a, _, _ => some a
  | none, some q, _ => some (q.src + q.rd)
  | none, none, .prefetch src _ => if isFar src then some src else none
  | none, none, .barrov g epoch => (d.job g epoch).bind fun j => if isFar j.src && j.own.isNone then some j.src else none
  | none, none, _ => none

/-- The far-tier read that a FAR_RSP answers: a request of p with that number that reads a peer's rim. -/
def Dev.farRead (d : Dev) (p num : Nat) : Option (Owned × Nat) :=
  d.allRequests.findSome? fun x =>
    if (d.ctx x.h x.n).part = p ∧ x.r.id % 2 ^ 32 = num then
      ((d.farAt x.r).filter fun a => (d.winTarget p a).1 == 1).map fun a => (x, a)
    else none

/-- The far-tier read of a request fails and ends that request alone (R181). -/
def Dev.farFail (d : Dev) (x : Owned) (a cause value : Nat) : Dev :=
  let p := (d.ctx x.h x.n).part
  let d := match x.r.kind with
    | .barrov g epoch => (match d.job g epoch with
        | some j => (((d.dropEpoch g epoch).faultGroup g epoch none j.met).nextJob g).advance p
        | none => d)
    | _ => d
  let d := (d.dropRequest x.h x.n x.r.id).modCtx x.h x.n fun c => c.markErr x.r.tag
  d.record { part := some p, cls := clsRequest, cause, block := 9, unit := winOf a,
             det := detail a x.r.bidx x.n x.r.tag value }

/-- Bytes of a far-tier read from the peer's address `off` on are delivered to a piece that covers them: with the last of them
it is written, or stands before its facet's port. -/
def Dev.deliver (d : Dev) (x : Owned) (q : Piece) (off : Nat) (bs : List Byte) : Dev :=
  let o := off - (d.winTarget (d.ctx x.h x.n).part q.src).2 % 2 ^ 48
  let bs := (placeBytes o bs).filter fun e => decide (e.1 < q.len) && !(q.got.any fun y => y.1 == e.1)
  let q' := { q with rd := q.rd + bs.length, got := q.got ++ bs }
  let d := d.swapPiece x.h x.n x.r.id q (some q')
  if q'.rd = q'.len then d.landPiece x.h x.n x.r q' (fun a => !isLs a) else d

/-- Bytes of a FAR_RSP go to the piece of the request that reads there, or to the contribution of its Barrov op. -/
def Dev.farDeliver (d : Dev) (x : Owned) (off : Nat) (bs : List Byte) : Dev :=
  let p := (d.ctx x.h x.n).part
  match x.r.kind with
  | .barrov g epoch => (match d.job g epoch with
    | none => d
    | some j =>
      let o := off - (d.winTarget p j.src).2 % 2 ^ 48
      let bs := (placeBytes o bs).filter fun e => decide (e.1 < j.len) && !(j.far.any fun y => y.1 == e.1)
      (d.setJob { j with far := j.far ++ bs }).advance p)
  | _ =>
    match x.r.pieces.find? fun q => isFar q.src && q.rd != q.len &&
        (let t := (d.winTarget p q.src).2 % 2 ^ 48; decide (t ≤ off ∧ off < t + q.len)) with
    | none => d
    | some q => d.deliver x q off bs

/-- KEYSLOT of the peer that a window address reaches. -/
def Dev.winKey (d : Dev) (p a : Nat) : Nat := d.fld (rBrvPeer ((d.winTarget p a).2 / 2 ^ 48 % 2 ^ 14)) 175 160

/-! ## The rows -/

/-- RSCAT (R204). -/
def execRscat (c : CtxId) (o : BarrovOp) (st : State) : Host.Outcome State Fault Refusal :=
  st.act fun d => d.ctxOp c fun i => barrovOp 1 c i o

/-- ARED (R204). -/
def execAred (c : CtxId) (o : BarrovOp) (st : State) : Host.Outcome State Fault Refusal :=
  st.act fun d => d.ctxOp c fun i => barrovOp 2 c i o

/-- AGATH (R200). -/
def execAgath (c : CtxId) (o : BarrovOp) (st : State) : Host.Outcome State Fault Refusal :=
  st.act fun d => d.ctxOp c fun i => barrovOp 3 c i o

/-- BCAST (R200). -/
def execBcast (c : CtxId) (o : BarrovOp) (st : State) : Host.Outcome State Fault Refusal :=
  st.act fun d => d.ctxOp c fun i => barrovOp 4 c i o

/-- A2A (R200). -/
def execA2a (c : CtxId) (o : BarrovOp) (st : State) : Host.Outcome State Fault Refusal :=
  st.act fun d => d.ctxOp c fun i => barrovOp 5 c i o

/-- DATA (R197). -/
def execData (f : BarrovFrame) (st : State) : Host.Outcome State Fault Refusal :=
  st.act fun d => d.onGroup f fun g => d.onData f g

/-- ACK (R193, R197): everything before SEQ is acknowledged, and a CE echo reduces the stripe's rate. -/
def execAck (f : BarrovFrame) (st : State) : Host.Outcome State Fault Refusal :=
  st.act fun d => d.onGroup f fun g =>
    match d.stripe (frameStripe g f) with
    | none => d
    | some s =>
      let s := s.ackTo f.hdr.seq.toNat
      let d := d.setStripe s
      if bit f.hdr.flags.toNat 3 then d.cutStripe s else d

/-- NAK (R197): everything before the missing frame is acknowledged, and the sender goes back to it. -/
def execNak (f : BarrovFrame) (st : State) : Host.Outcome State Fault Refusal :=
  st.act fun d => d.onGroup f fun g =>
    match d.stripe (frameStripe g f) with
    | none => d
    | some s =>
      let s := s.ackTo f.hdr.seq.toNat
      if s.frames ≤ s.acked then d.setStripe s else ((d.retry s).nextJob g).advance (g / 256)

/-- RNR (R197): everything before the refused frame is acknowledged, and it is retried after RNR_US. -/
def execRnr (f : BarrovFrame) (st : State) : Host.Outcome State Fault Refusal :=
  st.act fun d => d.onGroup f fun g =>
    match d.stripe (frameStripe g f) with
    | none => d
    | some s => d.setStripe { s.ackTo f.hdr.seq.toNat with rnr := true }

/-- RDV (R201). -/
def execRdv (f : BarrovFrame) (st : State) : Host.Outcome State Fault Refusal :=
  st.act fun d => d.onGroup f fun g => (d.onRdv f g).nextJob g

/-- ABORT (R202). -/
def execAbort (f : BarrovFrame) (st : State) : Host.Outcome State Fault Refusal :=
  st.act fun d => d.onGroup f fun g => (d.onAbort f g).nextJob g

/-- FAR_REQ (R209). -/
def execFarReq (f : BarrovFrame) (st : State) : Host.Outcome State Fault Refusal :=
  st.act fun d => if !d.takes f then d else if !frameOk f 4096 then d.dropFrame f else d.onFarReq f

/-- FAR_RSP (R181, R198): the bytes are delivered to the read they answer; a refusal in SEQ ends it with that cause. -/
def execFarRsp (f : BarrovFrame) (st : State) : Host.Outcome State Fault Refusal :=
  st.act fun d =>
    if !d.takes f then d else
    if !frameOk f 4096 then d.dropFrame f else
    match d.farRead f.p.val f.hdr.epoch.toNat with
    | none => d
    | some (x, a) =>
      if f.hdr.seq != 0 then d.farFail x a f.hdr.seq.toNat 0 else
      match d.unseal (d.winKey f.p.val a) f.p.val 8 f false with
      | none => (d.portCount f.port.val 4).portErr f.port.val 3
      | some bs => d.farDeliver x f.hdr.off.toNat bs

/-- FAR_READ_FAIL (R181): the far-tier read of a request fails and ends that request. -/
def execFarReadFail (c : CtxId) (tag : BitVec 6) (why : FarFail) (st : State) : Host.Outcome State Fault Refusal :=
  st.act fun d =>
    let h := c.h.val
    let n := c.n.val
    match ((d.ctx h n).onTag tag.toNat).findSome? fun r => (d.farAt r).map fun a => (r, a) with
    | none => d
    | some (r, a) =>
      let cv : Nat × Nat := match why with
        | .barrov k => (k.toNat, 0)
        | .pcie s => (0x3A, s)
        | .flashUe page => (0x3B, page)
        | .bounds => (0x6, 0)
      d.farFail { h, n, r } a cv.1 cv.2

/-- RTO_TIMEOUT (R197). -/
def execRtoTimeout (s : StripeId) (st : State) : Host.Outcome State Fault Refusal :=
  st.act fun d =>
    match d.stripe s with
    | none => d
    | some x => if x.frames ≤ x.acked then d else ((d.retry x).nextJob s.g.toNat).advance (s.g.toNat / 256)

/-- RNR_RETRY_TIMER (R197): the refused frame is sent again, and no retry is counted. -/
def execRnrRetryTimer (s : StripeId) (st : State) : Host.Outcome State Fault Refusal :=
  st.act fun d =>
    match d.stripe s with
    | none => d
    | some x => if x.rnr then d.resend { x with rnr := false } else d

/-- RENDEZVOUS_TIMEOUT (R201): a rendezvous that has begun and is not complete ends its op. -/
def execRendezvousTimeout (g : BitVec 12) (epoch : BitVec 32) (st : State) : Host.Outcome State Fault Refusal :=
  st.act fun d =>
    match d.job g.toNat epoch.toNat with
    | some j => if j.begun && !j.data then d.endAndGoOn j 0x21 (some 3) else d
    | none => d

/-- OPTMO_TIMEOUT (R203). -/
def execOptmoTimeout (g : BitVec 12) (epoch : BitVec 32) (st : State) : Host.Outcome State Fault Refusal :=
  st.act fun d =>
    match d.job g.toNat epoch.toNat with
    | some j => d.endAndGoOn j 0x21 (some 3)
    | none => d

/-- BARROV_OP_COMPLETE (R80). -/
def execBarrovOpComplete (g : BitVec 12) (epoch : BitVec 32) (st : State) : Host.Outcome State Fault Refusal :=
  st.act fun d => d.opComplete g.toNat epoch.toNat

end Sys2Proof.Machine
end

