-- ==== Sys2Proof/Machine/Gates.lean ====
section
/-! DEFINITION. The clock gates (18_clocks.md, R330, R331, Table 18-5). -/

namespace Sys2Proof.Machine

/-- The parent of a gate of Table 18-5; none for a gate that a PLL feeds. -/
def gateParent (x : Nat) : Option Nat :=
  if x < 2 then none
  else if x < 18 then some ((x - 2) / 8)
  else if x < 20 then some (x - 18)
  else if x = 20 then none
  else if x < 29 then some 20
  else if x < 77 then some (21 + (x - 29) / 6)
  else if x = 77 then none
  else if x < 83 then some 77
  else if x = 83 then none
  else if x < 100 then some 83
  else none

/-- The children of a gate. -/
def gateChildren (x : Nat) : List Nat := (List.range 100).filter fun y => gateParent y == some x

/-- The gates, every child before its parent. -/
def gateOrder : List Nat :=
  ((List.range 100).filter fun x => (gateChildren x).isEmpty) ++ ((List.range 8).map fun k => 21 + k) ++ [0, 1, 20, 77, 83]

/-- Gate x passes its clock. -/
def Dev.gateOn (d : Dev) (x : Nat) : Bool := d.flag rClkGateEn x

/-- Gates of SECT_g, BOX_h, PORT_n and ICLS_k. -/
def gSect (g : Nat) : Nat := 2 + g
def gBox (h : Nat) : Nat := 18 + h
def gPort (n : Nat) : Nat := 29 + n
def gIcls (k : Nat) : Nat := if k < 5 then 78 + k else 77

/-- Gate x is in use (R331). -/
def Dev.gateUsed (d : Dev) (x : Nat) : Bool :=
  if 2 ≤ x ∧ x < 18 then (List.range 16).any fun p => d.partValid p && d.holds p (x - 2)
  else if x = 18 ∨ x = 19 then (List.range 16).any fun p => d.partValid p && d.flag (rPrtCfg p) (52 + (x - 18))
  else if 29 ≤ x ∧ x < 77 then d.flag (rPortCfg (x - 29)) 31
  else if 78 ≤ x ∧ x < 83 then d.ing.samples.any fun s => s.stage != 0 && s.cls == x - 78
  else if 84 ≤ x ∧ x < 100 then d.flag (rFlfCore (x - 84)) 63
  else false

/-- A refused gate: REFUSED, COUNT saturating, and the lowest index since REFUSED was last cleared. -/
def Dev.refuseGate (d : Dev) (x : Nat) : Dev :=
  let low := if d.flag rClkGateRef 31 then min (d.fld rClkGateRef 6 0) x else x
  ((d.setFlag rClkGateRef 31 true).setFld rClkGateRef 15 8 (min 255 (d.fld rClkGateRef 15 8 + 1))).setFld rClkGateRef 6 0 low

/-- A write of CLK_GATE_OFF, judged as one act: a gate turns off if its children are off after the write and it is not in
use; otherwise it stays on and is refused. -/
def Dev.gatesOff (d : Dev) (mask : Nat) : Dev :=
  forL gateOrder (fun x (d : Dev) =>
    if !bit mask x || !d.gateOn x then d
    else if (gateChildren x).any (fun y => d.gateOn y) || d.gateUsed x then d.refuseGate x
    else d.setFlag rClkGateEn x false) d

/-- Gate x and its ancestors. -/
def gateLine (x : Nat) : List Nat :=
  match gateParent x with
  | none => [x]
  | some y => match gateParent y with
    | none => [x, y]
    | some z => [x, y, z]

/-- A write of CLK_GATE_ON: the gates named turn on, with every ancestor. -/
def Dev.gatesOn (d : Dev) (mask : Nat) : Dev :=
  forL ((List.range 100).filter fun x => bit mask x) (fun x (d : Dev) =>
    forL (gateLine x) (fun y (d : Dev) => d.setFlag rClkGateEn y true) d) d

end Sys2Proof.Machine
end

