-- ==== Sys2Proof/Machine/MemCmd.lean ====
section
/-! DEFINITION. The commands of the rim-memory controllers (09_memory_tiers.md, R179, R184 to R186). -/

namespace Sys2Proof.Machine

/-- Rows that have met as many corrected errors as a lower CE_THR asks for: each posts its record, which names the first
granule of the row, and its entry is cleared (R175; DESIGN CHOICE, log 101). -/
def Dev.sweepRows (d : Dev) : Dev :=
  let t := d.fld rMemCfg 15 8
  forL d.mem.rows (fun e d =>
    let hot := e.2.filter fun r => decide (t ≤ r.2)
    let d := { d with mem := { d.mem with rows := alSet [] d.mem.rows e.1 (e.2.filter fun r => decide (r.2 < t)) } }
    forL hot (fun r d =>
      let a := rimAddr (e.1 / 32) (e.1 % 32) (r.1 / 128 * 2 ^ 11 + r.1 / 16 % 8 * 2 ^ 8 + r.1 % 16 * 2 ^ 4)
      d.record { part := none, cls := clsCorrected, cause := 0x39, block := 9, unit := e.1 / 32,
                 det := detail a 0 0 0 r.1 }) d) d

/-- A write of MEM_CFG: SCRUB_H beyond 168, CE_THR below 2 and CARVE outside 4 to 16 keep their values. -/
def Dev.writeMemCfg (d : Dev) (v : Nat) : Dev :=
  let old := d.reg rMemCfg
  let s := if bits v 7 0 ≤ 168 then bits v 7 0 else bits old 7 0
  let t := if 2 ≤ bits v 15 8 then bits v 15 8 else bits old 15 8
  let c := if 4 ≤ bits v 20 16 ∧ bits v 20 16 ≤ 16 then bits v 20 16 else bits old 20 16
  (d.setReg rMemCfg (c * 2 ^ 16 + t * 2 ^ 8 + s)).sweepRows

/-- A write of MEM_FW_p_w_CFG: ignored unless the partition is quiet; EN stays 0 with KIND 0 or a size out of
range. -/
def Dev.writeFwCfg (d : Dev) (p w v : Nat) : Dev :=
  if !d.quiet p then d else
  let ok := bits v 30 29 != 0 && decide (12 ≤ bits v 28 23 ∧ bits v 28 23 ≤ 43)
  d.setReg (rMemFwCfg p w) (b2n (bit v 31 && ok) * 2 ^ 31 + bits v 30 23 * 2 ^ 23)

/-- A write of MEM_FW_p_w_TGT. -/
def Dev.writeFwTgt (d : Dev) (p w v : Nat) : Dev := if d.quiet p then d.setReg (rMemFwTgt p w) v else d

/-- MEM_SCRUB_CFG (R185). -/
def execMemScrubCfg (q : QueueN) (st : State) : Host.Outcome State Fault Refusal :=
  st.act fun d => d.cmd q 0x301 [.num 1, .num 1]
    (fun ps => firstBad [(decide (168 < ps.at 0), 0), (decide (ps.at 1 < 2), 1)])
    fun c ps d => (d.writeMemCfg (d.fld rMemCfg 20 16 * 2 ^ 16 + ps.at 1 * 2 ^ 8 + ps.at 0)).done c

/-- FAR_WINDOW (R179): window, kind (0 turns it off), LOG2SZ, target. -/
def execFarWindow (q : QueueN) (st : State) : Host.Outcome State Fault Refusal :=
  st.act fun d => d.cmd q 0x302 [.num 1, .num 1, .num 1, .num 8]
    (fun ps => firstBad [(decide (15 < ps.at 0), 0), (decide (3 < ps.at 1), 1),
      (ps.at 1 != 0 && decide (ps.at 2 < 12 ∨ 43 < ps.at 2), 2)])
    fun c ps d => d.onPart c fun d =>
      if !d.quiet c.part then d.fail c 0x4
      else ((d.writeFwTgt c.part (ps.at 0) (ps.at 3)).writeFwCfg c.part (ps.at 0)
        (2 ^ 31 + ps.at 1 * 2 ^ 29 + ps.at 2 % 64 * 2 ^ 23)).done c

/-- Key of a bank among those of all stacks. -/
def bankKey (x pc die bank : Nat) : Nat := (chanKey x pc * 8 + die) * 16 + bank

/-- A row is copied into a spare unchanged: what of it is uncorrectable is met by the copy, and stays (R184). -/
def Dev.copyRow (d : Dev) (x pc die bank row : Nat) : Dev :=
  forN 16 (fun g (d : Dev) =>
    let a := rimAddr x pc (row * 2 ^ 11 + die * 2 ^ 8 + bank * 2 ^ 4 + g)
    match d.isUe a with
    | none => d
    | some ad => (d.ueCount a 2 ad).ueAgent a 2 ad) d

/-- A switch is in progress of a partition that holds the sector of a pseudo-channel. -/
def Dev.chanSwitching (d : Dev) (x pc : Nat) : Bool :=
  (List.range 16).any fun p => d.switching p && d.holds p (2 * x + pc / 16)

/-- The parameters of STACK_REPAIR: stack, pseudo-channel, die, bank, row, hard. -/
def repairParams : List PKind := [.num 1, .num 1, .num 1, .num 1, .num 2, .num 1]

/-- STACK_REPAIR (R184). A spare row is taken; the channel's requests are held until the repair is done. None starts on a
sector in the course of a switch (R283 step 1). -/
def execStackRepair (q : QueueN) (st : State) : Host.Outcome State Fault Refusal :=
  st.act fun d => d.cmdUnless q (fun c => let ps := c.params repairParams; d.chanSwitching (ps.at 0) (ps.at 1)) fun d =>
    d.cmd q 0x303 repairParams
    (fun ps => firstBad [(decide (7 < ps.at 0), 0), (decide (31 < ps.at 1), 1), (decide (7 < ps.at 2), 2),
      (decide (15 < ps.at 3), 3), (decide (24576 ≤ ps.at 4), 4), (decide (1 < ps.at 5), 5)])
    fun c ps d =>
      let x := ps.at 0
      let pc := ps.at 1
      let bk := bankKey x pc (ps.at 2) (ps.at 3)
      if !d.pcOk x pc || decide (4 ≤ d.mem.spares.get bk) then d.param c 4
      else if d.mem.repairing.any fun r => r.1 == chanKey x pc then d.fail c 0x4
      else
        let d := (d.setFld (rMemStk x) 47 32 (d.fld (rMemStk x) 47 32 - 1)).copyRow x pc (ps.at 2) (ps.at 3) (ps.at 4)
        { d with mem := { d.mem with
          spares := d.mem.spares.add bk 1,
          repairs := d.mem.repairs ++ [(bk * 2 ^ 15 + ps.at 4, ps.at 5)],
          repairing := d.mem.repairing ++ [(chanKey x pc, c.seq, ps.at 5)] } }

/-- MEM_CLEAR_ERR (R185). -/
def execMemClearErr (q : QueueN) (st : State) : Host.Outcome State Fault Refusal :=
  st.act fun d => d.cmd q 0x304 [.num 1] (fun ps => firstBad [(decide (7 < ps.at 0), 0)])
    fun c ps d =>
      let x := ps.at 0
      let d := d.setFld (rMemUecap x) 127 127 0
      (forN 32 (fun k (d : Dev) => (d.setFlag (rMemCe x k) 31 false).setFlag (rMemUe x k) 31 false) d).done c

end Sys2Proof.Machine
end

