-- ==== Sys2Proof/Machine/Sound.lean ====
section
/-! DEFINITION. The resampler and the mel front end of ingest (11_ingest.md, R220 steps 3 and 5): every result is formed from exact
sums of products with constants of 320 fractional bits, and rounded once to FP32 (DESIGN CHOICE, log 110). -/

namespace Sys2Proof.Machine

/-! ## Constants in fixed point -/

/-- arctan (1 / n) in fixed point, by its series. -/
def fixArctanInv (n : Nat) : Int :=
  (forN 240 (fun i (st : Int × Nat) =>
    let t : Int := (st.2 / (2 * i + 1) : Nat)
    (if i % 2 = 0 then st.1 + t else st.1 - t, st.2 / (n * n))) (0, 2 ^ fixBits / n)).1

/-- π in fixed point. -/
def fixPi : Int := 4 * (4 * fixArctanInv 5 - fixArctanInv 239)

/-- cos of 2π a / b in fixed point. -/
def fixCosTurn (a b : Nat) : Int :=
  let t : Int := 2 * fixPi * (a % b : Nat) / b
  let tt := t * t / 2 ^ fixBits
  (forN 64 (fun i (st : Int × Int) =>
    (st.1 + st.2, -(st.2 * tt / 2 ^ fixBits) / ((2 * i + 1) * (2 * i + 2)))) (0, 2 ^ fixBits)).1

/-- sin of 2π a / b in fixed point. -/
def fixSinTurn (a b : Nat) : Int := fixCosTurn (4 * a + 3 * b) (4 * b)

/-- The modified Bessel function I0 of the square root of a fixed-point non-negative z2, by its series. -/
def fixI0 (z2 : Nat) : Nat :=
  (forN 100 (fun i (st : Nat × Nat) =>
    (st.1 + st.2, st.2 * z2 / (4 * (i + 1) * (i + 1) * 2 ^ fixBits))) (0, 2 ^ fixBits)).1

/-- A fixed-point value as an element. -/
def elFix (v : Int) : Elem := Elem.fin (decide (v < 0)) v.natAbs (-(fixBits : Int))

/-- The exact sum of products of samples and fixed-point weights. -/
def weightedSum (l : List (Elem × Int)) : Elem := l.foldl (fun s e => (eAdd s (eMul e.1 (elFix e.2)).1).1) (Elem.zero false)

/-- The natural logarithm of a positive element; infinity and NaN stay. -/
def eLn (v : Elem) : Elem :=
  if v.isNan || v.isInf then v
  else
    let l := eLog2 v
    elFix (l.scaled fixBits * fixLn2 / 2 ^ fixBits)

/-! ## Resampling (R220 step 3) -/

/-- Taps of the filter. -/
abbrev sincTaps : Nat := 64

/-- The weight of a source sample `num / den` samples away, at a cut-off of `cut.1 / cut.2` of the source's: a sinc under a Kaiser
window of β = 8.6 (β² = 73.96) over 32 samples on each side. -/
def sincWeight (num : Int) (den : Nat) (cut : Nat × Nat) : Int :=
  let far := num.natAbs
  if sincTaps / 2 * den < far then 0
  else
    let one : Nat := 2 ^ fixBits
    let half := sincTaps / 2 * den
    let z2 := 7396 * (half * half - far * far) * one / (100 * (half * half))
    let win := fixI0 z2 * one / fixI0 (7396 * one / 100)
    let sinc : Int :=
      if far = 0 then one
      else
        let arg := fixPi * (far * cut.1 : Nat) / (den * cut.2 : Nat)
        fixSinTurn (far * cut.1) (2 * (den * cut.2)) * one / arg
    sinc * win / one * cut.1 / cut.2

/-- One channel of FP32 codes resampled from one rate to another: output m stands at source position m × from / to, and the
cut-off is the lower of the two rates'. Samples outside the channel count as 0. -/
def resample (from_ to_ : Nat) (xs : List Nat) : List Nat :=
  if from_ = to_ ∨ to_ = 0 then xs else
  let cut := if to_ < from_ then (to_, from_) else (1, 1)
  (List.range (ceilDiv (xs.length * to_) from_)).map fun m =>
    let base := m * from_ / to_
    let taps := (List.range sincTaps).filterMap fun j =>
      if base + j + 1 < sincTaps / 2 then none
      else
        let k := base + j + 1 - sincTaps / 2
        if xs.length ≤ k then none
        else some ((readF32 (xs.getD k 0)).1, sincWeight ((m * from_ : Nat) - (k * to_ : Nat)) to_ cut)
    (toF32 .even (weightedSum taps)).code

/-! ## Mel frames (R220 step 5) -/

/-- The power of bin k of a Hann-windowed frame of n samples. -/
def powerAt (n k : Nat) (frame : List Elem) : Elem :=
  let one : Int := 2 ^ fixBits
  let win (i : Nat) : Int := (one - fixCosTurn i n) / 2
  let part (w : Nat → Int) : Elem := weightedSum (((List.range n).zip frame).map fun e => (e.2, win e.1 * w e.1 / one))
  let re := part fun i => fixCosTurn (k * i) n
  let im := part fun i => fixSinTurn (k * i) n
  (eAdd (eMul re re).1 (eMul im im).1).1

/-- ln (1 + f / 700) of a frequency num / den, to which the HTK mel scale is proportional. -/
def fixMel (num den : Nat) : Int := (eLn (Elem.fin false ((700 * den + num) * 2 ^ fixBits / (700 * den)) (-(fixBits : Int)))).scaled fixBits

/-- The weight of filter j of `n` in a bin of frequency num / den: a triangle on the mel scale whose corners are the filters'
neighbours, from fmin to fmax. -/
def melWeight (n fmin fmax j num den : Nat) : Int :=
  let one : Int := 2 ^ fixBits
  let lo := fixMel fmin 1
  let at_ := (fixMel num den - lo) * (n + 1) * one / (fixMel fmax 1 - lo)
  let off : Int := at_ - (j + 1) * one
  if one ≤ off.natAbs then 0 else one - off.natAbs

/-- The values of one mel frame under a MEL register: NFFT samples of a channel at `rate` from `start`. -/
def melFrame (nfft nmel fmin fmax floor rate : Nat) (xs : List Nat) : List Nat :=
  let frame := xs.map fun x => (readF32 x).1
  let powers := (List.range (nfft / 2 + 1)).map fun k => powerAt nfft k frame
  (List.range nmel).map fun j =>
    let e := weightedSum (((List.range powers.length).zip powers).map fun e => (e.2, melWeight nmel fmin fmax j (e.1 * rate) nfft))
    let least := Elem.fin false 1 (-(floor : Int))
    let e := if e.isNan then e else if eCmp e least < 0 then least else e
    (toF32 .even (eLn e)).code

end Sys2Proof.Machine
end

