-- ==== Sys2Proof/Machine/Media.lean ====
section
/-! DEFINITION. What ingest computes from a decoded sample: sample descriptors, image and audio transforms, patches,
and the tokeniser (11_ingest.md, R211, R212, R219 to R222). -/

namespace Sys2Proof.Machine

/-! ## FP32 arithmetic of the transforms (R219: each step rounds to nearest even) -/

def fAdd (a b : Nat) : Nat := (f32Add a b).code
def fMul (a b : Nat) : Nat := (toF32 .even (eMul (readF32 a).1 (readF32 b).1).1).code
def fNeg (a : Nat) : Nat := Nat.xor a 0x80000000
/-- The FP32 value nearest to a natural number. -/
def fNat (n : Nat) : Nat := (toF32 .even (Elem.fin false n 0)).code
/-- The quotient of two finite elements, exact but for a sticky last bit; a zero divisor gives infinity. -/
def eDiv (a b : Elem) : Elem :=
  let s := a.neg != b.neg
  if a.isNan || b.isNan || (a.isZero && b.isZero) || (a.isInf && b.isInf) then Elem.nan
  else if a.isZero || b.isInf then Elem.zero s
  else if a.isInf || b.isZero then Elem.infinity s
  else
    let k := Nat.log2 b.m + 64
    let q := a.m * 2 ^ k / b.m
    Elem.fin s (2 * q + b2n (a.m * 2 ^ k % b.m != 0)) (a.x - b.x - k - 1)
def fDiv (a b : Nat) : Nat := (toF32 .even (eDiv (readF32 a).1 (readF32 b).1)).code
/-- Whether a < b. -/
def fLt (a b : Nat) : Bool := decide (eCmp (readF32 a).1 (readF32 b).1 < 0)
/-- floor of a non-negative FP32 value. -/
def fFloor (a : Nat) : Nat := ((readF32 a).1.scaled 0).toNat
/-- 0.5. -/
abbrev fHalf : Nat := 0x3F000000

/-! ## Descriptors (Table 11-1) -/

/-- Fields of a sample descriptor. -/
def dCodec (s : List Byte) : Nat := leAt s 0 1
def dSrc (s : List Byte) : Nat := leAt s 1 1
def dFlags (s : List Byte) : Nat := leAt s 2 2
def dKey (s : List Byte) : Nat := leAt s 4 2
def dLen (s : List Byte) : Nat := leAt s 0x10 8
def dOid (s : List Byte) : Nat := leAt s 0x18 8
def dRot (s : List Byte) : Nat := leAt s 0x30 1 % 4
def dCh (s : List Byte) : Nat := leAt s 0x31 1
def dOutW (s : List Byte) : Nat := leAt s 0x32 2
def dOutH (s : List Byte) : Nat := leAt s 0x34 2
def dF0 (s : List Byte) : Nat := leAt s 0x68 4
def dNf (s : List Byte) : Nat := leAt s 0x6C 4
def dStep (s : List Byte) : Nat := leAt s 0x70 2
def dRoiW (s : List Byte) : Nat := leAt s 0x72 2
def dRoiH (s : List Byte) : Nat := leAt s 0x74 2
def dDict (s : List Byte) : Nat := leAt s 0x98 1

/-- Kinds of codec. -/
def isImage (k : Nat) : Bool := k == 1 || k == 2
def isVideo (k : Nat) : Bool := decide (3 ≤ k ∧ k ≤ 5)
def isAudio (k : Nat) : Bool := decide (6 ≤ k ∧ k ≤ 9)
def isText (k : Nat) : Bool := k == 0xA

/-- Engine class of a codec (Table 11-5). -/
def codecClass (k : Nat) : Nat := if k = 1 then 0 else if k = 2 then 1 else if k ≤ 5 then 2 else if k ≤ 9 then 3 else 4

/-- Fields of ING_p_RING_r_CFG and _MEL. -/
def cfgPatch (c : Nat) : Nat := match bits c 61 60 with | 0 => 8 | 1 => 14 | 2 => 16 | _ => 32
def cfgOfmt (c : Nat) : Nat := bits c 59 56
def cfgMaxSeg (c : Nat) : Nat := bits c 55 45
def cfgRowTok (c : Nat) : Nat := bits c 44 27
def cfgTokB (c : Nat) : Nat := bits c 26 11
def cfgSplit (c : Nat) : Bool := bit c 62
def melNfft (m : Nat) : Nat := 512 * 2 ^ (bits m 63 62)
def melHop (m : Nat) : Nat := bits m 61 48
def melN (m : Nat) : Nat := bits m 47 40

/-- Whether every byte from `i` to `j - 1` of a descriptor is 0. -/
def zeroFrom (s : List Byte) (i j : Nat) : Bool := leAt s i (j - i) == 0

/-- Whether R212 rejects a descriptor, but for its source and dictionary. -/
def descBad (cfg mel : Nat) (s : List Byte) : Bool :=
  let k := dCodec s
  let img := isImage k || isVideo k
  let p := cfgPatch cfg
  let w := fmtBits (cfgOfmt cfg)
  let fl := dFlags s
  k == 0 || decide (0xA < k) || decide (3 < dSrc s) || decide (31 < fl) ||
    !zeroFrom s 0x24 0x28 || !zeroFrom s 0x36 0x38 || !zeroFrom s 0x76 0x78 || !zeroFrom s 0x99 0x100 ||
    (!isVideo k && (bit fl 0 || !zeroFrom s 0x68 0x76)) ||
    (!isText k && (fl / 2 != 0 || !zeroFrom s 0x98 0x99)) ||
    (!isAudio k && !zeroFrom s 0x78 0x98) ||
    (isAudio k && k != 9 && !zeroFrom s 0x92 0x98) ||
    (!img && !zeroFrom s 0x28 0x68) ||
    (img && (decide (31 < leAt s 0x30 1) || (dCh s != 1 && dCh s != 3) ||
      dOutW s == 0 || dOutH s == 0 || dOutW s % p != 0 || dOutH s % p != 0 ||
      decide (8 * cfgTokB cfg < p * p * dCh s * w))) ||
    (isVideo k && (dStep s == 0 || dRoiW s % p != 0 || dRoiH s % p != 0)) ||
    (isAudio k && (decide (leAt s 0x78 4 < 8000) || decide (48000 < leAt s 0x78 4) || decide (1 < leAt s 0x90 1) ||
      leAt s 0x91 1 == 0 || decide (2 < leAt s 0x91 1) ||
      (if leAt s 0x90 1 = 0 then decide (8 * cfgTokB cfg < leAt s 0x91 1 * w)
       else melHop mel == 0 || melN mel == 0 || decide (bits mel 23 8 ≤ bits mel 39 24) ||
         decide (8 * cfgTokB cfg < melN mel * w)))) ||
    (k == 9 && (decide (2 < leAt s 0x92 1) || leAt s 0x93 1 == 0 || decide (8 < leAt s 0x93 1) ||
      decide (leAt s 0x94 4 < 8000) || decide (192000 < leAt s 0x94 4))) ||
    (isText k && decide (3 < dDict s))

/-! ## Images (R219) -/

/-- An image of FP32 words in rows of pixels of three channels: word c of pixel (x, y). -/
structure Img where
  w : Nat
  h : Nat
  px : Nat → Nat → Nat → Nat

/-- A sample of a decoded plane at a pixel of the frame; a subsampled plane is replicated. -/
def Raster.at (g : Raster) (k x y : Nat) : Nat :=
  let sub := k == 1 || k == 2
  let x := if sub then x / max 1 g.subW else x
  let y := if sub then y / max 1 g.subH else y
  let stride := if sub then ceilDiv g.w (max 1 g.subW) else g.w
  (g.planes.getD k []).getD (y * stride + x) 0

/-- A grey, R, G or B sample of a depth on the scale from 0 to 255, in FP32: 16-bit samples are v / 257. -/
def toByteScale (depth v : Nat) : Nat :=
  if depth = 8 then fNat v
  else if depth = 16 then fDiv (fNat v) (fNat 257)
  else fDiv (fNat (v * 255)) (fNat (2 ^ depth - 1))

/-- A decimal constant of n / d in FP32. -/
def fRat (n d : Nat) : Nat := fDiv (fNat n) (fNat d)

/-- Rounded to an integer and clamped to 0 to 255. -/
def fClamp8 (v : Nat) : Nat := fNat (convert 0x9 .even true (readF32 v).1).code

/-- The JFIF equations on 8-bit samples. -/
def jfifRgb (y cb cr c : Nat) : Nat :=
  let l := fNat y
  let b := fAdd (fNat cb) (fNeg (fNat 128))
  let r := fAdd (fNat cr) (fNeg (fNat 128))
  fClamp8 (match c with
    | 0 => fAdd l (fMul (fRat 1402 1000) r)
    | 1 => fAdd (fAdd l (fNeg (fMul (fRat 34414 100000) b))) (fNeg (fMul (fRat 71414 100000) r))
    | _ => fAdd l (fMul (fRat 1772 1000) b))

/-- Kr and Kb in ten-thousandths of the matrix that a VUI numbers: BT.601, BT.2020 non-constant luminance, else BT.709. -/
def lumaCoeffs (matrix : Nat) : Nat × Nat :=
  if matrix = 5 ∨ matrix = 6 then (2990, 1140) else if matrix = 9 then (2627, 593) else (2126, 722)

/-- A video sample on the scale from 0 to 255: luma from its black, chroma from its middle. -/
def videoScale (depth : Nat) (full chroma : Bool) (v : Nat) : Nat :=
  let u := 2 ^ (depth - 8)
  let base := if chroma then 128 * u else if full then 0 else 16 * u
  let span := if full then 2 ^ depth - 1 else if chroma then 224 * u else 219 * u
  fMul (fAdd (fNat v) (fNeg (fNat base))) (fRat 255 span)

/-- R, G or B of a video pixel from its luma and chroma. -/
def videoRgb (depth matrix : Nat) (full : Bool) (y cb cr c : Nat) : Nat :=
  let k := lumaCoeffs matrix
  let kg := 10000 - k.1 - k.2
  let l := videoScale depth full false y
  let b := videoScale depth full true cb
  let r := videoScale depth full true cr
  match c with
  | 0 => fAdd l (fMul (fRat (2 * (10000 - k.1)) 10000) r)
  | 1 => fAdd (fAdd l (fNeg (fMul (fRat (2 * k.2 * (10000 - k.2)) (10000 * kg)) b)))
           (fNeg (fMul (fRat (2 * k.1 * (10000 - k.1)) (10000 * kg)) r))
  | _ => fAdd l (fMul (fRat (2 * (10000 - k.2)) 10000) b)

/-- Step 1: a decoded frame as R, G, B samples from 0 to 255; alpha is dropped. -/
def Raster.img (g : Raster) : Img :=
  { w := g.w, h := g.h, px := fun x y c => match g.form with
    | .grey => toByteScale g.depth (g.at 0 x y)
    | .rgb => toByteScale g.depth ((g.planes.getD c []).getD (y * g.w + x) 0)
    | .jfif => jfifRgb (g.at 0 x y) (g.at 1 x y) (g.at 2 x y) c
    | .video matrix full =>
      if g.planes.length < 3 then videoScale g.depth full false (g.at 0 x y)
      else videoRgb g.depth matrix full (g.at 0 x y) (g.at 1 x y) (g.at 2 x y) c }

/-- Step 2: the CROP window, none where it reaches beyond the frame. -/
def cropImg (s : List Byte) (g : Img) : Option Img :=
  let x0 := leAt s 0x28 2
  let y0 := leAt s 0x2A 2
  let w := leAt s 0x2C 2
  let h := leAt s 0x2E 2
  if w = 0 then some g
  else if g.w < x0 + w ∨ g.h < y0 + h then none
  else some { w, h, px := fun x y => g.px (x0 + x) (y0 + y) }

/-- Step 3: quarter-turns clockwise, then FLIPH, then FLIPV. -/
def orientImg (s : List Byte) (g : Img) : Img :=
  let b := leAt s 0x30 1
  let g : Img := match b % 4 with
    | 1 => { w := g.h, h := g.w, px := fun x y => g.px y (g.h - 1 - x) }
    | 2 => { g with px := fun x y => g.px (g.w - 1 - x) (g.h - 1 - y) }
    | 3 => { w := g.h, h := g.w, px := fun x y => g.px (g.w - 1 - y) x }
    | _ => g
  let g : Img := if bit b 2 then { g with px := fun x y => g.px (g.w - 1 - x) y } else g
  if bit b 3 then { g with px := fun x y => g.px x (g.h - 1 - y) } else g

/-- The two taps of a bilinear filter at output coordinate d: source index and weight. -/
def bilinearTaps (n scale d : Nat) : List (Nat × Nat) :=
  let v := fAdd (fMul (fAdd (fNat d) fHalf) scale) (fNeg fHalf)
  let top := fNat (n - 1)
  let v := if fLt v 0 then 0 else if fLt top v then top else v
  let i := fFloor v
  let f := fAdd v (fNeg (fNat i))
  [(i, fAdd 0x3F800000 (fNeg f)), (min (i + 1) (n - 1), f)]

/-- The taps of an area filter at output coordinate d: each covered source index with the part of it covered. -/
def areaTaps (n scale d : Nat) : List (Nat × Nat) :=
  let lo := fMul (fNat d) scale
  let hi := fMul (fNat (d + 1)) scale
  (List.range n).filterMap fun i =>
    let a := fNat i
    let b := fNat (i + 1)
    let a := if fLt a lo then lo else a
    let b := if fLt hi b then hi else b
    if fLt a b then some (i, fAdd b (fNeg a)) else none

/-- The weighted sum of one output word, by increasing source row, then column. -/
def tapSum (g : Img) (xs ys : List (Nat × Nat)) (c : Nat) : Nat :=
  (ys.flatMap fun y => xs.map fun x => fMul (fMul y.2 x.2) (g.px x.1 y.1 c)).foldl fAdd 0

/-- The sum of the weights of an area filter. -/
def tapWeight (xs ys : List (Nat × Nat)) : Nat :=
  (ys.flatMap fun y => xs.map fun x => fMul y.2 x.2).foldl fAdd 0

/-- Step 4: resized to ow × oh. -/
def resizeImg (s : List Byte) (ow oh : Nat) (g : Img) : Img :=
  let sx := fDiv (fNat g.w) (fNat ow)
  let sy := fDiv (fNat g.h) (fNat oh)
  if bit (leAt s 0x30 1) 4 then
    { w := ow, h := oh, px := fun x y c =>
        let xs := areaTaps g.w sx x
        let ys := areaTaps g.h sy y
        fDiv (tapSum g xs ys c) (tapWeight xs ys) }
  else { w := ow, h := oh, px := fun x y c => tapSum g (bilinearTaps g.w sx x) (bilinearTaps g.h sy y) c }

/-- Step 5: the colour matrix. -/
def colourAt (s : List Byte) (g : Img) (x y c : Nat) : Nat :=
  let m (j : Nat) : Nat := leAt s (0x38 + (c * 4 + j) * 4) 4
  fAdd (fAdd (fAdd (fMul (m 0) (g.px x y 0)) (fMul (m 1) (g.px x y 1))) (fMul (m 2) (g.px x y 2))) (m 3)

/-- Step 6: one word in the ring's format. -/
def toOfmt (ofmt v : Nat) : Nat := (convert ofmt .even true (readF32 v).1).code

/-- Steps 5 to 7: patches in row-major order, elements in (y, x, c) order. -/
def patchTokens (cfg kind crop first : Nat) (s : List Byte) (g : Img) : List Token :=
  let p := cfgPatch cfg
  let o := cfgOfmt cfg
  let nx := g.w / p
  (List.range (nx * (g.h / p))).map fun t =>
    let x0 := t % nx * p
    let y0 := t / nx * p
    let els := (List.range p).flatMap fun y => (List.range p).flatMap fun x =>
      (List.range (dCh s)).map fun c => toOfmt o (colourAt s g (x0 + x) (y0 + y) c)
    { bytes := packBytes (fmtBits o) els, kind, crop, pos := first + t }

/-- An ROI crop of the oriented frame: its corner moved inwards until the crop fits (R226). -/
def roiImg (s : List Byte) (g : Img) (corner : Nat × Nat) : Img :=
  let x0 := min corner.1 (g.w - dRoiW s)
  let y0 := min corner.2 (g.h - dRoiH s)
  { w := dRoiW s, h := dRoiH s, px := fun x y => g.px (x0 + x) (y0 + y) }

/-! ## Audio (R220) -/

/-- Bytes of one PCM sample (Table 11-1). -/
def pcmBytes (s : List Byte) : Nat := match leAt s 0x92 1 with | 0 => 2 | 1 => 3 | _ => 4

/-- Source samples of each channel of a PCM object. -/
def pcmLen (s plain : List Byte) : Nat := plain.length / (pcmBytes s * max 1 (leAt s 0x93 1))

/-- A PCM sample in FP32 of full scale 1; little-endian, the channels interleaved (log 111). -/
def pcmAt (s plain : List Byte) (ch i : Nat) : Nat :=
  let n := pcmBytes s
  let v := leAt plain ((i * leAt s 0x93 1 + ch) * n) n
  if n = 4 then v
  else
    let z := toSigned (8 * n) v
    (toF32 .even (Elem.fin (decide (z < 0)) z.natAbs (1 - (8 * n : Nat)))).code

/-- The channels of a PCM object; none where its last frame is not whole. -/
def pcmChannels (s plain : List Byte) : Option (List (List Nat)) :=
  if plain.length % (pcmBytes s * max 1 (leAt s 0x93 1)) != 0 then none
  else some ((List.range (leAt s 0x93 1)).map fun ch => (List.range (pcmLen s plain)).map fun i => pcmAt s plain ch i)

/-- Steps 1 to 4: each output channel, resampled and scaled. -/
def mixAudio (s : List Byte) (rate : Nat) (chans : List (List Nat)) : List (List Nat) :=
  let start := leAt s 0x80 8
  let n := leAt s 0x88 8
  let sel := chans.map fun c => let c := c.drop start; if n = 0 then c else c.take n
  let len := (sel.headD []).length
  let mixed : List (List Nat) :=
    if leAt s 0x91 1 = 1 then
      let inv := fDiv 0x3F800000 (fNat sel.length)
      [(List.range len).map fun i =>
        let t := match sel with
          | [] => 0
          | c :: cs => cs.foldl (fun a x => fAdd a (x.getD i 0)) (c.getD i 0)
        fMul t inv]
    else [sel.headD [], (sel.drop 1).headD (sel.headD [])]
  mixed.map fun c => (resample rate (leAt s 0x78 4) c).map fun v => fMul v (leAt s 0x7C 4)

/-- Step 5: PCM tokens, or mel frames. -/
def audioTokens (cfg mel : Nat) (s : List Byte) (cs : List (List Nat)) : List Token :=
  let o := cfgOfmt cfg
  let w := fmtBits o
  let ach := leAt s 0x91 1
  let len := (cs.headD []).length
  if leAt s 0x90 1 = 0 then
    let per := 8 * cfgTokB cfg / (ach * w)
    (List.range (ceilDiv len per)).map fun t =>
      let els := (List.range per).flatMap fun i => (List.range ach).map fun c =>
        let k := t * per + i
        if k < len then toOfmt o ((cs.getD c []).getD k 0) else 0
      { bytes := packBytes w els, kind := 5, crop := 0, pos := t }
  else
    let n := max len (melNfft mel)
    let frames := (n - melNfft mel) / melHop mel + 1
    let ms := cs.map fun c => c ++ List.replicate (n - len) 0
    (List.range (frames * ach)).map fun t =>
      let f := melFrame (melNfft mel) (melN mel) (bits mel 39 24) (bits mel 23 8) (bits mel 7 0) (leAt s 0x78 4)
        (slice (ms.getD (t % ach) []) (t / ach * melHop mel) (melNfft mel))
      { bytes := packBytes w (f.map (toOfmt o)), kind := 5, crop := 0, pos := t }

/-! ## Text (R221, R222) -/

/-- COUNT, BYTE_BASE, BOS and EOS of a dictionary image. -/
def dictCount (img : List Byte) : Nat := leAt img 4 4
def dictBase (img : List Byte) : Nat := leAt img 8 4
def dictBos (img : List Byte) : Nat := leAt img 12 4
def dictEos (img : List Byte) : Nat := leAt img 16 4

/-- Where the entries of a dictionary image begin. -/
def dictStart (n : Nat) : Nat := 64 + roundUp n 64

/-- Bytes of a dictionary image of n entries. -/
def dictSize (n : Nat) : Nat := dictStart n + 64 * n

/-- Entry j: its bytes. -/
def dictEntry (img : List Byte) (j : Nat) : List Byte := slice img (dictStart (dictCount img) + 64 * j) (leAt img (64 + j) 1)

/-- Whether R221 rejects a dictionary image. -/
def dictBad (img : List Byte) : Bool :=
  let n := dictCount img
  leAt img 0 4 != 0x54444331 || n == 0 || decide (262144 < n) || decide (0xFFFFFFFF < dictBase img + 255) ||
    leAt img 20 44 != 0 || leAt img (64 + n) (roundUp n 64 - n) != 0 ||
    ((List.range n).any fun j =>
      let l := leAt img (64 + j) 1
      l == 0 || decide (64 < l) || leAt img (dictStart n + 64 * j + l) (64 - l) != 0) ||
    ((List.range n).any fun j => (List.range j).any fun i => dictEntry img i == dictEntry img j)

/-- Length of the UTF-8 sequence that starts a byte string, 0 where none does (RFC 3629). -/
def utf8Len : List Byte → Nat
  | [] => 0
  | a :: l =>
    let a := a.toNat
    let c (i : Nat) : Bool := match l[i]? with | some b => decide (0x80 ≤ b.toNat ∧ b.toNat < 0xC0) | none => false
    let b := match l with | x :: _ => x.toNat | [] => 0
    if a < 0x80 then 1
    else if a < 0xC2 then 0
    else if a < 0xE0 then (if c 0 then 2 else 0)
    else if a < 0xF0 then
      (if c 0 && c 1 && !(a == 0xE0 && decide (b < 0xA0)) && !(a == 0xED && decide (0xA0 ≤ b)) then 3 else 0)
    else if a < 0xF5 then
      (if c 0 && c 1 && c 2 && !(a == 0xF0 && decide (b < 0x90)) && !(a == 0xF4 && decide (0x90 ≤ b)) then 4 else 0)
    else 0

/-- Invalid bytes become U+FFFD; whether there was one. `n` bounds the steps. -/
def utf8Fix : Nat → List Byte → List Byte × Bool
  | 0, l => (l, false)
  | _, [] => ([], false)
  | n + 1, l =>
    let k := utf8Len l
    if k = 0 then
      let r := utf8Fix n (l.drop 1)
      (0xEF :: 0xBF :: 0xBD :: r.1, true)
    else
      let r := utf8Fix n (l.drop k)
      (l.take k ++ r.1, r.2)

/-- Steps 1 to 3 of R222; none where STRICT rejects the text. -/
def prepareText (s : List Byte) (text : List Byte) : Option (List Byte) :=
  let t := if text.take 3 = [0xEF, 0xBB, 0xBF] then text.drop 3 else text
  let r := utf8Fix t.length t
  if r.2 && bit (dFlags s) 4 then none
  else some (if bit (dFlags s) 1 then Config.nfc r.1 else r.1)

/-- Whether `e` begins `l`. -/
def startsWith (e l : List Byte) : Bool := l.take e.length == e

/-- The longest entry that matches: its id and length, none where there is none. -/
def longestMatch (entries : List (List Byte)) (l : List Byte) : Option (Nat × Nat) :=
  ((List.range entries.length).zip entries).foldl (fun m e =>
    if startsWith e.2 l && (match m with | some x => decide (x.2 < e.2.length) | none => true) then some (e.1, e.2.length)
    else m) none

/-- The token ids of a text (R222); `n` bounds the steps. -/
def textIds (entries : List (List Byte)) (base : Nat) : Nat → List Byte → List Nat
  | 0, _ => []
  | _, [] => []
  | n + 1, b :: l =>
    match longestMatch entries (b :: l) with
    | some (id, k) => id :: textIds entries base n ((b :: l).drop k)
    | none => (base + b.toNat) :: textIds entries base n l

/-- The tokens of a text under a dictionary image. -/
def textTokens (s img : List Byte) (text : List Byte) : List Token :=
  let entries := (List.range (dictCount img)).map fun j => dictEntry img j
  let ids := (textIds entries (dictBase img) text.length text).map fun x => (x, 1)
  let ids := (if bit (dFlags s) 2 then [(dictBos img, 6)] else []) ++ ids ++ (if bit (dFlags s) 3 then [(dictEos img, 7)] else [])
  ((List.range ids.length).zip ids).map fun e => { bytes := leBytes 4 e.2.1, kind := e.2.2, crop := 0, pos := e.1 }

/-! ## Streams (R215, R217) -/

/-- Whether a stream's coding, depth and chroma are in its codec's profile (Table 11-5): JPEG processes 0 baseline, 1 progressive
and others; HEVC, AVC and AV1 profiles and levels as their standards number them; the bits, channels and rates of audio
(log 111). -/
def profileOk (k : Nat) (c : StreamInfo) : Bool :=
  let sub := (c.subW, c.subH)
  c.elementary && match k with
  | 1 => decide (c.profile ≤ 1) && c.depth == 8 && (c.comps == 1 || (c.comps == 3 &&
      (sub == (1, 1) || sub == (2, 1) || sub == (2, 2) || sub == (1, 2))))
  | 2 => [1, 2, 4, 8, 16].contains c.depth
  | 3 => decide (1 ≤ c.profile ∧ c.profile ≤ 3 ∧ c.level ≤ 61) && (c.depth == 8 || c.depth == 10) && sub == (2, 2) && c.comps == 3
  | 4 => [66, 77, 100].contains c.profile && decide (c.level ≤ 62) && c.depth == 8 && (c.comps == 1 || sub == (2, 2))
  | 5 => c.profile == 0 && decide (c.level ≤ 63) && (c.depth == 8 || c.depth == 10) && (c.comps == 1 || sub == (2, 2))
  | 6 => decide (1 ≤ c.channels ∧ c.channels ≤ 8 ∧ c.depth ≤ 32)
  | 7 => true
  | 8 => c.profile == 3 && (c.rate == 32000 || c.rate == 44100 || c.rate == 48000)
  | _ => true

/-- What the header of a sample says: of a PCM object its descriptor does, text has none; none where it is malformed. -/
def streamInfo (desc plain : List Byte) : Option StreamInfo :=
  let k := dCodec desc
  let empty : StreamInfo := { profile := 0, level := 0, elementary := true, width := 0, height := 0, depth := 0, comps := 0,
                              subW := 1, subH := 1, channels := 0, rate := 0, samples := 0 }
  if isText k then some empty
  else if k = 9 then some { empty with channels := leAt desc 0x93 1, rate := leAt desc 0x94 4, samples := pcmLen desc plain }
  else Config.header k plain

/-- The limits of Table 11-3 on the size of an image or a video frame. -/
def dimBad (k w h : Nat) : Bool :=
  if isImage k then decide (16384 < w ∨ 16384 < h ∨ 268435456 < w * h)
  else decide (8192 < max w h ∨ 4320 < min w h)

/-- More than 4 h of audio (Table 11-3). -/
def tooLong (rate samples : Nat) : Bool := decide (14400 * rate < samples)

/-- The reason with which a header is rejected, if any (R215, R217). -/
def headerReason (desc plain : List Byte) (c : StreamInfo) : Option Nat :=
  let k := dCodec desc
  let n := plain.length
  let px := c.width * c.height
  if !profileOk k c then some 8
  else if isImage k || isVideo k then
    if dimBad k c.width c.height then some 0xA
    else if (if k = 1 then 256 * n else if k = 2 then 2048 * n else 65536 * n) <
      px * (if isVideo k then max (dNf desc) 1 else 1) then some 0xB else none
  else if isAudio k then
    if tooLong c.rate c.samples then some 0xC
    else if k != 9 && decide ((if k = 6 then 4096 else if k = 7 then 512 else 256) * n < c.samples * c.channels) then some 0xB
    else none
  else if 64 * MiB < n then some 0xD else none

/-- Scratch need of a sample once its header is known (Table 11-3). -/
def scratchNeed (desc : List Byte) (c : StreamInfo) : Nat :=
  let k := dCodec desc
  let px := c.width * c.height
  if k = 1 then dLen desc + px * 4
  else if k = 2 then dLen desc + px * 4 * (if c.depth = 16 then 2 else 1)
  else if isVideo k then dLen desc + 18 * px * 3
  else if isAudio k then dLen desc + 64 * MiB
  else 5 * dLen desc

/-- Scratch that a sample reserves before its fetch (R214). -/
def firstNeed (desc : List Byte) : Nat :=
  if isText (dCodec desc) then 5 * dLen desc else if dCodec desc = 9 then dLen desc + 64 * MiB else dLen desc

/-- What decoding a sample, or the next frame of a video, gives. -/
inductive MediaUnit where
  | stop (reason : Nat)
  | picture (g : Raster)
  | sound (rate : Nat) (chans : List (List Nat))
  | text (t : List Byte)
deriving DecidableEq, Repr

/-- The reason of a decoder that stops. -/
def stopReason (unsupported : Bool) : Nat := if unsupported then 8 else 9

/-- Decodes a sample from its plaintext: an image, frame `f` of a video, audio, or text through step 3 of R222. The limits that
only decoding shows are applied (R215). -/
def decode (desc plain : List Byte) (f : Nat) : MediaUnit :=
  let k := dCodec desc
  if isImage k || isVideo k then
    match Config.decodeFrame k plain f with
    | .error e => .stop (stopReason e)
    | .ok g => if dimBad k g.w g.h then .stop 0xA else .picture g
  else if isText k then
    match prepareText desc plain with
    | none => .stop 9
    | some t => if 64 * MiB < t.length then .stop 0xD else .text t
  else if k = 9 then
    match pcmChannels desc plain with
    | none => .stop 9
    | some chans => .sound (leAt desc 0x94 4) chans
  else
    let rate := match Config.header k plain with | some c => c.rate | none => 0
    match Config.decodeAudio k plain with
    | .error e => .stop (stopReason e)
    | .ok chans => if tooLong rate (chans.headD []).length then .stop 0xC else .sound rate (chans.map fun c => c.map (·.toNat))

/-- Units of decode work of a sample (R228): frames of a video, seconds of source audio, MiB of text. -/
def unitsOf (desc plain : List Byte) (m : MediaUnit) : Nat :=
  if isVideo (dCodec desc) then max 1 (Config.frames (dCodec desc) plain)
  else match m with
    | .sound rate chans => max 1 (ceilDiv (chans.headD []).length (max 1 rate))
    | .text _ => max 1 (ceilDiv plain.length MiB)
    | _ => 1

end Sys2Proof.Machine
end

