-- ==== Sys2Proof/Machine/Ports.lean ====
section
/-! DEFINITION. The Barrov ports, the RoCE queue pairs, and the commands that configure them
(10_barrov_network.md, R187 to R195, R199, R205 to R209). -/

namespace Sys2Proof.Machine

/-! ## Links (R187, R197, R208) -/

/-- The unacknowledged stripes of a port continue from their first unacknowledged frame on the lowest up port of their group's
set (R197); an op that still needs a port and has none ends with UNREACHABLE (R203). -/
def Dev.moveStripes (d : Dev) (n : Nat) : Dev :=
  let d := forL (d.brv.stripes.filter fun s => s.port == n && decide (s.acked < s.frames)) (fun s d =>
    match d.upPorts (d.grpPorts s.id.g.toNat) with
    | m :: _ => d.resend { s with port := m }
    | [] => d) d
  forL (d.brv.jobs.filter fun j => bit (d.grpPorts j.g) n && !j.waiting) (fun j d =>
    match d.job j.g j.epoch with
    | some j => if (d.upPorts (d.grpPorts j.g)).isEmpty && d.needsPort j then d.endAndGoOn j 0x23 (some 5) else d
    | none => d) d

/-- A port that is up goes down: LINK, LINK_CHG, its record, its stripes. `kind` is the row of Table 10-9. -/
def Dev.portDown (d : Dev) (n kind : Nat) : Dev :=
  if !d.linkUp n then d else
  let d := d.setFld (rPortStatus n) 31 31 0
  let d := (d.setFlag (rPortStatus n) 26 true).setFld (rPortStatus n) 29 28 0
  let d := d.setPort n { d.port n with queued := [] }
  (d.portRec n 0x26 kind).moveStripes n

/-- The result of 64 peer-delay exchanges (R194): the mean of half the round trips, its class, the partner; fewer
than 48 answers leave VALID 0 and CLASS 3. -/
def Dev.measure (d : Dev) (n : Nat) (m : PdelayMeas) : Dev :=
  let k := min 64 m.roundTrips.length
  let off := rPortDist n
  if k < 48 then (d.setFld off 45 45 0).setFld off 47 46 3
  else
    let sum := (m.roundTrips.take 64).foldl (· + ·) 0
    let delay := min 65535 ((sum + k) / (2 * k))
    let thr := d.reg rBrvDistThr
    let cls := if delay ≤ bits thr 15 0 then 0 else if delay ≤ bits thr 31 16 then 1 else if delay ≤ bits thr 47 32 then 2 else 3
    d.setReg off (m.pclk.toNat * 2 ^ 64 + m.pport.toNat * 2 ^ 48 + cls * 2 ^ 46 + 2 ^ 45 + delay)

/-- Whether the neighbour of an even port belongs to another partition than the port. -/
def Dev.neighbourTaken (d : Dev) (n : Nat) : Bool :=
  match d.portPart (n + 1) with
  | none => false
  | some p => d.portPart n != some p

/-- Whether port n may take a mode (R187, Table 10-6). -/
def Dev.modeOk (d : Dev) (n mode : Nat) : Bool :=
  decide (mode ≤ 2) || (mode == 3 && n % 2 == 0 && !d.neighbourTaken n)

/-- A write of BRV_PORT_nn_CFG: a MODE, MEDIA or MTU that is not valid keeps its value; a mode change, or EN going to
0, takes the port down. The CFG of an absorbed port is ignored (R187). -/
def Dev.writePortCfg (d : Dev) (n v : Nat) : Dev :=
  if d.ganged n then d else
  let off := rPortCfg n
  let old := d.reg off
  let mode := if d.modeOk n (bits v 30 28) then bits v 30 28 else bits old 30 28
  let media := if bits v 27 26 ≤ 1 then bits v 27 26 else bits old 27 26
  let mtu := if 1518 ≤ bits v 15 0 ∧ bits v 15 0 ≤ 9216 then bits v 15 0 else bits old 15 0
  let new := b2n (bit v 31) * 2 ^ 31 + mode * 2 ^ 28 + media * 2 ^ 26 + bits old 25 21 * 2 ^ 21 + bits v 20 17 * 2 ^ 17 + mtu
  let d := d.setReg off new
  let d := if mode ≠ bits old 30 28 ∨ (bit old 31 ∧ !bit v 31) then d.portDown n 5 else d
  if n % 2 = 0 then
    let g := decide (mode = 3)
    let d := if g then d.portDown (n + 1) 5 else d
    d.setFlag (rPortStatus (n + 1)) 30 g
  else d

/-! ## Queue pairs (R193, R195) -/

/-- The QP context i. -/
def Dev.qp (d : Dev) (i : Nat) : Option Qp := d.brv.qps.find? fun q => q.idx == i

/-- Replaces a QP context, or adds it. -/
def Dev.setQp (d : Dev) (q : Qp) : Dev :=
  let qps := (d.brv.qps.filter fun x => x.idx != q.idx) ++ [q]
  { d with brv := { d.brv with qps } }

/-- The record of a work request that its QP's failure ends, or of the failure alone (R195). -/
def qpRec (q : Qp) : ErrRec :=
  { part := if q.part < 16 then some q.part else none, cls := clsRequest, cause := 0x28, block := 8, unit := q.idx,
    det := detail 0 0 0 0 (0x100000 + q.idx) }

/-- A QP enters the error state, and every work request on it ends (R195). -/
def Dev.qpFail (d : Dev) (q : Qp) : Dev :=
  forN (max 1 q.wrs.length) (fun _ (d : Dev) => d.record (qpRec q)) (d.setQp { q with error := true, wrs := [] })

/-- A RoCE frame of a QP; its GID place holds a remote key, its OFF a remote address. -/
def roceFrame (q : Qp) (ftype seq : Nat) (payload : List Byte) : SentFrame :=
  { port := q.path, ftype, g := 0, epoch := 0, peer := q.rqpn, stripe := 0, seq, flags := 0, payload }

/-- Sends the READ request of a work request. -/
def Dev.askRead (d : Dev) (q : Qp) (w : WorkReq) : Dev :=
  match w.psn with
  | none => d
  | some psn => d.send { roceFrame q ftReadReq psn [] with gid := w.rkey, off := w.va, want := w.len }

/-- READs go out up to the 16 that may be outstanding on a QP, each taking the packet sequence numbers of its answer
(R195). -/
def Dev.pumpReads (d : Dev) (i : Nat) : Dev :=
  forN 16 (fun _ (d : Dev) =>
    match d.qp i with
    | none => d
    | some q =>
      if q.error || decide (16 ≤ countIf (fun w => w.psn.isSome) q.wrs) then d else
      match q.wrs.find? fun w => w.psn.isNone with
      | none => d
      | some w =>
        let w' := { w with psn := some q.psn }
        let q' := { q with psn := (q.psn + max 1 (ceilDiv w.len (max 1 q.mtu))) % 2 ^ 24,
                           wrs := q.wrs.map fun x => if x = w then w' else x }
        (d.setQp q').askRead q' w') d

/-- A work request is posted on a QP. -/
def Dev.postRead (d : Dev) (i : Nat) (w : WorkReq) : Dev :=
  match d.qp i with
  | none => d
  | some q => if q.error then d else (d.setQp { q with wrs := q.wrs ++ [w] }).pumpReads i

/-- A work request ends. -/
def Dev.endRead (d : Dev) (i : Nat) (done : WorkReq → Bool) : Dev :=
  match d.qp i with
  | none => d
  | some q => (d.setQp { q with retries := 0, wrs := q.wrs.filter fun w => !done w }).pumpReads i

/-- Whether remote peers may access a range of p's rim memory: it lies in a sealed-output buffer, or in the landing buffer of
ingest while READs are posted (R195; log 108). -/
def Dev.remoteOk (d : Dev) (p a len : Nat) : Bool :=
  (d.brv.regions.any fun r => r.1 == p && decide (r.2.1 ≤ a ∧ a + len ≤ r.2.1 + r.2.2)) ||
    ((d.brv.qps.any fun q => q.part == p && !q.wrs.isEmpty) && decide (d.scratchLo p ≤ a ∧ a + len ≤ d.scratchHi p))

/-- A RoCE packet at a QP (R195): a WRITE or READ of the peer acts within the regions that it may access and is refused with a
remote-access NAK (2) elsewhere; an atomic request is answered with a NAK for an invalid request (1); a SEND finds no
receive request posted, for no command posts one, and is answered with an RNR NAK. -/
def Dev.onRoce (d : Dev) (q : Qp) (r : RocePkt) : Dev :=
  if q.error then d else
  let nak (d : Dev) (psn : BitVec 24) (code : Nat) : Dev := d.send { roceFrame q ftRoceNak psn.toNat [] with flags := code }
  match r with
  | .send psn _ => d.send (roceFrame q ftRnrNak psn.toNat [])
  | .write psn va bs =>
    if d.remoteOk q.part va.toNat bs.length then (d.gwrite va.toNat bs).send (roceFrame q ftRoceAck psn.toNat []) else nak d psn 2
  | .read psn va len =>
    if !d.remoteOk q.part va.toNat len.toNat then nak d psn 2 else
    let x := d.readAgent va.toNat len.toNat
    if x.2 then x.1.send (roceFrame q ftReadResp psn.toNat (x.1.gread q.part va.toNat len.toNat)) else nak x.1 psn 4
  | .atomic psn => nak d psn 1
  | .ack _ => d.setQp { q with retries := 0 }
  | .readResp psn _ => d.endRead q.idx fun w => w.psn == some psn.toNat
  | .rnrNak _ => d

/-! ## Protection and time (R189, R190, R194) -/

/-- A new association is installed for both channels of port n, its keys from the custody processor (R189, R190): what the port
held back goes out under it. -/
def Dev.installSak (d : Dev) (n : Nat) (sak : BitVec 256) : Dev :=
  let x := d.port n
  let an := (x.assoc + 1) % 4
  (d.setPort n { x with txPn := 1, assoc := an, exhausted := false, txKeys := alSet 0 x.txKeys an sak,
                        rxKeys := alSet 0 x.rxKeys an sak, rxPn := x.rxPn.set an 1 }).setFlag (rPortStatus n) 28 true

/-- An MKA frame that distributes a key under a CAK of the owner installs an association (R190; log 109). -/
def Dev.onMka (d : Dev) (n : Nat) (mkpdu : List Byte) : Dev :=
  if !d.flag (rPortCfg n) 20 || !d.linkUp n then d else
  match (List.range 4096).findSome? fun k =>
      let v := d.reg (rCusSlot k)
      if bit v 63 && !bit v 62 && bit v 61 && bits v 56 53 == 5 then Config.mkaSak (alGet 0 d.cus.slotKeys k) mkpdu else none with
  | none => d
  | some sak => (d.installSak n sak).release n

/-- A protected frame passes its ICV and its replay window; an unprotected one passes where the port does not require
protection, or carries MKA or PTP (R189). -/
def Dev.protectOk (d : Dev) (i : FrameInfo) : Bool :=
  let n := i.port.val
  match i.sec with
  | some t =>
    (match (d.port n).rxKeys.find? fun k => k.1 == t.an.val with
    | none => false
    | some k => Config.icvOk k.2 t.sci t.pn t.covered t.icv && decide ((d.port n).rxPn.get t.an.val ≤ t.pn.toNat + Config.replayWindow))
  | none => !d.flag (rPortCfg n) 19 || (match i.body with | .mka _ => true | .ptp _ _ => true | _ => false)

/-- The next packet number expected of an association moves on. -/
def Dev.seePn (d : Dev) (i : FrameInfo) : Dev :=
  match i.sec with
  | none => d
  | some t =>
    let x := d.port i.port.val
    d.setPort i.port.val { x with rxPn := x.rxPn.set t.an.val (max (x.rxPn.get t.an.val) (t.pn.toNat + 1)) }

/-- An IEEE 1588 event message (R194): its timestamp is kept for the runtime; a peer-delay request is answered at once, in
one step with the time it stayed here, in two steps with its arrival and, in a follow-up, the answer's departure. -/
def Dev.onPtp (d : Dev) (n : Nat) (m : PtpMsg) (seq : Nat) : Dev :=
  let x := d.port n
  let d := d.setPort n { x with stamps := x.stamps ++ [{ msg := m, seq, time := d.now }] }
  let f (ftype v : Nat) : SentFrame :=
    { port := n, ftype, g := 0, epoch := 0, peer := 0, stripe := 0, seq, flags := 0, payload := beBytes 8 v }
  match m with
  | .pdelayReq =>
    if d.flag (rPortCfg n) 18 then d.send (f ftPdelayResp 0)
    else (d.send (f ftPdelayResp d.now)).send (f ftPdelayFollowUp d.now)
  | _ => d

/-! ## Groups (R199) -/

/-- Whether R199 refuses to enable a group. -/
def Dev.groupRefused (d : Dev) (g : Nat) : Bool :=
  let p := g / 256
  let n := d.grpMem g
  let tab := d.grpTab g
  let rank := d.grpRank g
  let gid := d.reg (rBrvGid g)
  let need := d.grpPayload g + 150
  n == 0 || decide (16384 < n) || decide (n ≤ rank) ||
    decide (rimTop < tab + 4 * n) || (d.firstBad p tab (4 * n)).isSome ||
    ((List.range n).any fun r =>
      let m := d.member g r
      m.1 != 0xFFFF && (decide (16384 ≤ m.1) || !d.flag (rBrvPeer m.1) 255 || d.fld (rBrvPeer m.1) 253 250 != p)) ||
    d.member g rank != (0xFFFF, d.grpHemi g) ||
    gid == 0 || ((List.range 256).any fun k => p * 256 + k != g && d.grpOn (p * 256 + k) && d.reg (rBrvGid (p * 256 + k)) == gid) ||
    ((List.range 48).any fun k => bit (d.grpPorts g) k &&
      (!bit (d.reg (rPrtPorts p)) k || decide (d.fld (rPortCfg k) 15 0 < need))) ||
    (d.grpKey g == 0xFFFF && !d.flag (rCusPol p) 63)

/-- EN of a group is written 0: its ops in flight end with a cause. -/
def Dev.disableGroup (d : Dev) (g cause : Nat) (fc : Option Nat) : Dev :=
  let d := forL (d.brv.jobs.filter fun j => j.g == g) (fun j d => d.endJob j cause fc) d
  d.setFld (rBrvGrp g) 176 176 0

/-- EN of a group is written 1 (R199, R202): refused with FCAUSE 8, or idle with EPOCH 0 and nothing held of earlier epochs. -/
def Dev.enableGroup (d : Dev) (g : Nat) : Dev :=
  if d.groupRefused g then d.setGrpCause g 8
  else
    let d := { d with brv := { d.brv with
      early := d.brv.early.filter fun r => r.g != g,
      aborted := d.brv.aborted.filter fun x => x.1 != g } }
    ((d.setFld (rBrvGrp g) 176 176 1).setGrpEpoch g 0).setGrpState g 0

/-- A write of BRV_GRP_g: while EN = 1 only EN takes effect; EN going to 1 is checked. -/
def Dev.writeGroup (d : Dev) (g v : Nat) : Dev :=
  let on := d.grpOn g
  if on then (if bit v 176 then d else d.disableGroup g 0x24 none)
  else
    let old := d.reg (rBrvGrp g)
    let optmo := if 100 ≤ bits v 223 192 ∧ bits v 223 192 ≤ 10000000 then bits v 223 192 else bits old 223 192
    let pay := if bits v 169 168 = 3 then bits old 169 168 else bits v 169 168
    let new := setBits (setBits (setBits (setBits (setBits old 223 192 optmo) 177 177 (bits v 177 177)) 169 168 pay)
      167 152 (bits v 167 152)) 143 96 (bits v 143 96)
    let d := d.setReg (rBrvGrp g) (setBits new 79 0 (bits v 79 0))
    if bit v 176 then d.enableGroup g else d

/-- A group returns to idle with EPOCH 0: EN written 0, then 1 (GROUP_RESET). -/
def Dev.resetGroup (d : Dev) (g : Nat) : Dev :=
  (d.disableGroup g 0x24 none).enableGroup g

/-! ## LAYOUT (R206, R207) -/

/-- A cut of a layout: pipeline stage, cut (0 EP, 1 TP, 2 PP, 3 DP), ports wanted, eligible ports. -/
structure Cut where
  stage : Nat
  cut : Nat
  want : Nat
  ports : Nat
deriving DecidableEq, Repr

/-- The partition's ports that are up with a valid distance, by class and number. -/
def Dev.sortedPorts (d : Dev) (p : Nat) : List Nat :=
  let ok := (List.range 48).filter fun n => bit (d.reg (rPrtPorts p)) n && d.linkUp n && d.flag (rPortDist n) 45
  (List.range 4).flatMap fun c => ok.filter fun n => d.fld (rPortDist n) 47 46 == c

/-- Serves cuts in order from a list of ports: each takes its count from its eligible ones, and what is left goes on. -/
def serveCuts : List Cut → List Nat → List (Cut × List Nat)
  | [], _ => []
  | c :: cs, free =>
    let got := (free.filter fun n => bit c.ports n).take c.want
    (c, got) :: serveCuts cs (free.filter fun n => !got.contains n)

/-- Serves the cuts in the order EP, TP, PP, DP; every stage then gets, per cut, the count that the worst stage
obtained. -/
def planCuts (cuts : List Cut) (free : List Nat) : List (Cut × List Nat) :=
  let order := (List.range 4).flatMap fun k => cuts.filter fun c => c.cut == k
  let first := serveCuts order free
  let least (k : Nat) : Nat := (first.filter fun x => x.1.cut == k).foldl (fun m x => min m x.2.length) 255
  serveCuts (order.map fun c => { c with want := min c.want (least c.cut) }) free

/-- A set of ports as a bit mask. -/
def portMask (l : List Nat) : Nat := l.foldl (fun m n => Nat.lor m (2 ^ n)) 0

/-- Rim memory of p that a program may be given: its share less its reserve and scratch. -/
def Dev.allocatable (d : Dev) (p : Nat) : Nat :=
  (d.heldSectors p).foldl (fun s g => s + (d.reserveLo p g - d.shareLo p g)) 0 - (d.scratchHi p - d.scratchLo p)

/-! ## Port events -/

/-- A congestion-experienced packet (R193): a CNP to the source QP, at most one per 50 µs, or CE in the next ACK of its
stripe. -/
def Dev.congested (d : Dev) (i : FrameInfo) : Dev :=
  let n := i.port.val
  let d := (d.portCount n 7).countPort n 9 noSub 1
  match i.body with
  | .roce k _ => (match d.qp k.val with
    | some q => if d.past50 q.cnpAt then (d.setQp { q with cnpAt := d.now + 1 }).send { roceFrame q ftCnp 0 [] with port := n } else d
    | none => d)
  | .barrov _ _ (some s) => d.setStripe { (d.stripe s).getD (StripeSt.recv s n) with ce := true }
  | _ => d

/-- Whether a frame's header is one that a receiver discards: VER or TYPE of a Barrov frame (R196). -/
def badHeader : FrameBody → Bool
  | .barrov ver ty _ => ver != 1 || ty == 0 || decide (8 < ty.toNat)
  | _ => false

/-- What a frame that has passed its checks does. -/
def Dev.onFrame (d : Dev) (i : FrameInfo) : Dev :=
  match i.body with
  | .mka b => d.onMka i.port.val b
  | .ptp m seq => d.onPtp i.port.val m seq.toNat
  | .roce k r => (match d.qp k.val with
    | some q => d.onRoce q r
    | none => d)
  | .barrov _ _ _ => d
  | .other => d

/-- FRAME_RECEIVE (R188, R189, R193 to R196). -/
def execFrameReceive (i : FrameInfo) (st : State) : Host.Outcome State Fault Refusal :=
  st.act fun d =>
    let n := i.port.val
    let cfg := d.reg (rPortCfg n)
    if !bit cfg 31 || d.ganged n || !d.gateOn (gPort n) then d else
    let d := (d.countPort n 2 noSub 1).addBytes n i.len 0
    let d := d.setPort n { d.port n with lastRx := d.now }
    let d := if i.fecCorrected = 0 then d else d.portCount n 0 i.fecCorrected
    if i.fecUncorrectable then (d.portCount n 1).portErr n 1
    else if !i.fcsOk || decide (bits cfg 15 0 < i.len) then (d.portCount n 2).portErr n 1
    else if i.len < 64 then d
    else if bit cfg 20 && !d.protectOk i then (d.portCount n 3).portErr n 2
    else
      let d := d.seePn i
      if badHeader i.body then (d.portCount n 2).portErr n 1
      else
        let d := if i.ce || decide (d.fld (rPortEcn n) 15 0 < (d.port n).occ.get i.prio.val) then d.congested i else d
        d.onFrame i

/-- PFC_PAUSE (R191): a priority's occupancy is bounded by what the other priorities leave of the shared buffer. -/
def execPfcPause (port : PortN) (prio : Fin 8) (e : PfcEvent) (st : State) : Host.Outcome State Fault Refusal :=
  st.act fun d =>
    let n := port.val
    let k := prio.val
    if d.ganged n then d else
    let x := d.port n
    let pfc := d.reg (rPortPfc n)
    let on := bit pfc (24 + k)
    let frame (d : Dev) (xoff : Nat) : Dev :=
      d.send { port := n, ftype := ftPfc, g := 0, epoch := 0, peer := 0, stripe := k, seq := xoff, flags := 0, payload := [], ecn := 0 }
    match e with
    | .received true =>
      let d := d.countPort n 6 (fun m => bit m k) 1
      if on && !x.pauseRx.contains k && !x.ignoring.contains k then d.setPort n { x with pauseRx := x.pauseRx ++ [k] } else d
    | .received false => (d.setPort n { x with pauseRx := x.pauseRx.filter fun j => j != k }).release n
    | .occupancy kib =>
      let others := (x.occ.filter fun y => y.1 != k).foldl (fun s y => s + y.2) 0
      let kib := min (1024 - others) kib
      let x := { x with occ := x.occ.set k kib }
      if on && decide (bits pfc 23 12 < kib) && !x.pauseTx.contains k then
        frame (d.setPort n { x with pauseTx := x.pauseTx ++ [k] }) 1
      else if on && decide (kib < bits pfc 11 0) && x.pauseTx.contains k then
        frame (d.setPort n { x with pauseTx := x.pauseTx.filter fun j => j != k }) 0
      else d.setPort n x

/-- PFC_WD (R192): pauses of the priority are ignored, and the frames queued on it are discarded. -/
def execPfcWd (port : PortN) (prio : Fin 8) (st : State) : Host.Outcome State Fault Refusal :=
  st.act fun d =>
    let n := port.val
    let x := d.port n
    if !x.pauseRx.contains prio.val || x.ignoring.contains prio.val then d else
    let gone (f : SentFrame) : Bool := d.framePrio f.ftype == some prio.val
    let k := countIf gone x.queued
    let d := d.setPort n { x with ignoring := x.ignoring ++ [prio.val], pauseRx := x.pauseRx.filter (fun j => j != prio.val),
                                  queued := x.queued.filter fun f => !gone f }
    let d := if k = 0 then d else d.portCount n 5 k
    (d.setFlag (rPortStatus n) 27 true).portRec n 0x25 prio.val

/-- PFC_WD_END (R192). -/
def execPfcWdEnd (port : PortN) (prio : Fin 8) (st : State) : Host.Outcome State Fault Refusal :=
  st.act fun d =>
    let x := d.port port.val
    d.setPort port.val { x with ignoring := x.ignoring.filter fun j => j != prio.val }

/-- CNP (R193): a CNP or a CE echo, at most one reduction per 50 µs. -/
def execCnp (t : RateTarget) (st : State) : Host.Outcome State Fault Refusal :=
  st.act fun d =>
    match t with
    | .qp i => match d.qp i.val with
      | some q =>
        if d.past50 q.cutAt then
          (d.setQp { q with rate := d.cutRate q.rate, cutAt := d.now + 1 }).countPort q.path 0xA noSub 1
        else d
      | none => d
    | .stripe s => match d.stripe s with
      | some x => d.cutStripe x
      | none => d

/-- RATE_INCREASE_TIMER (R193). -/
def execRateIncreaseTimer (t : RateTarget) (st : State) : Host.Outcome State Fault Refusal :=
  st.act fun d =>
    match t with
    | .qp i => match d.qp i.val with
      | some q => d.setQp { q with rate := d.raiseRate q.rate (d.lineRate q.path) }
      | none => d
    | .stripe s => match d.stripe s with
      | some x => d.setStripe { x with rate := d.raiseRate x.rate (d.lineRate x.port) }
      | none => d

/-- REKEY (R190). -/
def execRekey (port : PortN) (st : State) : Host.Outcome State Fault Refusal :=
  st.act fun d =>
    let n := port.val
    if !d.flag (rPortStatus n) 28 then d else
    let x := d.port n
    (d.setPort n { x with txPn := 2 ^ 64 - 2 ^ 32 }).portRec n 0x27 x.assoc

/-- ASSOCIATION_EXHAUSTED (R190): the port of an exhausted association goes down. -/
def execAssociationExhausted (port : PortN) (st : State) : Host.Outcome State Fault Refusal :=
  st.act fun d =>
    let n := port.val
    if d.flag (rPortStatus n) 28 && (d.port n).exhausted then d.portDown n 6 else d

/-- LINK_DOWN (R208). -/
def execLinkDown (port : PortN) (st : State) : Host.Outcome State Fault Refusal := st.act fun d => d.portDown port.val 5

/-- LINK_UP (R187, R194): an enabled port comes up, a MACsec port with its next association, and the distance is
measured. -/
def execLinkUp (port : PortN) (m : PdelayMeas) (st : State) : Host.Outcome State Fault Refusal :=
  st.act fun d =>
    let n := port.val
    let cfg := d.reg (rPortCfg n)
    if !bit cfg 31 || bits cfg 30 28 == 0 || d.ganged n || d.linkUp n || !d.gateOn (gPort n) || !d.flag (rClkPll (8 + n / 24)) 31
    then d else
    let d := (d.setFlag (rPortStatus n) 31 true).setFlag (rPortStatus n) 26 true
    let d := (d.setFlag (rPortStatus n) 29 (bits cfg 27 26 == 1)).setFlag (rPortStatus n) 28 (bit cfg 20)
    let d := if bit cfg 20 then d.installSak n (Config.linkSak n ((d.port n).assoc)) else d
    (d.portRec n 0x26 5).measure n m

/-- PEER_DELAY_TIMEOUT (R194). -/
def execPeerDelayTimeout (port : PortN) (st : State) : Host.Outcome State Fault Refusal :=
  st.act fun d => d.measure port.val { roundTrips := [], pclk := 0, pport := 0 }

/-- QP_ERROR (R195). -/
def execQpError (i : Fin 65536) (st : State) : Host.Outcome State Fault Refusal :=
  st.act fun d => match d.qp i.val with
    | some q => if q.error then d else d.qpFail q
    | none => d

/-- QP_RETRY_TIMEOUT (R195): its outstanding requests are sent again, counting a retry; without one left the QP fails. -/
def execQpRetryTimeout (i : Fin 65536) (st : State) : Host.Outcome State Fault Refusal :=
  st.act fun d => match d.qp i.val with
    | some q => if q.error then d else if q.maxRetries ≤ q.retries then d.qpFail q
                else
                  let q := { q with retries := q.retries + 1 }
                  forL q.wrs (fun w d => d.askRead q w) (d.setQp q)
    | none => d

/-! ## Commands (Table 10-4) -/

/-- The command's partition may use a port (R209). -/
def Dev.portMine (d : Dev) (c : FetchedCmd) (n : Nat) : Bool := c.part == 0xFF || d.portPart n == some c.part

/-- PORT_CFG (R187). -/
def execPortCfg (q : QueueN) (st : State) : Host.Outcome State Fault Refusal :=
  st.act fun d => d.cmd q 0x401 [.num 1, .num 1, .num 1, .num 2, .num 1, .num 1]
    (fun ps => firstBad [(decide (48 ≤ ps.at 0), 0), (decide (3 < ps.at 1), 1), (decide (1 < ps.at 2), 2),
      (decide (ps.at 3 < 1518 ∨ 9216 < ps.at 3), 3), (decide (3 < ps.at 4), 4), (decide (1 < ps.at 5), 5)])
    fun c ps d =>
      let n := ps.at 0
      if !d.portMine c n then d.fail c 0x2 else
      let lpbk := d.fld (rPortCfg n) 17 17
      (d.writePortCfg n (2 ^ 31 + ps.at 1 * 2 ^ 28 + ps.at 2 * 2 ^ 26 + ps.at 4 % 2 * 2 ^ 20 + ps.at 4 / 2 * 2 ^ 19 +
        ps.at 5 * 2 ^ 18 + lpbk * 2 ^ 17 + ps.at 3)).done c

/-- FLOW_CFG (R191). -/
def execFlowCfg (q : QueueN) (st : State) : Host.Outcome State Fault Refusal :=
  st.act fun d => d.cmd q 0x402 [.num 1, .num 1, .num 2, .num 2, .num 2]
    (fun ps => firstBad [(decide (48 ≤ ps.at 0), 0), (decide (4095 < ps.at 2), 2), (decide (4095 < ps.at 3), 3)])
    fun c ps d =>
      let n := ps.at 0
      if !d.portMine c n then d.fail c 0x2 else
      ((d.setReg (rPortPfc n) (ps.at 1 * 2 ^ 24 + ps.at 2 * 2 ^ 12 + ps.at 3)).setReg (rPortEcn n) (ps.at 4)).done c

/-- DIST_MEASURE (R194): one port, or all of the partition's (0xFF), with what their partners answered. -/
def execDistMeasure (q : QueueN) (meas : List PdelayMeas) (st : State) : Host.Outcome State Fault Refusal :=
  st.act fun d => d.cmd q 0x403 [.num 1] (fun ps => firstBad [(decide (48 ≤ ps.at 0) && ps.at 0 != 0xFF, 0)])
    fun c ps d =>
      let ns := if ps.at 0 = 0xFF then (List.range 48).filter fun n => d.portMine c n && !d.ganged n else [ps.at 0]
      if ns.any fun n => !d.portMine c n then d.fail c 0x2 else
      if ns.any fun n => d.ganged n then d.param c 0 else
      (forL ((List.range ns.length).zip ns) (fun x (d : Dev) =>
        d.measure x.2 (meas.getD x.1 { roundTrips := [], pclk := 0, pport := 0 })) d).done c

/-- ENDPOINT (R195, R209). -/
def execEndpoint (q : QueueN) (st : State) : Host.Outcome State Fault Refusal :=
  st.act fun d => d.cmd q 0x404 [.bytes 16, .num 1, .num 8, .num 2, .num 1, .list [8, 1]]
    (fun ps => firstBad [(decide (1 < ps.at 1), 1), (decide (2 ^ 48 ≤ ps.at 2), 2), (decide (4095 < ps.at 3), 3),
      (decide (63 < ps.at 4), 4), (decide (4 < (ps.lst 0).length) || (ps.lst 0).any fun e =>
        decide (2 ^ 48 ≤ e.getD 0 0) || (e.getD 1 0 != 0 && decide (e.getD 1 0 < 12 ∨ 43 < e.getD 1 0)), 5)])
    fun c ps d => d.onPart c fun d =>
      let d := d.setReg (rBrvPartAddr c.part) (2 ^ 255 + ps.at 1 * 2 ^ 254 + ps.at 4 * 2 ^ 244 + ps.at 3 * 2 ^ 224 +
        ps.at 2 * 2 ^ 176 + ps.at 0)
      let ws := ps.lst 0
      (forL ((List.range ws.length).zip ws) (fun x (d : Dev) =>
        d.setReg (rBrvServe c.part x.1) (x.2.getD 1 0 * 2 ^ 74 + x.2.getD 0 0)) d).done c

/-- PEER_SET (R195). -/
def execPeerSet (q : QueueN) (st : State) : Host.Outcome State Fault Refusal :=
  st.act fun d => d.cmd q 0x405 [.num 2, .bytes 16, .num 1, .num 8, .num 2, .num 2]
    (fun ps => firstBad [(decide (16384 ≤ ps.at 0), 0), (decide (1 < ps.at 2), 2), (decide (2 ^ 48 ≤ ps.at 3), 3),
      (decide (4095 < ps.at 4), 4)])
    fun c ps d => d.onPart c fun d =>
      let off := rBrvPeer (ps.at 0)
      if d.flag off 255 && d.fld off 253 250 != c.part then d.fail c 0x2 else
      (d.setReg off (2 ^ 255 + ps.at 2 * 2 ^ 254 + c.part * 2 ^ 250 + ps.at 4 * 2 ^ 224 + ps.at 3 * 2 ^ 176 +
        ps.at 5 * 2 ^ 160 + ps.at 1)).done c

/-- GROUP_CREATE (R199): a refused group ends with PARAM. -/
def execGroupCreate (q : QueueN) (st : State) : Host.Outcome State Fault Refusal :=
  st.act fun d => d.cmd q 0x406 [.num 1, .num 4, .num 8, .num 2, .num 2, .num 1, .num 8, .num 2, .num 1, .num 4]
    (fun ps => firstBad [(decide (2 ^ 48 ≤ ps.at 2) || ps.at 2 % 64 != 0, 2), (decide (1 < ps.at 5), 5),
      (decide (2 ^ 48 ≤ ps.at 6), 6), (decide (2 < ps.at 8), 8), (decide (ps.at 9 < 100 ∨ 10000000 < ps.at 9), 9)])
    fun c ps d => d.onPart c fun d =>
      let g := c.part * 256 + ps.at 0
      if d.grpOn g then d.fail c 0x4 else
      let d := d.setReg (rBrvGid g) (ps.at 1)
      let d := d.writeGroup g (ps.at 9 * 2 ^ 192 + ps.at 5 * 2 ^ 177 + 2 ^ 176 + ps.at 8 * 2 ^ 168 + ps.at 7 * 2 ^ 152 +
        ps.at 6 * 2 ^ 96 + ps.at 2 * 2 ^ 32 + ps.at 4 * 2 ^ 16 + ps.at 3)
      if d.grpOn g then d.done c else d.param c 0

/-- GROUP_RESET (R202). -/
def execGroupReset (q : QueueN) (st : State) : Host.Outcome State Fault Refusal :=
  st.act fun d => d.cmd q 0x407 [.num 1] noBad fun c ps d => d.onPart c fun d =>
    let d := d.resetGroup (c.part * 256 + ps.at 0)
    if d.grpOn (c.part * 256 + ps.at 0) then d.done c else d.param c 0

/-- QP_CONNECT (R195): the path is the port the QP runs on. -/
def execQpConnect (q : QueueN) (st : State) : Host.Outcome State Fault Refusal :=
  st.act fun d => d.cmd q 0x408 [.num 2, .num 4, .num 4, .num 1, .num 2, .num 1]
    (fun ps => firstBad [(decide (2 ^ 24 ≤ ps.at 1), 1), (decide (2 ^ 24 ≤ ps.at 2), 2), (decide (48 ≤ ps.at 3), 3),
      (ps.at 4 != 1024 && ps.at 4 != 2048 && ps.at 4 != 4096, 4), (decide (7 < ps.at 5), 5)])
    fun c ps d =>
      match d.qp (ps.at 0) with
      | some x => if x.part ≠ c.part then d.fail c 0x2 else
          (d.setQp { x with rqpn := ps.at 1, psn := ps.at 2, mtu := ps.at 4, path := ps.at 3, maxRetries := ps.at 5,
                            retries := 0, error := false, rate := d.lineRate (ps.at 3) }).done c
      | none =>
          (d.setQp { idx := ps.at 0, part := c.part, rqpn := ps.at 1, psn := ps.at 2, mtu := ps.at 4, path := ps.at 3,
                     maxRetries := ps.at 5, retries := 0, error := false, rate := d.lineRate (ps.at 3), cutAt := 0,
                     cnpAt := 0 }).done c

/-- LAYOUT (R206, R207): lists of cuts (stage, cut, count, ports), of groups (cut, group; cut 4 parity takes DP's
ports) and of stage needs. RESULT: M, the stage that set it, and the cuts reported short. -/
def execLayout (q : QueueN) (st : State) : Host.Outcome State Fault Refusal :=
  st.act fun d => d.cmd q 0x409 [.list [1, 1, 1, 8], .list [1, 1], .list [8]]
    (fun ps => firstBad [((ps.lst 0).any fun e => decide (3 < e.getD 1 0), 0), ((ps.lst 1).any fun e => decide (4 < e.getD 0 0), 1)])
    fun c ps d => d.onPart c fun d =>
      let cuts := (ps.lst 0).map fun e => ({ stage := e.getD 0 0, cut := e.getD 1 0, want := e.getD 2 0, ports := e.getD 3 0 } : Cut)
      let plan := planCuts cuts (d.sortedPorts c.part)
      let needs := (ps.lst 2).map fun e => e.getD 0 0
      let m := needs.foldl max 0
      let stage := (needs.findIdx? fun x => x == m).getD 0
      if plan.any fun x => x.2.isEmpty && x.1.want != 0 || (cuts.any fun y => y.cut == x.1.cut && y.want != 0) && x.2.isEmpty then
        d.param c 0
      else if d.allocatable c.part < m then d.fail c 0x1 (detail 0 0 0 0 stage)
      else
        let short := plan.foldl (fun s x =>
          if cuts.any fun y => y.cut == x.1.cut && y.stage == x.1.stage && decide (x.2.length < y.want) then Nat.lor s (2 ^ x.1.cut) else s) 0
        let d := forL (ps.lst 1) (fun e (d : Dev) =>
          let k := if e.getD 0 0 = 4 then 3 else e.getD 0 0
          let mask := portMask ((plan.filter fun x => x.1.cut == k).flatMap Prod.snd)
          let g := c.part * 256 + e.getD 1 0
          if d.grpOn g then d else d.setFld (rBrvGrp g) 143 96 mask) d
        d.done c (m + stage * 2 ^ 64 + short * 2 ^ 72)

/-- PARITY (R205): group, shard address and length, n, r. The chord runs as an op of its group: rendezvous, stripes, errors
and epochs are those of R196 to R203, and the command completes with it. -/
def execParity (q : QueueN) (st : State) : Host.Outcome State Fault Refusal :=
  st.act fun d => d.cmd q 0x40A [.num 1, .num 8, .num 8, .num 1, .num 1]
    (fun ps => firstBad [(ps.at 2 % 64 != 0, 2), (decide (ps.at 3 = 0 ∨ 16 < ps.at 3), 3), (decide (ps.at 4 = 0 ∨ 4 < ps.at 4), 4)])
    fun c ps d => d.onPart c fun d =>
      let p := c.part
      let g := p * 256 + ps.at 0
      let a := ps.at 1
      let len := ps.at 2
      let epoch := d.grpEpoch g
      let next (d : Dev) : Dev := if epoch = 0xFFFFFFFF then d else d.setGrpEpoch g (epoch + 1)
      let ends (d : Dev) (cause : Nat) (fc : Option Nat) : Dev :=
        let ranks := d.earlyRanks g epoch
        (((next d).dropEpoch g epoch).faultGroup g epoch fc ranks 6).fail c cause (detail 0 0 0 0 epoch)
      if !d.grpOn g || d.grpKey g == 0xFFFF || d.grpMem g != ps.at 3 + ps.at 4 then d.param c 0
      else if d.brv.aborted.contains (g, epoch) then ends d 0x29 (some 7)
      else if d.grpFault g then ends d 0x24 (some 0xA)
      else if (d.slotFor (d.grpKey g) p 4).isNone || epoch == 0xFFFFFFFF then ends d 0x14 (some 6)
      else match d.firstBad p a len with
        | some b => d.fail c 0x6 (detail b 0 0 0 0)
        | none =>
          let d := (next d).setGrpState g 1
          let j : BarrovJob :=
            { g, epoch, op := 6, c := { h := 0, n := 0 },
              o := { tag := 0, grp := BitVec.ofNat 8 (ps.at 0), dtype := 0, rop := 0, src := { off := 0, br := 0, bv := false },
                     dst := { off := 0, br := 0, bv := false }, len := 0, spi := false, dpi := false, slot := 0, root := 0 },
              src := a, dst := a, len, bidx := 0, icount := 0, waiting := true, begun := false, data := false, heard := [],
              met := d.earlyRanks g epoch, parity := some { seq := c.seq, n := ps.at 3, r := ps.at 4 } }
          (({ d with brv := { d.brv with jobs := d.brv.jobs ++ [j] } } : Dev).nextJob g).advance p

end Sys2Proof.Machine
end

