-- ==== Sys2Proof/Machine/Ingest.lean ====
section
/-! DEFINITION. Ingest (11_ingest.md, R210 to R234): samples from their start to their rows, the packer, the
substitution log, replay, quotas, and the ING commands. -/

namespace Sys2Proof.Machine

/-! ## Rings (R223) -/

/-- Entry size of a ring configuration (R223). -/
def entrySize (cfg : Nat) : Nat :=
  64 + roundUp (32 * cfgMaxSeg cfg) 64 + roundUp (8 * cfgRowTok cfg) 64 + roundUp (cfgRowTok cfg * cfgTokB cfg) 64

/-- The ring has an active shard (R234). -/
def Dev.ringBusy (d : Dev) (p r : Nat) : Bool := !(d.ring p r).shards.isEmpty

/-- The configuration of a ring is one that Table 11-12 allows. -/
def ringCfgOk (cfg : Nat) : Bool :=
  let o := cfgOfmt cfg
  (o == 0 || o == 1 || o == 2 || o == 3 || o == 9) && decide (1 ≤ cfgMaxSeg cfg ∧ cfgMaxSeg cfg ≤ 1024) &&
    decide (1 ≤ cfgRowTok cfg ∧ cfgRowTok cfg ≤ 131072) && decide (4 ≤ cfgTokB cfg ∧ cfgTokB cfg ≤ 16384) &&
    cfgTokB cfg % 4 == 0

/-- A write of ING_p_RING_r_CFG: ignored while a shard is active; EN stays 0 with a configuration that is not
allowed; ESZ follows. -/
def Dev.writeRingCfg (d : Dev) (p r v : Nat) : Dev :=
  if d.ringBusy p r then d else
  let v := setBits v 10 0 0
  let v := if ringCfgOk v && decide (2 ≤ d.ringNent p r) then v else setBits v 63 63 0
  (d.setReg (rIngRingCfg p r) v).setReg (rIngRingEsz p r) (entrySize v)

/-- A write of ING_p_RING_r_BASE. -/
def Dev.writeRingBase (d : Dev) (p r v : Nat) : Dev :=
  if d.ringBusy p r then d else d.setReg (rIngRingBase p r) (bits v 63 12 * 4096)

/-- A write of ING_p_RING_r_MEL: NFFT code 3 is ignored. -/
def Dev.writeRingMel (d : Dev) (p r v : Nat) : Dev :=
  if d.ringBusy p r || bits v 63 62 == 3 then d else d.setReg (rIngRingMel p r) v

/-- The bytes of an entry (R223, Tables 11-6 and 11-7). -/
def rowBytesOf (cfg time : Nat) (w : Row) : List Byte :=
  let pad (n : Nat) (l : List Byte) : List Byte := l ++ List.replicate (n - l.length) 0
  let toks := w.segs.flatMap Segment.tokens
  let first := match w.segs with | s :: _ => s.sidx | [] => 0
  let header := pad 64 (leBytes 8 w.rseq ++ leBytes 4 w.shard ++ leBytes 4 w.segs.length ++ leBytes 4 toks.length ++
    leBytes 4 (b2n w.last) ++ leBytes 8 first ++ leBytes 8 time)
  let segs := w.segs.flatMap fun s =>
    leBytes 4 s.sidx ++ leBytes 4 s.tokens.length ++ leBytes 1 s.reason ++
      leBytes 1 (b2n s.subst + 2 * b2n s.contIn + 4 * b2n s.contOut + 8 * b2n s.roi) ++ leBytes 2 s.ncrop ++
      leBytes 4 s.spare ++ leBytes 4 s.frame ++ leBytes 4 s.ftag ++ leBytes 4 s.roitag ++ leBytes 4 0
  let sides := ((List.range w.segs.length).zip w.segs).flatMap fun e => e.2.tokens.flatMap fun t =>
    leBytes 2 (e.1 + 1) ++ leBytes 1 t.kind ++ leBytes 1 t.crop ++ leBytes 4 t.pos
  let slots := toks.flatMap fun t => pad (cfgTokB cfg) (t.bytes.take (cfgTokB cfg))
  header ++ pad (roundUp (32 * cfgMaxSeg cfg) 64) segs ++ pad (roundUp (8 * cfgRowTok cfg) 64) sides ++
    pad (roundUp (cfgRowTok cfg * cfgTokB cfg) 64) slots

/-! ## The packer (R224) -/

/-- Tokens of the open row. -/
def Ring.used (x : Ring) : Nat := x.openSegs.foldl (fun n s => n + s.tokens.length) 0

/-- The active shard. -/
def Ring.shard (x : Ring) : Shard := x.shards.headD Shard.none

/-- Replaces the active shard. -/
def Ring.setShard (x : Ring) (s : Shard) : Ring := { x with shards := s :: x.shards.drop 1 }

/-- Closes the open row, if it holds a segment. -/
def Ring.closeRow (x : Ring) (last : Bool) : Ring :=
  if x.openSegs.isEmpty then x
  else { x with
    rows := x.rows ++ [{ rseq := x.rseq, shard := x.shard.id, last, segs := x.openSegs, logptr := x.openLog,
                         spareNext := x.openSpare, ftag := x.openFtag }],
    openSegs := [], rseq := x.rseq + 1 }

/-- The shard ends: its open row closes as the last one, or the last row that it closed is marked so (Table 11-6). -/
def Ring.endRows (x : Ring) : Ring :=
  let x := x.closeRow true
  { x with rows := x.rows.take (x.rows.length - 1) ++ (x.rows.drop (x.rows.length - 1)).map fun w =>
      { w with last := w.last || w.shard == x.shard.id } }

/-- Adds a segment part to the open row, and closes the row when that fills it. -/
def Ring.addPart (cfg : Nat) (x : Ring) (s : Segment) : Ring :=
  let x := if x.openSegs.isEmpty then
      { x with openLog := x.shard.logged, openSpare := x.shard.sparePack,
               openFtag := if s.ftag = 0xFFFFFFFF then x.ftag else s.ftag % 2 ^ 30 }
    else x
  let x := { x with openSegs := x.openSegs ++ [s] }
  if x.used = cfgRowTok cfg ∨ x.openSegs.length = cfgMaxSeg cfg then x.closeRow false else x

/-- Packs one segment; `n` bounds the rows it takes. -/
def Ring.packSeg (cfg : Nat) : Nat → Ring → Segment → Ring
  | 0, x, _ => x
  | n + 1, x, s =>
    let room := cfgRowTok cfg - x.used
    if s.tokens.length ≤ room then x.addPart cfg s
    else if cfgSplit cfg || (x.openSegs.isEmpty && decide (cfgRowTok cfg < s.tokens.length)) || s.contIn then
      let x := x.addPart cfg { s with tokens := s.tokens.take room, contOut := true }
      Ring.packSeg cfg n x { s with tokens := s.tokens.drop room, contIn := true }
    else Ring.packSeg cfg n (x.closeRow false) s

/-- The bytes of a log entry (R230). -/
def LogEnt.bytes (e : LogEnt) : List Byte :=
  leBytes 1 e.kind ++ leBytes 1 e.reason ++ leBytes 2 0 ++ leBytes 4 e.sidx ++ leBytes 4 e.x ++ leBytes 4 e.y

/-- Whether a segment lies in the part of a shard that is replayed (R232). -/
def Shard.replaying (s : Shard) (sidx frame : Nat) : Bool :=
  match s.replayHwm with
  | .some h => decide (sidx < h.1) || (decide (sidx = h.1) && decide (frame ≤ h.2))
  | .none => false

/-- The substitution log of a shard is full (R230). -/
def Shard.full (s : Shard) : Bool := decide (s.cap ≤ s.logged) && decide (0 < s.logged)

/-- One segment is packed: its log entries land, then it takes its place. A shard that resumes at a token offset
drops the tokens before it (R231). -/
def Dev.packOne (d : Dev) (p r : Nat) (s : Segment) : Dev :=
  let x := d.ring p r
  let sh := x.shard
  let cfg := d.reg (rIngRingCfg p r)
  let d := if sh.replaying s.sidx s.frame then d
    else d.gwrite (sh.log + 64 + 16 * sh.logged) ((s.log.take (sh.cap - sh.logged)).flatMap LogEnt.bytes)
  let s' := if sh.fromTok = 0 then s else { s with tokens := s.tokens.drop sh.fromTok, contIn := true }
  let maxSpare := s.log.foldl (fun m e => if e.kind = 1 && e.x != 0xFFFFFFFF then max m (e.x + 1) else m) sh.sparePack
  let x := Ring.packSeg cfg (s'.tokens.length + 2) x s'
  let x := x.setShard { x.shard with
    logged := sh.logged + s.log.length, sparePack := maxSpare, hwm := some (s.sidx, s.frame), fromFrame := 0, fromTok := 0 }
  d.setRing p r x

/-- A sample is being processed. -/
def Dev.inProgress (d : Dev) (p r sidx : Nat) : Bool :=
  d.ing.samples.any fun s => s.id.p.val == p && s.id.ring.val == r && s.id.sidx == sidx

/-- Packs what is ready, in order of sample; at the end of the shard its last row closes (R210, R224). `n` bounds
the samples. -/
def Dev.packN (p r : Nat) : Nat → Dev → Dev
  | 0, d => d
  | n + 1, d =>
    let x := d.ring p r
    let sh := x.shard
    if x.shards.isEmpty || sh.ending || sh.full then d
    else if sh.count ≤ sh.pack then
      d.setRing p r (x.endRows.setShard { sh with ending := true })
    else match x.done.find? fun e => e.1 == sh.pack with
      | none => d
      | some e =>
        let left := if d.inProgress p r sh.pack then [(sh.pack, [])] else []
        let d := d.setRing p r { x with done := (x.done.filter fun y => y.1 != sh.pack) ++ left }
        let d := forL e.2 (fun s (d : Dev) => d.packOne p r s) d
        if d.inProgress p r sh.pack then d
        else
          let y := d.ring p r
          Dev.packN p r n (d.setRing p r ({ y with held := y.held.filter fun e => e.1 != sh.pack }.setShard
            { y.shard with pack := sh.pack + 1 }))

/-- Puts the shard that is now first to work: its log buffer is named, and one with no sample ends at once. -/
def Dev.activate (d : Dev) (p r : Nat) : Dev :=
  let sh := (d.ring p r).shard
  if (d.ring p r).shards.isEmpty then d
  else d.setReg (rIngLog p r) (sh.cap * 2 ^ 96 + sh.log)

/-- Packs what is ready, and posts the completions of shards whose last row has been written. `n` bounds the
shards. -/
def Dev.pumpN (p r : Nat) : Nat → Dev → Dev
  | 0, d => d
  | n + 1, d =>
    let d := Dev.packN p r ((d.ring p r).done.length + 2) d
    let x := d.ring p r
    if !x.shards.isEmpty && x.shard.ending && x.rows.isEmpty then
      let d := d.setRing p r { x with shards := x.shards.drop 1, done := [], held := [] }
      let d := d.finishSeq x.shard.seq none 0 0
      Dev.pumpN p r n (d.activate p r)
    else d

/-- `pumpN` over every queued shard, with the cursor brought up to date. -/
def Dev.pump (d : Dev) (p r : Nat) : Dev := (Dev.pumpN p r ((d.ring p r).shards.length + 1) d).updateCur p r

/-- The active shard of a ring ends early with a cause: its current row closes, its samples are dropped. -/
def Dev.endShard (d : Dev) (p r cause value : Nat) : Dev :=
  let x := d.ring p r
  match x.shards with
  | [] => d
  | sh :: rest =>
    let x := x.endRows
    let d := { d with ing := { d.ing with
      samples := d.ing.samples.filter fun s => !(s.id.p.val == p && s.id.ring.val == r) } }
    let d := (d.setRing p r { x with shards := rest, done := [], held := [] }).finishSeq sh.seq (some clsRequest) cause (detail 0 0 0 0 value)
    (d.activate p r).pump p r

/-! ## Quotas (R233) -/

/-- Key of the credit of class k of partition p: the deficit below BURST, and one above it the time it was taken. -/
def creditKey (p k : Nat) : Nat := (p * 8 + k) * 2

/-- Deficit now, in 10^-3 engine-ns (bytes for class 5): it shrinks by RATE a nanosecond. -/
def Dev.deficit (d : Dev) (p k : Nat) : Nat :=
  d.ing.credit.get (creditKey p k) - d.fld (rIngQuota p k) 31 0 * (d.now - d.ing.credit.get (creditKey p k + 1))

/-- The credit of a class is above 0. -/
def Dev.hasCredit (d : Dev) (p k : Nat) : Bool :=
  let burst := d.fld (rIngQuota p k) 63 32
  decide (d.deficit p k < burst * (if k = 5 then MiB else 1000000))

/-- Deducts from a class. -/
def Dev.deduct (d : Dev) (p k n : Nat) : Dev :=
  let c := d.ing.credit.set (creditKey p k) (d.deficit p k + n)
  { d with ing := { d.ing with credit := c.set (creditKey p k + 1) d.now } }

/-- Engines of a class (Table 11-5). -/
def engines (k : Nat) : Nat := match k with | 0 => 16 | 1 => 8 | 2 => 16 | _ => 8

/-- A write of ING_p_QUOTA_k: refused where the class's RATEs would exceed what it has. -/
def Dev.quotaOk (d : Dev) (p k v : Nat) : Bool :=
  let sum := (List.range 16).foldl (fun s j => s + if j = p then bits v 31 0 else d.fld (rIngQuota j k) 31 0) 0
  decide (sum ≤ if k = 5 then 1000 else engines k * 1000)

def Dev.writeQuota (d : Dev) (p k v : Nat) : Dev := if d.quotaOk p k v then d.setReg (rIngQuota p k) v else d

/-! ## Budgets (R228) -/

/-- The lower median of a list. -/
def medianOf (l : List Nat) : Nat :=
  let s := l.foldl (fun s x => (s.takeWhile fun y => decide (y ≤ x)) ++ [x] ++ (s.dropWhile fun y => decide (y ≤ x))) []
  s.getD ((s.length - 1) / 2) 0

/-- Budget of one unit of a codec in p, in ns. -/
def Dev.unitBudget (d : Dev) (p codec : Nat) : Nat :=
  let b := d.reg (rIngBudget p)
  let cap := bits b 13 8 * 1000000
  let ts := alGet [] d.ing.times (p * 16 + codec)
  if ts.length < 31 then cap else min cap (bits b 6 0 * medianOf ts)

/-- Notes the decode time of `n` completed units, `ns` each. -/
def Dev.noteTime (d : Dev) (p codec n ns : Nat) : Dev :=
  let k := p * 16 + codec
  let ts := (List.replicate (min n 255) ns ++ alGet [] d.ing.times k).take 255
  { d with ing := { d.ing with times := alPut d.ing.times k ts } }

/-! ## Samples -/

/-- The sample in progress with an identifier. -/
def Dev.sample (d : Dev) (i : SampleId) : Option Sample := d.ing.samples.find? fun s => s.id == i

/-- Replaces a sample. -/
def Dev.setSample (d : Dev) (s : Sample) : Dev :=
  let known := d.ing.samples.any fun x => x.id == s.id
  let samples := if known then d.ing.samples.map fun x => if x.id = s.id then s else x else d.ing.samples ++ [s]
  { d with ing := { d.ing with samples } }

/-- Takes a sample off. -/
def Dev.dropSample (d : Dev) (i : SampleId) : Dev :=
  { d with ing := { d.ing with samples := d.ing.samples.filter fun x => x.id != i } }

/-- A segment of a sample is ready. -/
def Dev.emit (d : Dev) (i : SampleId) (s : Segment) : Dev :=
  let x := d.ring i.p.val i.ring.val
  let old := alGet [] x.done i.sidx
  d.setRing i.p.val i.ring.val { x with done := (x.done.filter fun e => e.1 != i.sidx) ++ [(i.sidx, old ++ [s])] }

/-- A sample is finished: it leaves, even with no segment; its scratch is held until its segments are packed (R214), and the
packer goes on. -/
def Dev.finishSample (d : Dev) (s : Sample) : Dev :=
  let i := s.id
  let d := d.dropSample i
  let x := d.ring i.p.val i.ring.val
  let x := { x with held := x.held ++ [(i.sidx, s.scratch)] }
  let x := if x.done.any fun e => e.1 == i.sidx then x else { x with done := x.done ++ [(i.sidx, [])] }
  (d.setRing i.p.val i.ring.val x).pump i.p.val i.ring.val

/-- The engine time of a sample is deducted as it leaves its engine (R233), and a READ it still waits for ends. -/
def Dev.leaveEngine (d : Dev) (s : Sample) : Dev :=
  let d := if dSrc s.desc = 1 then
      d.endRead (leAt s.desc 6 2) fun w => w.ring == s.id.ring.val && w.sidx == s.id.sidx
    else d
  if s.spent = 0 then d else d.deduct s.id.p.val s.cls (s.spent * 1000)

/-- An empty segment (Table 11-7). -/
def emptySeg (sidx reason spare : Nat) (subst : Bool) (log : List LogEnt) : Segment :=
  { sidx, reason, subst, contIn := false, contOut := false, roi := false, ncrop := 0, spare, frame := 0, ftag := 0xFFFFFFFF,
    roitag := 0xFFFFFFFF, tokens := [], log }

/-- The partition's counter of a reason counts (R216). -/
def Dev.countReason (d : Dev) (p k : Nat) : Dev := if k = 0 ∨ 16 < k then d else d.bump64 (rIngRsn p k)

/-- A sample is rejected for a reason: an empty segment, its counter, and a record for KEY, OID and TAG (R216). -/
def Dev.reject (d : Dev) (s : Sample) (reason : Nat) : Dev :=
  let i := s.id
  let d := ((d.leaveEngine s).countReason i.p.val reason).countIngest s.cls i.p.val 4 (fun m => m == 0 || m == reason) 1
  let d := if reason = 2 ∨ reason = 4 ∨ reason = 5 then
      d.record { part := some i.p.val, cls := clsRequest, cause := 0x32, block := 7, unit := i.ring.val,
                 det := detail (d.ring i.p.val i.ring.val).shard.id 0 0 0 (reason * 2 ^ 32 + i.sidx % 2 ^ 32) }
    else d
  (d.emit i (emptySeg i.sidx reason s.spare (s.spare != 0xFFFFFFFF) s.log)).finishSample s

/-- A sample is abandoned (R229): the next unused spare takes its place, or its segment is empty. `spare` is the one a
log records, in replay. -/
def Dev.abandon (d : Dev) (s : Sample) (reason : Nat) (logged : Option Nat) : Dev :=
  let i := s.id
  let d := d.leaveEngine s
  let x := d.ring i.p.val i.ring.val
  let sh := x.shard
  let k := match logged with
    | some k => k
    | none => if sh.spareNext < sh.nspare then sh.spareNext else 0xFFFFFFFF
  let e : LogEnt := { kind := 1, reason, sidx := i.sidx, x := k, y := s.frames }
  let d := (d.countReason i.p.val reason).countIngest s.cls i.p.val 5 noSub 1
  if k = 0xFFFFFFFF then
    let d := d.countIngest s.cls i.p.val 4 (fun m => m == 0 || m == reason) 1
    (d.emit i (emptySeg i.sidx reason 0xFFFFFFFF true (s.log ++ [e]))).finishSample s
  else
    let d := d.setRing i.p.val i.ring.val (x.setShard { sh with spareNext := max sh.spareNext (k + 1) })
    d.setSample { s with stage := 0, spare := k, log := s.log ++ [e], scratch := 0, plain := [], frames := 0, firstTag := 0,
                         spent := 0 }

/-- The log entry of kind `kind` of a sample still to replay. -/
def Shard.replayEnt (s : Shard) (kind sidx : Nat) : Option LogEnt := s.replay.find? fun e => e.kind == kind && e.sidx == sidx

/-- Takes an entry off the replay. -/
def Dev.replayed (d : Dev) (p r : Nat) (e : LogEnt) : Dev :=
  let x := d.ring p r
  d.setRing p r (x.setShard { x.shard with replay := x.shard.replay.erase e })

/-- A fetch fails (R229, R232): in replay it is tried three times more, and then the shard ends with REPLAY. -/
def Dev.fetchFailed (d : Dev) (s : Sample) : Dev :=
  let i := s.id
  if (d.ring i.p.val i.ring.val).shard.replaying i.sidx s.frames then
    if s.tries < 3 then d.setSample { s with tries := s.tries + 1 }
    else d.endShard i.p.val i.ring.val 0x12 i.ring.val
  else d.abandon s 1 none

/-- Scratch bytes of p, and those that its samples hold but for one: in progress, or with segments not packed. -/
def Dev.scratchSize (d : Dev) (p : Nat) : Nat := d.fld (rIngScrSize p) 15 0 * (16 * MiB)
def Dev.scratchUsed (d : Dev) (p : Nat) (but : SampleId) : Nat :=
  d.ing.samples.foldl (fun n s => n + if s.id.p.val = p ∧ s.id ≠ but then s.scratch else 0) 0 +
    (List.range 4).foldl (fun n r => (d.ring p r).held.foldl (fun n e => n + e.2) n) 0

/-- A sample's need is reserved: `none` where it must wait, `some false` where it can never fit. -/
def Dev.reserve (d : Dev) (s : Sample) (need : Nat) : Option Bool :=
  let p := s.id.p.val
  if d.scratchSize p < need then some false
  else if d.scratchUsed p s.id + need ≤ d.scratchSize p then some true
  else none

/-- The source of a descriptor is one the partition holds (R212). -/
def Dev.sourceOk (d : Dev) (p : Nat) (s : List Byte) : Bool :=
  match dSrc s with
  | 1 => match d.qp (leAt s 6 2) with | some q => q.part == p | none => false
  | 3 => (d.firstBad p (leAt s 8 8) (dLen s)).isNone && decide (leAt s 8 8 + dLen s ≤ rimTop)
  | _ => true

/-- Whether R212 rejects the descriptor of a sample of ring r. -/
def Dev.descRejected (d : Dev) (p r : Nat) (s : List Byte) : Bool :=
  descBad (d.reg (rIngRingCfg p r)) (d.reg (rIngRingMel p r)) s || !d.sourceOk p s ||
    (isText (dCodec s) && !d.flag (rIngDict p (dDict s)) 127)

/-- Where a sample's descriptor, or its spare's, stands. -/
def Shard.descAt (s : Shard) (sidx spare : Nat) : Nat :=
  if spare = 0xFFFFFFFF then s.descs + 256 * sidx else s.spares + 256 * spare

/-- The reason with which a sample is rejected before its fetch, if any: DESC, QUOTA, then steps 1 and 2 of R213. A class-5 RATE of
0 is QUOTA as well (DEDUCED from R233, log 112). -/
def Dev.startReason (d : Dev) (p r : Nat) (desc : List Byte) : Option Nat :=
  if d.descRejected p r desc then some 0xF
  else if d.fld (rIngQuota p (codecClass (dCodec desc))) 31 0 = 0 ∨ d.fld (rIngQuota p 5) 31 0 = 0 then some 0x10
  else if (d.slotFor (dKey desc) p 1).isNone then some 2
  else if dLen desc < 48 ∨ 2 ^ 32 + 48 < dLen desc then some 6
  else none

/-- Partition p could start a sample of class k on an engine: it has credit, and a sample of the class that nothing rejects waits
with room in its scratch (R233). -/
def Dev.eligible (d : Dev) (p k : Nat) : Bool :=
  d.hasCredit p k && (List.range 4).any fun r =>
    let x := d.ring p r
    let sh := x.shard
    let fits (sidx spare : Nat) : Bool :=
      let desc := d.rim.read (sh.descAt sidx spare) 256
      codecClass (dCodec desc) == k && (d.startReason p r desc).isNone &&
        decide ((d.ing.samples.foldl (fun n s => n + if s.id.p.val = p then s.scratch else 0) 0) + firstNeed desc ≤ d.scratchSize p)
    d.ringOn p r && !x.shards.isEmpty && !sh.ending && !sh.full &&
      ((d.ing.samples.any fun s => s.id.p.val == p && s.id.ring.val == r && s.stage == 0 && fits s.id.sidx s.spare) ||
        (List.range (sh.count - sh.pack)).any fun j =>
          !(x.done.any fun e => e.1 == sh.pack + j) && !d.inProgress p r (sh.pack + j) && fits (sh.pack + j) 0xFFFFFFFF)

/-- It is the turn of p: of the eligible partitions from the one after that last served on, it comes first. -/
def Dev.turn (d : Dev) (p k : Nat) : Bool :=
  let first := d.ing.nextPart.get k
  !(List.range ((p + 16 - first % 16) % 16)).any fun j => d.eligible ((first + j) % 16) k

/-- Start of a sample, or of a spare in its place. -/
def Dev.startSample (d : Dev) (s : Sample) : Dev :=
  let i := s.id
  let p := i.p.val
  let r := i.ring.val
  let sh := (d.ring p r).shard
  let x := d.readAgent (sh.descAt i.sidx s.spare) 256
  let d := x.1
  let desc := d.rim.read (sh.descAt i.sidx s.spare) 256
  let s := { s with desc, cls := codecClass (dCodec desc) }
  if !x.2 then d.fetchFailed s else
  match d.startReason p r desc with
  | some k => d.reject s k
  | none =>
    let rep := if sh.replaying i.sidx 0 && !isVideo (dCodec desc) then sh.replayEnt 1 i.sidx else none
    match rep with
    | some e => (d.replayed p r e).abandon s e.reason (some e.x)
    | none =>
      if !d.gateOn (gIcls s.cls) then d
      else if !d.hasCredit p s.cls || !d.turn p s.cls ||
          decide (engines s.cls ≤ countIf (fun x => x.cls == s.cls && x.stage != 0) d.ing.samples) then d
      else
        match d.reserve s (firstNeed desc) with
        | none => d
        | some false => d.reject s 7
        | some true =>
          let d := d.setSample { s with stage := 1, scratch := firstNeed desc }
          let d := { d with ing := { d.ing with nextPart := d.ing.nextPart.set s.cls ((p + 1) % 16) } }
          if dSrc desc = 1 then
            d.postRead (leAt desc 6 2) { ring := r, sidx := i.sidx, va := leAt desc 8 8, rkey := leAt desc 0x20 4,
                                         len := dLen desc, psn := none }
          else d

/-- SAMPLE_START (R210, R212, R214, R233). -/
def execSampleStart (i : SampleId) (st : State) : Host.Outcome State Fault Refusal :=
  st.act fun d =>
    let p := i.p.val
    let r := i.ring.val
    let x := d.ring p r
    if !d.ringOn p r || x.shards.isEmpty || x.shard.ending || x.shard.full || d.flag rGovStatus 31 then d else
    match d.sample i with
    | some s => if s.stage = 0 then d.startSample s else d
    | none =>
      if i.sidx < x.shard.pack ∨ x.shard.count ≤ i.sidx ∨ x.done.any (fun e => e.1 == i.sidx) then d
      else d.startSample { id := i, stage := 0, cls := 0, scratch := 0, spare := 0xFFFFFFFF, log := [], desc := [], plain := [],
                           frames := 0, firstTag := 0, tries := 0 }

/-- The reason with which R213 rejects a fetched object, or its plaintext. -/
def Dev.openObject (d : Dev) (p : Nat) (desc obj : List Byte) : Nat ⊕ List Byte :=
  let n := dLen desc
  match d.slotFor (dKey desc) p 1 with
  | none => .inl 2
  | some k =>
    if n < 48 ∨ 2 ^ 32 + 48 < n then .inl 6
    else if leAt obj 0 4 ≠ 0x4F454E31 ∨ leAt obj 4 2 ≠ 1 ∨ leAt obj 6 2 ≠ 0 ∨ leAt obj 0x1C 4 ≠ 0 then .inl 3
    else if leAt obj 8 8 ≠ dOid desc then .inl 4
    else match Config.gcmDec k (BitVec.ofNat 96 (beNat (slice obj 0x10 12))) (obj.take 32) (slice obj 0x20 (n - 48))
        (BitVec.ofNat 128 (beNat (slice obj (n - 16) 16))) with
      | some t => .inr t
      | none => .inl 5

/-- The object that a descriptor names (R211): rim memory at SADDR, the partition's flash share, or what host memory or a peer
answered; none where the rim could not be read. -/
def Dev.objectOf (d : Dev) (p : Nat) (desc arrived : List Byte) : Dev × Option (List Byte) :=
  let a := leAt desc 8 8
  match dSrc desc with
  | 2 => (d, some (d.mem.flash.read (flashAddr p a) (dLen desc)))
  | 3 =>
    let x := d.readAgent a (dLen desc)
    (x.1, if x.2 then some (x.1.rim.read a (dLen desc)) else none)
  | _ => (d, some arrived)

/-- SAMPLE_FETCHED (R211, R213, R233): the object has arrived, `arrived` being what host memory or a peer gave. While class 5 has
credit it is checked, decrypted and authenticated; its bytes count in class 5. -/
def execSampleFetched (i : SampleId) (arrived : List Byte) (st : State) : Host.Outcome State Fault Refusal :=
  st.act fun d =>
    match d.sample i with
    | none => d
    | some s =>
      let p := i.p.val
      if s.stage ≠ 1 ∨ !d.hasCredit p 5 then d else
      let x := d.objectOf p s.desc arrived
      match x.2 with
      | none => x.1.fetchFailed s
      | some object =>
        let d := x.1.leaveEngine s
        let spend (d : Dev) : Dev := (d.deduct p 5 (dLen s.desc)).countIngest 5 p 7 noSub (dLen s.desc)
        match d.openObject p s.desc object with
        | .inl reason => (if reason = 5 then spend d else d).reject s reason
        | .inr plain => (spend d).setSample { s with stage := 2, plain }

/-- HEADER_PARSE (R214, R215, R217). -/
def execHeaderParse (i : SampleId) (st : State) : Host.Outcome State Fault Refusal :=
  st.act fun d =>
    match d.sample i with
    | none => d
    | some s =>
      if s.stage ≠ 2 then d else
      match streamInfo s.desc s.plain with
      | none => d.reject s 9
      | some c =>
        match headerReason s.desc s.plain c with
        | some k => d.reject s k
        | none =>
          let need := scratchNeed s.desc c
          match d.reserve s need with
          | none => d
          | some false => d.reject s 7
          | some true => d.setSample { s with stage := 3, scratch := need }

/-- A complete segment of a sample. -/
def Sample.seg (s : Sample) (tokens : List Token) : Segment :=
  { emptySeg s.id.sidx 0 s.spare (s.spare != 0xFFFFFFFF) s.log with tokens }

/-- A sample is complete: one that has emitted nothing of its own becomes an empty segment (R216). -/
def Dev.completeSample (d : Dev) (s : Sample) : Dev :=
  let d := (d.leaveEngine s).countIngest s.cls s.id.p.val 3 noSub 1
  (if s.emitted then d else d.emit s.id (s.seg [])).finishSample s

/-- A sample of one segment is complete, with its tokens. -/
def Dev.oneSegment (d : Dev) (s : Sample) (tokens : List Token) : Dev :=
  (d.emit s.id (s.seg tokens)).completeSample { s with emitted := true }

/-- A decoded still image (R219). -/
def Dev.imageDone (d : Dev) (s : Sample) (g : Raster) : Dev :=
  match cropImg s.desc g.img with
  | none => d.reject s 0xF
  | some g => d.oneSegment s (patchTokens (d.reg (rIngRingCfg s.id.p.val s.id.ring.val)) 2 0 0 s.desc
      (resizeImg s.desc (dOutW s.desc) (dOutH s.desc) (orientImg s.desc g)))

/-- Whether a display frame is one that the descriptor emits (R217). -/
def frameEmitted (desc : List Byte) (f : Nat) : Bool :=
  decide (dF0 desc ≤ f) && (f - dF0 desc) % dStep desc == 0 &&
    (dNf desc == 0 || decide ((f - dF0 desc) / dStep desc < dNf desc))

/-- The ROI list chosen for a frame (R227): the newest held list whose tag is below the frame's and names a frame of
the same sample. -/
def Ring.chooseRoi (x : Ring) (s : Sample) (tag : Nat) : Option RoiList :=
  x.rois.find? fun l => decide (s.firstTag ≤ l.tag ∧ l.tag < tag)

/-- The next frame of a video is decoded (R219, R226, R227): nothing happens where a replayed choice still waits for its list. -/
def Dev.frameDone (d : Dev) (s : Sample) (g : Raster) : Dev :=
  let i := s.id
  let p := i.p.val
  let r := i.ring.val
  let f := s.frames
  let cfg := d.reg (rIngRingCfg p r)
  let x := d.ring p r
  let next (d : Dev) (s : Sample) : Dev :=
    let s := { s with frames := f + 1 }
    if Config.frames (dCodec s.desc) s.plain ≤ f + 1 then (d.setSample s).completeSample s else (d.setSample s).pump p r
  if !frameEmitted s.desc f then next d s
  -- a frame claimed before the cursor of a restore
  else if i.sidx = x.shard.pack ∧ f < x.shard.fromFrame then next d { s with emitted := true }
  else
    match cropImg s.desc g.img with
    | none => d.reject s 0xF
    | some g =>
      let g := orientImg s.desc g
      let tag := r * 2 ^ 30 + x.ftag % 2 ^ 30
      let s := if s.emitted then s else { s with firstTag := tag }
      let roiOn := bit (dFlags s.desc) 0
      let rep := if x.shard.replaying i.sidx f then
          x.shard.replay.find? fun e => e.kind == 2 && e.sidx == i.sidx && e.x == f else none
      let pick : Option (Option RoiList) := if !roiOn then some none else match rep with
        | some e => if e.y = 0xFFFFFFFF then some none else (x.rois.find? fun l => l.tag == e.y).map some
        | none => some (x.chooseRoi s tag)
      match pick with
      | none => d
      | some roi =>
        let d := match rep with | some e => if roiOn then d.replayed p r e else d | none => d
        let x := d.ring p r
        let ent : List LogEnt := if roiOn then
            [{ kind := 2, reason := 0, sidx := i.sidx, x := f, y := match roi with | some l => l.tag | none => 0xFFFFFFFF }] else []
        let view := patchTokens cfg 3 0 0 s.desc (resizeImg s.desc (dOutW s.desc) (dOutH s.desc) g)
        let corners := match roi with | some l => l.corners | none => []
        let crops := ((List.range corners.length).zip corners).foldl (fun (ts : List Token) e =>
          ts ++ patchTokens cfg 4 e.1 ts.length s.desc (roiImg s.desc g e.2)) view
        let seg : Segment := { s.seg crops with
          roi := roiOn && roi.isSome, ncrop := corners.length, frame := f, ftag := tag,
          roitag := (match roi with | some l => l.tag | none => 0xFFFFFFFF), log := s.log ++ ent }
        let d := (d.setRing p r { x with ftag := (x.ftag + 1) % 2 ^ 30 }).emit i seg
        next d { s with log := [], emitted := true }

/-- Decoded audio (R220). -/
def Dev.audioDone (d : Dev) (s : Sample) (rate : Nat) (chans : List (List Nat)) : Dev :=
  let p := s.id.p.val
  let r := s.id.ring.val
  d.oneSegment s (audioTokens (d.reg (rIngRingCfg p r)) (d.reg (rIngRingMel p r)) s.desc (mixAudio s.desc rate chans))

/-- Decoded text (R222). -/
def Dev.textDone (d : Dev) (s : Sample) (t : List Byte) : Dev :=
  d.oneSegment s (textTokens s.desc (alGet [] d.ing.dicts (s.id.p.val * 4 + dDict s.desc)) t)

/-- What one completion of a sample does with what its decoder gave. -/
def Dev.unitDone (d : Dev) (s : Sample) : MediaUnit → Dev
  | .stop k => d.reject s k
  | .picture g => if isVideo (dCodec s.desc) then d.frameDone s g else d.imageDone s g
  | .sound rate chans => d.audioDone s rate chans
  | .text t => d.textDone s t

/-- SAMPLE_COMPLETE (R217 to R220, R222, R228): a sample, or the next frame of a video, is decoded from the sample's plaintext in
`engineUs` µs. Over its budget, or where a replayed log abandons it, a spare takes its place. A video's frames are transformed
once every sample before it is packed, for their tags follow the packing order (DEDUCED from R218, R226, R227, log 113). -/
def execSampleComplete (i : SampleId) (engineUs : Nat) (st : State) : Host.Outcome State Fault Refusal :=
  st.act fun d =>
    match d.sample i with
    | none => d
    | some s =>
      let p := i.p.val
      let k := dCodec s.desc
      let sh := (d.ring p i.ring.val).shard
      let f := s.frames
      if s.stage ≠ 3 ∨ (isVideo k && i.sidx != sh.pack) then d else
      let rep := sh.replaying i.sidx f
      match (if rep then sh.replay.find? fun e => e.kind == 1 && e.sidx == i.sidx && decide (e.y ≤ f) else none) with
      | some e => (d.replayed p i.ring.val e).abandon s e.reason (some e.x)
      | none =>
        let m := decode s.desc s.plain f
        let units := unitsOf s.desc s.plain m
        let s := { s with spent := s.spent + engineUs * 1000 }
        if !rep && decide (d.unitBudget p k * units < s.spent) then d.abandon s 0xE none
        else
          let n := if isVideo k then 1 else units
          ((d.countIngest s.cls p 7 noSub n).noteTime p k n (engineUs * 1000 / n)).unitDone s m

/-- BUDGET_EXPIRY (R229): a sample on its engine has spent its budget and is abandoned, unless it is replayed and so not timed
(R232). -/
def execBudgetExpiry (i : SampleId) (st : State) : Host.Outcome State Fault Refusal :=
  st.act fun d =>
    match d.sample i with
    | none => d
    | some s =>
      if s.stage ≠ 3 ∨ ((d.ring i.p.val i.ring.val).shard.replaying i.sidx s.frames) then d
      else
        let budget := d.unitBudget i.p.val (dCodec s.desc) * unitsOf s.desc s.plain (decode s.desc s.plain s.frames)
        d.abandon { s with spent := max s.spent budget } 0xE none

/-- FETCH_FAIL (R229, R232). -/
def execFetchFail (i : SampleId) (st : State) : Host.Outcome State Fault Refusal :=
  st.act fun d =>
    match d.sample i with
    | none => d
    | some s => if s.stage ≠ 1 then d else d.fetchFailed s

/-! ## Rows, logs and lists -/

/-- An ITAKE that has not completed still copies the entry a new row would take (R225). -/
def Dev.entryInUse (d : Dev) (p r e : Nat) : Bool :=
  d.allRequests.any fun x => (d.ctx x.h x.n).part == p && match x.r.kind with
    | .take k _ n (some f) => k == r && decide (diff32 e f < n)
    | _ => false

/-- ROW_WRITTEN (R225, R230): the oldest closed row lands whole, WRITTEN advances, and the log header follows. -/
def execRowWritten (p : PartN) (ring : Fin 4) (st : State) : Host.Outcome State Fault Refusal :=
  st.act fun d =>
    let p := p.val
    let r := ring.val
    let x := d.ring p r
    let wr := d.ringWritten p r
    let nent := d.ringNent p r
    match x.rows with
    | [] => d
    | w :: rest =>
      if !d.ringOn p r || decide (nent ≤ diff32 wr (d.ringReleased p r)) || d.entryInUse p r ((wr + 2 ^ 32 - nent) % 2 ^ 32) then d
      else
        let d := d.gwrite (d.ringEntry p r wr) (rowBytesOf (d.reg (rIngRingCfg p r)) d.now w)
        let d := d.setWritten p r ((wr + 1) % 2 ^ 32)
        let d := d.setRing p r { x with rows := rest, landed := x.landed ++ [w] }
        let sh := x.shard
        let hwm := sh.hwm.getD (0xFFFFFFFF, 0xFFFFFFFF)
        let d := if x.shards.isEmpty ∨ sh.id ≠ w.shard then d
          else d.gwrite sh.log (leBytes 4 sh.id ++ leBytes 4 sh.logged ++ leBytes 4 hwm.1 ++ leBytes 4 hwm.2)
        d.pump p r

/-- LOG_FULL (R230). -/
def execLogFull (p : PartN) (ring : Fin 4) (st : State) : Host.Outcome State Fault Refusal :=
  st.act fun d =>
    let x := d.ring p.val ring.val
    if !x.shards.isEmpty && x.shard.full then d.endShard p.val ring.val 0x31 ring.val else d

/-- ROI_LIST_READ (R226): the oldest posted list is read; the 16 newest are held, and one that cannot be read is not. -/
def execRoiListRead (p : PartN) (ring : Fin 4) (st : State) : Host.Outcome State Fault Refusal :=
  st.act fun d =>
    let x := d.ring p.val ring.val
    match x.posted with
    | [] => d
    | (a, n, tag) :: rest =>
      let y := if a < rimTop then d.readAgent a (4 * n) else (d, true)
      let b := y.1.gread p.val a (4 * n)
      let l : RoiList := { tag, corners := (List.range n).map fun k => (leAt b (4 * k) 2, leAt b (4 * k + 2) 2) }
      y.1.setRing p.val ring.val { x with posted := rest, rois := if y.2 then (l :: x.rois).take 16 else x.rois }

/-- REPLAY_ROI_TIMEOUT (R232). -/
def execReplayRoiTimeout (p : PartN) (ring : Fin 4) (st : State) : Host.Outcome State Fault Refusal :=
  st.act fun d =>
    let x := d.ring p.val ring.val
    if !x.shards.isEmpty && x.shard.replay.any (fun e => e.kind == 2) then d.endShard p.val ring.val 0x12 ring.val else d

/-! ## Commands (Table 11-10) -/

/-- A range of one sector share of p, clear of its reserve (R214). -/
def Dev.inShare (d : Dev) (p a n : Nat) : Bool :=
  decide (a + n ≤ rimTop) && (n == 0 || (d.holds p (a / sectorBytes) &&
    decide (d.shareLo p (a / sectorBytes) ≤ a ∧ a + n ≤ d.reserveLo p (a / sectorBytes))))

/-- ING_SCRATCH (R214): base and size in 16 MiB units. -/
def execIngScratch (q : QueueN) (st : State) : Host.Outcome State Fault Refusal :=
  st.act fun d => d.cmd q 0x501 [.num 8, .num 2] (fun ps => firstBad [(decide (2 ^ 48 ≤ ps.at 0) || ps.at 0 % (16 * MiB) != 0, 0)])
    fun c ps d => d.onPart c fun d =>
      if !d.inShare c.part (ps.at 0) (ps.at 1 * (16 * MiB)) then d.param c 0
      else ((d.setReg (rIngScrBase c.part) (ps.at 0)).setReg (rIngScrSize c.part) (ps.at 1)).done c

/-- ING_RING_CFG (R223): ring, base, NENT, ROW_TOK, TOK_B, MAXSEG, patch, OFMT, SPLIT, NFFT, HOP, NMEL, FMIN, FMAX,
FLOOR. -/
def execIngRingCfg (q : QueueN) (st : State) : Host.Outcome State Fault Refusal :=
  st.act fun d => d.cmd q 0x502
    [.num 1, .num 8, .num 2, .num 4, .num 2, .num 2, .num 1, .num 1, .num 1, .num 1, .num 2, .num 1, .num 2, .num 2, .num 1]
    (fun ps => firstBad [(decide (3 < ps.at 0), 0), (decide (2 ^ 48 ≤ ps.at 1) || ps.at 1 % 4096 != 0, 1), (decide (ps.at 2 < 2), 2),
      (decide (ps.at 3 = 0 ∨ 131072 < ps.at 3), 3), (decide (ps.at 4 < 4 ∨ 16384 < ps.at 4) || ps.at 4 % 4 != 0, 4),
      (decide (ps.at 5 = 0 ∨ 1024 < ps.at 5), 5), (decide (3 < ps.at 6), 6),
      (!(ps.at 7 == 0 || ps.at 7 == 1 || ps.at 7 == 2 || ps.at 7 == 3 || ps.at 7 == 9), 7), (decide (1 < ps.at 8), 8),
      (decide (2 < ps.at 9), 9), (decide (2 ^ 14 ≤ ps.at 10), 10), (decide (128 < ps.at 11), 11)])
    fun c ps d => d.onPart c fun d =>
      let p := c.part
      let r := ps.at 0
      if d.ringBusy p r then d.fail c 0x4 else
      let cfg := 2 ^ 63 + ps.at 8 * 2 ^ 62 + ps.at 6 * 2 ^ 60 + ps.at 7 * 2 ^ 56 + ps.at 5 * 2 ^ 45 + ps.at 3 * 2 ^ 27 + ps.at 4 * 2 ^ 11
      match d.firstBad p (ps.at 1) (ps.at 2 * entrySize cfg) with
      | some a => d.fail c 0x6 (detail a 0 0 0 0)
      | none =>
        let d := d.writeRingBase p r (ps.at 2 * 2 ^ 48 + ps.at 1)
        let d := d.writeRingMel p r (ps.at 9 * 2 ^ 62 + ps.at 10 * 2 ^ 48 + ps.at 11 * 2 ^ 40 + ps.at 12 * 2 ^ 24 + ps.at 13 * 2 ^ 8 + ps.at 14)
        let d := (d.writeRingCfg p r cfg).setReg (rIngRingPtr p r) 0
        let d := d.setRing p r { Ring.none with ftag := (d.ring p r).ftag, rois := (d.ring p r).rois, posted := (d.ring p r).posted }
        (d.setReg (rIngCur p r) 0).done c

/-- A shard as a command names it: id, descriptor and spare tables with counts, log buffer and capacity. -/
def shardOf (seq k : Nat) (ps : Params) : Shard :=
  { Shard.none with id := ps.at k, descs := ps.at (k + 1), count := ps.at (k + 2), spares := ps.at (k + 3), nspare := ps.at (k + 4),
                    log := ps.at (k + 5), cap := ps.at (k + 6), seq }

/-- The first address of a shard's tables and log that p may not reach. -/
def Dev.shardBad (d : Dev) (p : Nat) (s : Shard) : Option Nat :=
  [(s.descs, 256 * s.count), (s.spares, 256 * s.nspare), (s.log, 64 + 16 * s.cap)].findSome? fun r =>
    if rimTop < r.1 + r.2 then some r.1 else d.firstBad p r.1 r.2

/-- ING_SHARD (R210). Its completion follows the shard's last row. -/
def execIngShard (q : QueueN) (st : State) : Host.Outcome State Fault Refusal :=
  st.act fun d => d.cmd q 0x503 [.num 1, .num 4, .num 8, .num 4, .num 8, .num 4, .num 8, .num 4]
    (fun ps => firstBad [(decide (3 < ps.at 0), 0)])
    fun c ps d => d.onPart c fun d =>
      let p := c.part
      let r := ps.at 0
      let s := shardOf c.seq 1 ps
      let x := d.ring p r
      if !d.ringOn p r then d.param c 0
      else if 8 ≤ x.shards.length then d.fail c 0x7
      else match d.shardBad p s with
        | some a => d.fail c 0x6 (detail a 0 0 0 0)
        | none =>
          let d := d.setRing p r { x with shards := x.shards ++ [s] }
          (if x.shards.isEmpty then d.activate p r else d).pump p r

/-- Every shard of a ring ends with a cause, and its samples are dropped; the current row has closed. -/
def Dev.stopRing (d : Dev) (p r cause : Nat) : Dev :=
  let x := (d.ring p r).endRows
  let d := { d with ing := { d.ing with
    samples := d.ing.samples.filter fun s => !(s.id.p.val == p && s.id.ring.val == r) } }
  let d := d.setRing p r { x with shards := [], done := [], held := [] }
  let d := forL x.shards (fun s (d : Dev) => d.finishSeq s.seq (some clsRequest) cause 0) d
  d.updateCur p r

/-- Reads the entries of a substitution log. -/
def Dev.readLog (d : Dev) (log lo hi : Nat) : List LogEnt :=
  (List.range (hi - lo)).map fun k =>
    let b := d.rim.read (log + 64 + 16 * (lo + k)) 16
    { kind := leAt b 0 1, reason := leAt b 1 1, sidx := leAt b 4 4, x := leAt b 8 4, y := leAt b 12 4 }

/-- ING_RESTORE (R231, R232): ring, cursor, shard; the ring is emptied and rebuilt from the cursor, and the log is
replayed from LOGPTR up to HWM. -/
def execIngRestore (q : QueueN) (st : State) : Host.Outcome State Fault Refusal :=
  st.act fun d => d.cmd q 0x504 [.num 1, .bytes 64, .num 4, .num 8, .num 4, .num 8, .num 4, .num 8, .num 4]
    (fun ps => firstBad [(decide (3 < ps.at 0), 0)])
    fun c ps d => d.onPart c fun d =>
      let p := c.part
      let r := ps.at 0
      let cur := ps.at 1
      let s := shardOf c.seq 2 ps
      if !d.ringOn p r then d.param c 0
      else match d.shardBad p s with
        | some a => d.fail c 0x6 (detail a 0 0 0 0)
        | none =>
          let y := d.readRim 0 s.log (64 + 16 * s.cap)
          match y.2 with
          | g :: _ => y.1.fail c 0x38 (ueDetail g)
          | [] =>
          let d := y.1.stopRing p r 0x8
          let hd := d.rim.read s.log 16
          let count := min (leAt hd 4 4) s.cap
          let lp := bits cur 319 288
          let hwm := if leAt hd 8 4 = 0xFFFFFFFF then none else some (leAt hd 8 4, leAt hd 12 4)
          let s := { s with
            pack := bits cur 415 384, fromFrame := bits cur 383 352, fromTok := bits cur 351 320, logged := lp,
            spareNext := bits cur 287 256, sparePack := bits cur 287 256, replay := d.readLog s.log lp count, replayHwm := hwm }
          let x := d.ring p r
          let d := d.setRing p r { Ring.none with shards := [s], rseq := bits cur 511 448, ftag := bits cur 255 226,
                                                   rois := x.rois, posted := x.posted }
          let d := (d.setReg (rIngRingPtr p r) 0).setReg (rIngCur p r) cur
          (d.activate p r).pump p r

/-- ING_STOP: the current row closes and the ring's shards end with ABORTED. -/
def execIngStop (q : QueueN) (st : State) : Host.Outcome State Fault Refusal :=
  st.act fun d => d.cmd q 0x505 [.num 1] (fun ps => firstBad [(decide (3 < ps.at 0), 0)])
    fun c ps d => d.onPart c fun d => (d.stopRing c.part (ps.at 0) 0x8).done c

/-- A shard of p names dictionary slot k. -/
def Dev.dictInUse (d : Dev) (p k : Nat) : Bool :=
  (List.range 4).any fun r => (d.ring p r).shards.any fun s =>
    (List.range s.count).any (fun j => let e := d.rim.read (s.descs + 256 * j) 256; isText (dCodec e) && dDict e == k) ||
    (List.range s.nspare).any (fun j => let e := d.rim.read (s.spares + 256 * j) 256; isText (dCodec e) && dDict e == k)

/-- ING_DICT_LOAD (R221). -/
def execIngDictLoad (q : QueueN) (st : State) : Host.Outcome State Fault Refusal :=
  st.act fun d => d.cmd q 0x506 [.num 1, .num 8] (fun ps => firstBad [(decide (3 < ps.at 0), 0)])
    fun c ps d => d.onPart c fun d =>
      let p := c.part
      let a := ps.at 1
      if d.dictInUse p (ps.at 0) then d.fail c 0x4 else
      let n := leNat (d.rim.read (a + 4) 4)
      match d.firstBad p a (dictSize (min n 262144)) with
      | some b => d.fail c 0x6 (detail b 0 0 0 0)
      | none =>
        let y := d.readRim 0 a (dictSize (min n 262144))
        let d := y.1
        let img := d.rim.read a (dictSize (min n 262144))
        match y.2 with
        | g :: _ => d.fail c 0x38 (ueDetail g)
        | [] =>
        if dictBad img then d.param c 1
        else
          let d := { d with ing := { d.ing with dicts := alPut d.ing.dicts (p * 4 + ps.at 0) img } }
          (d.setReg (rIngDict p (ps.at 0)) (2 ^ 127 + n * 2 ^ 64 + a)).done c

/-- ING_BUDGET (R228). -/
def execIngBudget (q : QueueN) (st : State) : Host.Outcome State Fault Refusal :=
  st.act fun d => d.cmd q 0x507 [.num 1, .num 1]
    (fun ps => firstBad [(decide (ps.at 0 < 2 ∨ 64 < ps.at 0), 0), (decide (ps.at 1 < 1 ∨ 50 < ps.at 1), 1)])
    fun c ps d => d.onPart c fun d => (d.setReg (rIngBudget c.part) (ps.at 1 * 2 ^ 8 + ps.at 0)).done c

/-- ING_QUOTA (R233). -/
def execIngQuota (q : QueueN) (st : State) : Host.Outcome State Fault Refusal :=
  st.act fun d => d.cmd q 0x508 [.num 1, .num 4, .num 4] (fun ps => firstBad [(decide (5 < ps.at 0), 0)])
    fun c ps d => d.onPart c fun d =>
      let v := ps.at 2 * 2 ^ 32 + ps.at 1
      if d.quotaOk c.part (ps.at 0) v then (d.writeQuota c.part (ps.at 0) v).done c else d.param c 1

end Sys2Proof.Machine
end

