-- ==== Sys2Proof/Machine/Fence.lean ====
section
/-! DEFINITION. Deadline fences (R79): how a context meets one and how it releases. -/

namespace Sys2Proof.Machine

/-- The address that a request's end names: where it writes next, or what it prefetches. -/
def Dev.requestAddr (d : Dev) (r : Request) : Nat :=
  match r.kind, r.pieces with
  | .prefetch src _, _ => src
  | _, q :: _ => q.dsts.headD 0
  | .take _ dst _ _, [] => dst
  | .barrov g epoch, [] => (match d.job g epoch with | some j => j.dst | none => 0)
  | .copy, [] => 0

/-- The fence of a tag releases (R79): outstanding requests end with DEADLINE (a take consumes no entry, a Barrov op
aborts its group, R203), the condition is written, the error state of the tag clears. -/
def Dev.releaseFence (d : Dev) (h n : Nat) (f : FenceWait) : Dev :=
  let c := d.ctx h n
  let left := c.onTag f.tag
  let err := c.tagErr.contains f.tag
  let v := if err then 2 else if left.isEmpty then 0 else 1
  let d := forL left (fun r d =>
    let a := d.requestAddr r
    d.record { part := some c.part, cls := clsRequest, cause := 0x51, block := 10, unit := seqUnit h n none,
               det := detail a c.bidx n f.tag f.tag }) d
  let d := forL left (fun r d => match r.kind with
    | .take ring _ nrow (some first) => d.unclaim c.part ring first nrow
    | .barrov g epoch => match d.job g epoch with
      | some j => ((((d.dropEpoch g epoch).faultGroup g epoch (some 9) j.met).nextJob g).advance c.part)
      | none => d
    | _ => d) d
  let d := d.modCtx h n fun c =>
    { c with requests := c.requests.filter fun r => r.tag != f.tag, tagErr := c.tagErr.filter fun t => t != f.tag,
             fence := none, fenceDone := true, phase := if c.phase = .dfenceWait then .boundary else c.phase }
  if f.cv then d.later h n ((d.ctx h n).cyc + 2) (.cond f.cn 3 v) else d

/-- A context meets a deadline fence: with no request on its tag it releases at once, else the context waits. One with no
outstanding request on its tag, but a request that ended in error there since the last fence, releases at once with 2: the
condition value's own sentence is taken before that of the fence without requests (DEDUCED, log 95). -/
def Dev.meetFence (d : Dev) (h n : Nat) (o : DfenceOp) : Dev :=
  let f : FenceWait := { tag := o.tag.toNat, bound := o.bound.toNat, cn := o.cn.toNat, cv := o.cv, waited := 0 }
  if ((d.ctx h n).onTag f.tag).isEmpty || f.bound == 0 then d.releaseFence h n f
  else d.modCtx h n fun c => { c with fence := some f, phase := .dfenceWait }

/-- DFENCE (R79): the context meets the fence of the bundle it is about to issue. -/
def execDfence (c : CtxId) (o : DfenceOp) (st : State) : Host.Outcome State Fault Refusal :=
  st.act fun d =>
    let x := d.ctx c.h.val c.n.val
    if x.state = .running ∧ x.phase = .boundary ∧ x.fenceDone = false then d.meetFence c.h.val c.n.val o else d

/-- DFENCE_RELEASE (R79): the fence that a running context waits on releases; while requests are outstanding its bound
passes first. -/
def execDfenceRelease (c : CtxId) (st : State) : Host.Outcome State Fault Refusal :=
  st.act fun d =>
    let h := c.h.val
    let n := c.n.val
    match (d.ctx h n).fence with
    | none => d
    | some f =>
      if (d.ctx h n).state ≠ .running then d
      else if ((d.ctx h n).onTag f.tag).isEmpty then d.releaseFence h n f
      else (d.waitOn h n (f.bound - f.waited)).releaseFence h n f

end Sys2Proof.Machine
end

