-- ==== Sys2Proof/Machine/LoadStore.lean ====
section
/-! DEFINITION. The load/store slot but for its asynchronous copies (03_scangathen_operations.md, Table 03-13, R76,
R145). -/

namespace Sys2Proof.Machine

/-- Bytes of an element. -/
def lsSize (o : LsOp) : Nat := 2 ^ o.esz.toNat

/-- The lanes that lg names; 11 is reserved and names none. -/
def lsLaneList (o : LsOp) : List Nat :=
  match o.lg.toNat with
  | 0 => List.range 256
  | 1 => (List.range 256).map fun l => l + 256
  | 2 => List.range 512
  | _ => []

/-- The lanes that the guard lets act, each with its position among the lanes of lg. -/
def Dev.lsLanes (d : Dev) (f k : Nat) (o : LsOp) : List (Nat × Nat) :=
  ((List.range (lsLaneList o).length).zip (lsLaneList o)).filter fun x => d.guardIn f k o.ge o.gn o.pg.toNat x.2

/-- The half of the register that an element takes: 0 for all of it. -/
def lsPart (o : LsOp) : Nat := if o.esz = 1 then (if o.hi then 2 else 1) else 0

/-- LDV and LDB: `one` reads the element at LA alone. -/
def loadOn (one : Bool) (i : Issue) (o : LsOp) (f : Nat) (w : Work) : Work :=
  let k := thread i o.pin o.pctx.toNat
  let sz := lsSize o
  let n := if one then sz else sz * (lsLaneList o).length
  let r := lsRead i f 3 (alignDown (w.1.laAddr f o.la) sz) n w
  let els := unpack r.1 (8 * sz) (n / sz)
  let vs := (w.1.lsLanes f k o).map fun x => (o.vr.toNat * 512 + x.2, nth els (if one then 0 else x.1))
  let w := laAdvance o.la f n r.2
  if vs.isEmpty then w else i.later 16 (.lane f k (lsPart o) vs []) w

def ldvOn : Issue → LsOp → Nat → Work → Work := loadOn false
def ldbOn : Issue → LsOp → Nat → Work → Work := loadOn true

/-- STV: the registers as they stand at the issue, landing 4 cycles later. -/
def stvOn (i : Issue) (o : LsOp) (f : Nat) (w : Work) : Work :=
  let k := thread i o.pin o.pctx.toNat
  let sz := lsSize o
  let n := sz * (lsLaneList o).length
  let a := alignDown (w.1.laAddr f o.la) sz
  let bs := (w.1.lsLanes f k o).flatMap fun x =>
    let v := w.1.vreg f k o.vr.toNat x.2
    placeBytes (a + x.1 * sz) (leBytes sz (if (lsPart o) = 2 then v / 65536 else v))
  let w := laAdvance o.la f n w
  if n = 0 then w else i.later 4 (.store f 3 i.bidx a n bs) w

/-- AMOV. -/
def amovOn (_ : Issue) (o : AregOp) (f : Nat) (w : Work) : Work := setAreg f o.ad.toNat o.imm.toNat w

/-- AADD. -/
def aaddOn (_ : Issue) (o : AregOp) (f : Nat) (w : Work) : Work :=
  setAreg f o.ad.toNat (w.1.areg f o.src.toNat + o.imm.toNat) w

/-- AMUL. -/
def amulOn (_ : Issue) (o : AregOp) (f : Nat) (w : Work) : Work :=
  setAreg f o.ad.toNat (w.1.areg f o.src.toNat * o.imm.toNat) w

/-- AFROMV. -/
def afromvOn (i : Issue) (o : AfromvOp) (f : Nat) (w : Work) : Work :=
  setAreg f o.ad.toNat (w.1.vreg f (thread i o.pin o.pctx.toNat) o.vr.toNat o.lane.toNat) w

/-- STDC: the counters as they stand before any DISP of the cycle. -/
def stdcOn (i : Issue) (o : StdcOp) (f : Nat) (w : Work) : Work :=
  let a := w.1.laAddr f o.la
  let bs := (List.range 512).flatMap fun j => leBytes 2 (w.1.dcnt.get (f * 1024 + 512 * b2n o.half + j))
  i.later 4 (.store f 3 i.bidx a 1024 (placeBytes a bs)) (laAdvance o.la f 1024 w)

/-! ## The rows -/

/-- LDV (R76). -/
def execLdv (s : Site) (o : LsOp) (st : State) : Host.Outcome State Fault Refusal :=
  st.act fun d => d.siteOp s 3 fun i => siteEach s (ldvOn i o)

/-- STV (R76). -/
def execStv (s : Site) (o : LsOp) (st : State) : Host.Outcome State Fault Refusal :=
  st.act fun d => d.siteOp s 3 fun i => siteEach s (stvOn i o)

/-- LDB (R76). -/
def execLdb (s : Site) (o : LsOp) (st : State) : Host.Outcome State Fault Refusal :=
  st.act fun d => d.siteOp s 3 fun i => siteEach s (ldbOn i o)

/-- AMOV. -/
def execAmov (s : Site) (o : AregOp) (st : State) : Host.Outcome State Fault Refusal :=
  st.act fun d => d.siteOp s 3 fun i => siteEach s (amovOn i o)

/-- AADD. -/
def execAadd (s : Site) (o : AregOp) (st : State) : Host.Outcome State Fault Refusal :=
  st.act fun d => d.siteOp s 3 fun i => siteEach s (aaddOn i o)

/-- AMUL. -/
def execAmul (s : Site) (o : AregOp) (st : State) : Host.Outcome State Fault Refusal :=
  st.act fun d => d.siteOp s 3 fun i => siteEach s (amulOn i o)

/-- AFROMV (R76). -/
def execAfromv (s : Site) (o : AfromvOp) (st : State) : Host.Outcome State Fault Refusal :=
  st.act fun d => d.siteOp s 3 fun i => siteEach s (afromvOn i o)

/-- STDC (R76, R145). -/
def execStdc (s : Site) (o : StdcOp) (st : State) : Host.Outcome State Fault Refusal :=
  st.act fun d => d.siteOp s 3 fun i => siteEach s (stdcOn i o)

end Sys2Proof.Machine
end

