-- ==== Sys2Proof/Machine/Prism.lean ====
section
/-! DEFINITION. The prism slot: MMA, DRAIN, PCFG, PVLD, the landing of products and drained rows
(03_scangathen_operations.md, R63 to R69; R22, R23). -/

namespace Sys2Proof.Machine

/-- A numeric-event site of the prism for an issue. -/
def Issue.site (i : Issue) (unit f : Nat) : NevSite :=
  { unit, facet := f, bidx := i.bidx, ctx := i.n, icount := i.icount, tctx := 0 }

/-- Groups the events of a drain's chunk by row. -/
def rowHits (site : NevSite) (els : List (Ev × Nat × Nat)) : List NevHit :=
  (List.range 128).flatMap fun r =>
    (hitsOf site (els.filter fun e => e.2.1 == r)).map fun h => { h with mode := 1 }

/-- A drain of set `set` of facet f with descriptor `ddi` starts (R65, R68). -/
def drainOn (i : Issue) (set : Bool) (ddi f : Nat) (w : Work) : Work :=
  let a := w.1.acc f set
  let x := w.1.freeScales a a.chunk
  let y := x.2.closeChunk
  let d := x.1.setAcc f set y.1
  let pd := d.pdesc f ddi
  let la := descLA pd 0
  let pitch := if pdPitch pd = 0 then rowBytes (pdOfmt pd) else pdPitch pd
  let vec (v : Nat) : List Nat := (List.range 128).map fun j => d.pvs.get (pvIdx f v j)
  let job : DrainJob :=
    { facet := f, set, base := y.1.base, totals := y.1.totals, intMode := y.1.intMode, dst := d.laAddr f la, pitch,
      ofmt := pdOfmt pd, flags := pdFlags pd, rs := vec 0, cs := vec 1, bi := vec 2, site := i.site 1 f,
      chunkHits := rowHits (i.site 0 f) y.2, seen := [] }
  i.later 40 (.drainRow job 0) (laAdvance la f (128 * pitch) (d, w.2))

/-- The block-scale read that falls to an issue with `q` K-steps in the block: which of the four (R66). -/
def scaleRead (q kps : Nat) : Option Nat := (List.range 4).find? fun j => q == 4 * j * kps

/-- Reads 64 block scales: half `j % 2` of A for j < 2, of B otherwise. -/
def readScales (i : Issue) (f : Nat) (pd blk j : Nat) (w : Work) : NatMap × Work :=
  let la := descLA pd (if j < 2 then 4 else 8)
  let a := (w.1.laAddr f la + 64 * (j % 2)) % 2 ^ 21
  let r := lsRead i f 1 (alignDown a 64) 64 w
  let ks := ((List.range 64).zip r.1).map fun e => (sclKey blk (decide (2 ≤ j)) (64 * (j % 2) + e.1), e.2.toNat + 1)
  (ks, if j % 2 = 1 then laAdvance la f 128 r.2 else r.2)

/-- The set at the first issue of a clr op (R65, R114). -/
def AccSet.start (a : AccSet) (intMode : Bool) : AccSet :=
  { a with intMode, issued := 0, gen := a.gen + 1, sliceA := [], sliceB := [], stepsA := [], vals := [], metas := [],
           scl := a.scl.filter fun e => decide (a.gen * 2 ^ 40 ≤ e.1) }

/-- Reads an operand of `n` bytes at an LA: its codes of `w` bits and the device after its post-increment. -/
def readOperand (i : Issue) (f ord : Nat) (la : LA) (n bits : Nat) (w : Work) : List Nat × Work :=
  let r := lsRead i f ord (alignDown (w.1.laAddr f la) (align64 n)) n w
  (unpack r.1 bits (n * 8 / bits), laAdvance la f n r.2)

/-- Whether a code reads as zero (R100, R142). -/
def zeroCode (fmt c : Nat) : Bool := if fmtIsInt fmt then c % 2 ^ fmtBits fmt == 0 else (readElem fmt c).1.isZero

/-- Products of a K-step that R142 does not gate. -/
def KStep.live (k : KStep) : Nat :=
  countIf (fun c => !zeroCode k.fa c) k.a *
    countIf (fun b => match b with | some c => !zeroCode k.fb c | none => false) k.b

/-- The K-steps and products of an MMA issue are counted: `k16` is 16 times its kps (Table 16-2). -/
def Dev.countMma (d : Dev) (f k16 : Nat) (steps : List KStep) : Dev :=
  let d := d.countFacet f 3 noSub steps.length
  let d := d.countFacet f 4 (fun s => s == 0) (1024 * k16)
  d.countFacet f 4 (fun s => s == 1) (steps.foldl (fun n k => n + k.live) 0)

/-- One issue of MMA in facet f. -/
def mmaOn (i : Issue) (o : MmaOp) (f : Nat) (w : Work) : Work :=
  let fa := o.fa.toNat
  let fb := o.fb.toNat
  let w := if o.drn && i.first then drainOn i (!o.acc) o.ddi.toNat f w else w
  let a := w.1.acc f o.acc
  let int := intPair fa fb
  let clr := o.clr && i.first
  if !clr && a.intMode != int then (w.1, w.2.err (i.fctErr f 0x44 0 (b2n o.acc)))
  else
    let a := if clr then a.start int else a
    let pd := w.1.pdesc f o.pdi.toNat
    let k := kps16 fa fb o.sp
    let cnt := a.issued + a.stepsA.length
    let sw : NatMap × Work := if o.bs then
        match scaleRead (cnt % 32) (k / 16) with
        | some j => readScales i f pd (a.blk cnt) j w
        | none => ([], w)
      else ([], w)
    let w := sw.2
    let nA := fmtBits fa * k
    let nB := if o.sp then fmtBits fb * k / 2 else fmtBits fb * k
    let ra := readOperand i f 0 o.laA nA (fmtBits fa) w
    let rb := readOperand i f (if o.sp ∨ 256 < nA + nB then 4 else 0) o.laB nB (fmtBits fb) ra.2
    let rm : List Nat × Work := if o.sp then readOperand i f 4 (descLA pd 12) k 4 rb.2 else ([], rb.2)
    let w := rm.2
    let site := i.site 0 f
    let flush := hitsOf site (flushHits fa false a.sliceA.length ra.1 ++
      flushHits fb true (if o.sp then a.vals.length else a.sliceB.length) rb.1)
    let bad := countIf (fun m => m / 4 ≤ m % 4) rm.1
    let w := w.dev fun d => if bad = 0 then d else d.bump (rFctSpmeta f) bad
    let a := { a with sliceA := a.sliceA ++ ra.1, scl := a.scl.setAll sw.1 }
    let r := if o.sp then
        sparseSteps fa fb o.bs 1 (gatherA 4 { a with vals := a.vals ++ rb.1, metas := a.metas ++ rm.1 })
      else denseSteps fa fb o.bs 2 { a with sliceB := a.sliceB ++ rb.1 }
    let w := w.dev fun d => (d.setAcc f o.acc r.1).countMma f k r.2
    -- the issue's one record waits for its products, if it has any (R124)
    if r.2.isEmpty && !clr then w.hit flush
    else i.later 24 (.product f o.acc clr r.2 (chunkLen (pdChlen pd) fa fb) site (flush.map fun h => { h with mode := 2 }))
      (w.hit (flush.map fun h => { h with mode := 1 }))

/-- One issue of DRAIN in facet f. -/
def drainOpOn (i : Issue) (o : DrainOp) (f : Nat) (w : Work) : Work := drainOn i o.acc o.ddi.toNat f w

/-- One issue of PCFG in facet f (R67). -/
def pcfgOn (i : Issue) (o : PcfgOp) (f : Nat) (w : Work) : Work :=
  let r := lsRead i f 0 (alignDown (w.1.laAddr f o.la) 64) 64 w
  let w := laAdvance o.la f 64 r.2
  if pdBad (leNat r.1) then (w.1, w.2.err (i.fctErr f 0x43 0 o.d.toNat))
  else i.later 2 (.prismDesc f o.d.toNat r.1) w

/-- One issue of PVLD in facet f; v = 11 is reserved and loads nothing. -/
def pvldOn (i : Issue) (o : PvldOp) (f : Nat) (w : Work) : Work :=
  let r := lsRead i f 0 (alignDown (w.1.laAddr f o.la) 64) 256 w
  let w := laAdvance o.la f 256 r.2
  if o.v = 3 then w else i.later 2 (.prismVec f o.v.toNat o.half (unpack r.1 32 64)) w

/-! ## Order of drains and accumulation (R23, R69) -/

/-- Cycles that a drain of a set of facet f must wait in cycle c of a context. -/
def Ctx.drainHold (x : Ctx) (f : Nat) (set : Bool) (c : Nat) : Nat :=
  x.inflight.foldl (fun m e => match e.eff with
    | .product g s _ _ _ _ _ => if g = f ∧ s = set then max m (e.due + 1 - c) else m
    | .drainRow j r => if j.facet = f then max m (e.due - r - 40 + 128 - c) else m
    | _ => m) 0

/-- Cycles that an MMA into a set of facet f must wait in cycle c. -/
def Ctx.mmaHold (x : Ctx) (f : Nat) (set : Bool) (c : Nat) : Nat :=
  x.inflight.foldl (fun m e => match e.eff with
    | .drainRow j r => if j.facet = f ∧ j.set = set then max m (e.due - r - 40 + 104 - c) else m
    | _ => m) 0

/-- Whether an MMA issue sends something to its set: the products of a K-step that it completes, or the clear of a clr
issue. -/
def Dev.mmaLands (d : Dev) (i : Issue) (o : MmaOp) (f : Nat) : Bool :=
  let a := d.acc f o.acc
  let clr := o.clr && i.first
  let a := if clr then a.start a.intMode else a
  let k := kps16 o.fa.toNat o.fb.toNat o.sp
  let n := a.sliceA.length + 8 * k
  clr || if o.sp then
      decide (4 ≤ a.stepsA.length + n / 128 ∧ 256 ≤ a.vals.length + 4 * k ∧ 128 ≤ a.metas.length + 2 * k)
    else decide (128 ≤ n)

/-- Cycles that an MMA must wait in facet f. -/
def Dev.mmaWait (d : Dev) (i : Issue) (o : MmaOp) (f : Nat) : Nat :=
  let x := d.ctx i.h i.n
  max (if d.mmaLands i o f then x.mmaHold f o.acc i.cyc else 0) (if o.drn && i.first then x.drainHold f (!o.acc) i.cyc else 0)

/-- Cycles that a DRAIN must wait in facet f. -/
def Dev.drainWait (d : Dev) (i : Issue) (o : DrainOp) (f : Nat) : Nat := (d.ctx i.h i.n).drainHold f o.acc i.cyc

/-- No facet of the site must wait. -/
def noWait (s : Site) (f : Nat → Nat) : Bool := (siteFacets s).all fun g => f g == 0

/-! ## The rows -/

/-- MMA (R63 to R66, R113 to R117, R135 to R137). -/
def execMma (s : Site) (o : MmaOp) (st : State) : Host.Outcome State Fault Refusal :=
  st.act fun d => if noWait s (d.mmaWait (d.issueOf s.c) o) then d.siteOp s 0 fun i => siteEach s (mmaOn i o) else d

/-- DRAIN (R65, R68, R69). -/
def execDrain (s : Site) (o : DrainOp) (st : State) : Host.Outcome State Fault Refusal :=
  st.act fun d => if noWait s (d.drainWait (d.issueOf s.c) o) then d.siteOp s 0 fun i => siteEach s (drainOpOn i o) else d

/-- PCFG (R67). -/
def execPcfg (s : Site) (o : PcfgOp) (st : State) : Host.Outcome State Fault Refusal :=
  st.act fun d => d.siteOp s 0 fun i => siteEach s (pcfgOn i o)

/-- PVLD (R68). -/
def execPvld (s : Site) (o : PvldOp) (st : State) : Host.Outcome State Fault Refusal :=
  st.act fun d => d.siteOp s 0 fun i => siteEach s (pvldOn i o)

def Effect.isProduct : Effect → Bool
  | .product _ _ _ _ _ _ _ => true
  | _ => false

def Effect.isDrainRow : Effect → Bool
  | .drainRow _ _ => true
  | _ => false

/-- PRODUCT_LAND: the next products of a context land (R22, R114). -/
def execProductLand (c : CtxId) (st : State) : Host.Outcome State Fault Refusal :=
  st.act fun d => d.landNext c Effect.isProduct

/-- DRAIN_ROW_WRITE: the next drained row of a context is written (R22, R68). -/
def execDrainRowWrite (c : CtxId) (st : State) : Host.Outcome State Fault Refusal :=
  st.act fun d => d.landNext c Effect.isDrainRow

end Sys2Proof.Machine
end

