-- ==== Sys2Proof/Machine/Wedge.lean ====
section
/-! DEFINITION. The wedge/move slot: MOVE, FILL, WCFG, the wedge engine and the box unit
(03_scangathen_operations.md, Table 03-14; 08_vision_operators.md, R156 to R164). -/

namespace Sys2Proof.Machine

/-! ## MOVE and FILL -/

/-- The local address of address register a of facet f, aligned to 64 B. -/
def Dev.areg64 (d : Dev) (f a : Nat) : Nat := alignDown (d.areg f a % 2 ^ 21) 64

/-- The source facet of MOVE: the facet itself, or the one whose index within the sector differs by dlt; none
where that index lies outside 0 to 15. -/
def moveFrom (o : MoveOp) (f : Nat) : Option Nat :=
  if !o.x then some f
  else
    let j : Int := (f % 16 : Nat) + toSigned 4 o.dlt.toNat
    if 0 ≤ j ∧ j < 16 then some (f / 16 * 16 + j.toNat) else none

/-- MOVE in facet f; `fm` is the facet mask of the slot. The issuing facet's own a[as] is the address in the source
facet. -/
def moveOn (i : Issue) (fm : BitVec 16) (o : MoveOp) (f : Nat) (w : Work) : Work :=
  let dst := w.1.areg64 f o.ad.toNat
  let w1 := match moveFrom o f with
    | none => w
    | some g =>
      if !fm.getLsbD (g % 16) then w else
      let r := lsRead i g 4 (w.1.areg64 f o.src.toNat) 128 w
      i.later 4 (.store f 4 i.bidx dst 128 (placeBytes dst r.1)) r.2
  let w2 := if o.spi then incAreg f o.src.toNat 128 w1 else w1
  if o.dpi then incAreg f o.ad.toNat 128 w2 else w2

/-- FILL in facet f. -/
def fillOn (i : Issue) (o : FillOp) (f : Nat) (w : Work) : Work :=
  let dst := w.1.areg64 f o.ad.toNat
  let bs := (List.range 32).flatMap fun _ => leBytes 4 o.pattern.toNat
  let w := i.later 4 (.store f 4 i.bidx dst 128 (placeBytes dst bs)) w
  if o.dpi then incAreg f o.ad.toNat 128 w else w

/-! ## WCFG (R156) -/

/-- Whether a number lies in a range. -/
def inRange (lo hi v : Nat) : Bool := decide (lo ≤ v ∧ v ≤ hi)

/-- Whether a KIND 0x00 descriptor breaks Table 08-1, Table 08-3 or the other cases of R156. -/
def wedgeBad (v : Nat) : Bool :=
  let h := wdAt v 0x1C 2
  let w := wdAt v 0x1E 2
  let kh := wdAt v 0x26 1
  let kw := wdAt v 0x27 1
  let sh := bits (wdAt v 0x28 1) 3 0
  let sw := bits (wdAt v 0x28 1) 7 4
  let dh := bits (wdAt v 0x29 1) 3 0
  let dw := bits (wdAt v 0x29 1) 7 4
  let fa := wdFin v
  let fb := wdFwt v
  let ok (f : Nat) : Bool := f == 3 || f == 4 || f == 8 || f == 9 || f == 1 || f == 2
  let modeF := wdModeF v
  let swTop := if modeF then (if fmtBits fa = 16 then 2 else 4) else 1
  let dwTop := if modeF then 4 else 1
  let ch := wdAt v 0x32 2
  !(inRange 1 4096 h && inRange 1 4096 w && inRange 1 11 kh && inRange 1 11 kw && inRange 1 4 sh && inRange 1 swTop sw &&
      inRange 1 4 dh && inRange 1 dwTop dw && decide (wdAt v 0x2A 1 ≤ dh * (kh - 1)) && decide (wdAt v 0x2B 1 ≤ dh * (kh - 1)) &&
      decide (wdAt v 0x2C 1 ≤ dw * (kw - 1)) && decide (wdAt v 0x2D 1 ≤ dw * (kw - 1)) && inRange 1 256 (wdCin v) &&
      inRange 1 256 (wdCout v)) ||
    (decide (8 < wdCin v) && decide (8 < wdCout v)) || !ok fa || !ok fb || fmtBits fa != fmtBits fb ||
    decide (0xB ≤ wdOfmt v) || wdAt v 0x08 4 % 64 != 0 || wdAt v 0x10 4 % 64 != 0 || wdAt v 0x14 4 % 64 != 0 ||
    wdAt v 0x18 2 % 64 != 0 || wdAt v 0x1A 2 % 64 != 0 || (ch != 0 && (ch % 16 != 0 || decide (256 < ch))) ||
    wdAt v 0x35 10 != 0

/-- Whether WCFG rejects a descriptor. -/
def wcfgBad (v : Nat) : Bool :=
  if wdKind v = 0 then wedgeBad v
  else if wdKind v = 1 then wdAt v 0x0C 4 % 64 != 0 || wdAt v 0x1E 2 != 0 || wdAt v 0x3D 2 != 0
  else true

/-- WCFG in facet f. -/
def wcfgOn (i : Issue) (o : WcfgOp) (f : Nat) (w : Work) : Work :=
  let r := lsRead i f 4 (w.1.areg64 f o.src.toNat) 64 w
  if wcfgBad (leNat r.1) then (r.2.1, r.2.2.err (i.fctErr f 0x43 0 o.d.toNat))
  else i.later 2 (.wedgeDesc f o.d.toNat r.1) r.2

/-! ## WEDGE (R157 to R160) -/

/-- The bank accesses of byte spans of one step: each granule once; and the LS_UNBACKED record of the first
unbacked byte. -/
def touchSpans (i : Issue) (f ord : Nat) (spans : List (Nat × Nat)) (w : Work) : Work :=
  let gs := (spans.flatMap fun s => granules s.1 s.2).eraseDups.filter fun g => decide (g < lsTop / 64)
  let k := { w.2 with banks := w.2.banks ++ gs.map fun g => { f, ord, gran := g } }
  match spans.findSome? fun s => firstUnbacked s.1 s.2 with
  | none => (w.1, k)
  | some u => (w.1, k.err (i.fctErr f 0x46 (lsView f + u % 0x200000) 0))

/-- A WEDGE fault of facet f (R159). -/
def wedgeErr (i : Issue) (f dn : Nat) (w : Work) : Work := (w.1, w.2.err (i.fctErr f 0x4C 0 dn))

/-- The tap of MAC step i of a pass: kh, kw and the plane. -/
def tapOf (v i : Nat) : Nat × Nat × Nat :=
  let c := wdCin v
  let kw := wdAt v 0x27 1
  (i / c / kw, i / c % kw, i % c)

/-- Address and code source of the input of tap (kh, kw), plane c, at output (ho, wo): none out of range (R151). -/
def tapAddr (v kh kw c ho wo : Nat) : Option Nat :=
  let r := tapAt ho (bits (wdAt v 0x28 1) 3 0) (wdAt v 0x2A 1) kh (bits (wdAt v 0x29 1) 3 0)
  let q := tapAt wo (bits (wdAt v 0x28 1) 7 4) (wdAt v 0x2C 1) kw (bits (wdAt v 0x29 1) 7 4)
  if 0 ≤ r ∧ r < (wdAt v 0x1C 2 : Nat) ∧ 0 ≤ q ∧ q < (wdAt v 0x1E 2 : Nat) then
    some ((wdAt v 0x00 4 + c * wdAt v 0x10 4 + r.toNat * wdAt v 0x18 2 + q.toNat * (fmtBits (wdFin v) / 8)) % 2 ^ 21)
  else none

/-- What MAC step `n` of a tile reads: input codes by position and weight codes by channel. -/
def wedgeRead (i : Issue) (f : Nat) (t : WedgeTile) (n : Nat) (w : Work) : (List Nat × List Nat) × Work :=
  let v := t.desc
  let tp := tapOf v n
  let sz := fmtBits (wdFin v) / 8
  let at_ := (List.range (wdPos v t.wo0)).map fun p => tapAddr v tp.1 tp.2.1 tp.2.2 t.ho (t.wo0 + p)
  let xs := at_.map fun a => match a with
    | some a => leNat ((List.range sz).map fun k => w.1.lsByte f (a + k))
    | none => wdAt v 0x2E 2 % 2 ^ fmtBits (wdFin v)
  let wa := alignDown ((wdAt v 0x04 4 + (t.block * wdSteps v + n) * 64) % 2 ^ 21) 64
  let ws := unpack ((List.range 64).map fun k => w.1.lsByte f (wa + k)) (fmtBits (wdFwt v)) (wdCh v t.block)
  ((xs, ws), touchSpans i f 4 (at_.filterMap (fun a => a.map fun a => (a, sz)) ++ [(wa, 64)]) w)

/-- A MAC step of facet f. -/
def macStep (i : Issue) (o : WedgeOp) (f : Nat) (w : Work) : Work :=
  let c := w.1.cell f
  let start : Option WedgeTile := match c.cur with
    | some t => some t
    | none =>
      if c.tiles.any fun t => t.buf == c.pass % 2 then none else
      let a := w.1.areg f o.ar.toNat
      some { steps := [], ready := none, out := [], written := 0, wo0 := bits a 15 0, ho := bits a 31 16,
             block := bits a 39 32, buf := c.pass % 2, desc := w.1.wdesc f o.d.toNat, site := i.site 3 (f / 16 * 16) }
  match start with
  | none => wedgeErr i f o.d.toNat w
  | some t =>
    let r := wedgeRead i f t c.step w
    let t := { t with steps := t.steps ++ [r.1], site := i.site 3 (f / 16 * 16) }
    let w := r.2.dev fun d => d.countFacet f 0xD noSub 1
    if c.step + 1 < wdSteps t.desc then w.dev fun d => d.setCell f { c with step := c.step + 1, cur := some t }
    else
      let t := { t with ready := some (i.cyc + 20) }
      let keep := wdCh t.desc t.block != 0
      let w := w.dev fun d => d.setCell f
        { pass := c.pass + 1, step := 0, cur := none, tiles := if keep then c.tiles ++ [t] else c.tiles }
      if keep then i.later 20 (.wedgeReady f) w else w

/-- Bits of a full row of a tile, at least one granule. -/
def wdRowBits (v : Nat) : Nat := max 512 (wdP v * fmtBits (wdOfmt v))

/-- Write steps that a tile takes: 4 / g rows per step, or one granule per step when g exceeds 4 (R159). -/
def wdWrites (v b : Nat) : Nat :=
  if 2048 < wdRowBits v then wdCh v b * ceilDiv (wdRowBits v) 512 else ceilDiv (wdCh v b * wdRowBits v) 2048

/-- What write step `s` of a tile writes: channel in the tile, first position, positions. -/
def wdPart (v b wo0 s : Nat) : List (Nat × Nat × Nat) :=
  let np := wdPos v wo0
  if 2048 < wdRowBits v then
    let g := ceilDiv (wdRowBits v) 512
    let k := 512 / fmtBits (wdOfmt v)
    let p0 := s % g * k
    [(s / g, p0, min k (np - p0))]
  else
    let lo := s * 2048 / wdRowBits v
    let hi := min (wdCh v b) ((s + 1) * 2048 / wdRowBits v)
    (List.range hi).filterMap fun q => if lo ≤ q then some (q, 0, np) else none

/-- The bytes that part of a row becomes, the bits beyond its last element as they stand. -/
def Dev.wedgeBytes (d : Dev) (f : Nat) (t : WedgeTile) (x : Nat × Nat × Nat) : List (Nat × Byte) :=
  let v := t.desc
  let wd := fmtBits (wdOfmt v)
  let a := (wdAt v 0x08 4 + (t.block * wdQ v + x.1) * wdAt v 0x14 4 + t.ho * wdAt v 0x1A 2 +
    (t.wo0 + x.2.1) * wd / 8) % 2 ^ 21
  let codes := slice (t.out.getD x.1 []) x.2.1 x.2.2
  let nb := ceilDiv (wd * codes.length) 8
  let old := leNat ((List.range nb).map fun k => d.lsByte f (a + k))
  let n := wd * codes.length
  placeBytes a (leBytes nb (old / 2 ^ n * 2 ^ n + packNat wd codes))

/-- A write step of facet f. -/
def writeStep (i : Issue) (o : WedgeOp) (f : Nat) (w : Work) : Work :=
  let c := w.1.cell f
  match c.tiles with
  | [] => wedgeErr i f o.d.toNat w
  | t :: rest =>
    if !(match t.ready with | some r => decide (r ≤ i.cyc) | none => false) then wedgeErr i f o.d.toNat w
    else
      let parts := (wdPart t.desc t.block t.wo0 t.written).map fun x => w.1.wedgeBytes f t x
      let w := touchSpans i f 4 (parts.filterMap fun p => match p with | [] => none | e :: _ => some (e.1, p.length)) w
      let t := { t with written := t.written + 1 }
      let done := decide (wdWrites t.desc t.block ≤ t.written)
      w.dev fun d => (d.lsWrite f parts.flatten).setCell f { c with tiles := if done then rest else t :: rest }

/-- WEDGE in facet f. -/
def wedgeOn (i : Issue) (o : WedgeOp) (f : Nat) (w : Work) : Work :=
  if wdKind (w.1.wdesc f o.d.toNat) = 1 then (w.1, w.2.err (i.seqErr 0x4D 0 0))
  else if o.ph then writeStep i o f w else macStep i o f w

/-! ## The box unit (R161 to R164) -/

/-- FP32 arithmetic of the box unit: a word and its events. -/
abbrev BoxNum := Nat × Ev

/-- One rounded addition, product or difference of two words, with the events of the lane op. -/
def boxAdd (a b : Nat) : BoxNum := arithEl .add 0 .even a b 0
def boxMul (a b : Nat) : BoxNum := arithEl .mul 0 .even a b 0
def boxSub (a b : Nat) : BoxNum := arithEl .sub 0 .even a b 0
def boxMin (a b : Nat) : BoxNum := maxEl false 0 a b
def boxMax (a b : Nat) : BoxNum := maxEl true 0 a b
/-- SFU EXP2. -/
def boxExp2 (a : Nat) : BoxNum := sfuLane 0 a

/-- Applies an operation to numbers that carry events. -/
def box2 (f : Nat → Nat → BoxNum) (a b : BoxNum) : BoxNum :=
  let r := f a.1 b.1
  (r.1, (a.2.add b.2).add r.2)

/-- Parameters of a box job, read from its descriptor (Table 08-5). -/
def bxA (v : Nat) : Nat := wdAt v 0x14 2
def bxNc (v : Nat) : Nat := wdAt v 0x16 2
def bxPc (v : Nat) : Nat := wdAt v 0x18 2
def bxMaxPc (v : Nat) : Nat := wdAt v 0x1A 2
def bxMaxOut (v : Nat) : Nat := wdAt v 0x1C 2
def bxW (v off : Nat) : Nat := wdAt v off 4

/-- Global facet of a FAC byte in hemisphere h. -/
def bxFac (v h k : Nat) : Nat := let b := wdAt v (0x10 + k) 1; facetOf h (bits b 6 4) (b % 16)

/-- Steps of a job (R164). -/
def bxSteps (v : Nat) : Nat :=
  ceilDiv (bxA v) 16 + ceilDiv (bxA v * bxNc v) 64 + bxNc v * ceilDiv (bxPc v * (bxPc v - 1)) 128 +
    ceilDiv (bxNc v * bxMaxPc v) 16 + ceilDiv (bxMaxOut v) 2 + 1

/-- A decoded box: its four coordinates, each with the events of the operations behind it, and how many of the rounding
steps flushed (R105, R162). -/
def boxDecode (v : Nat) (an dl : List Nat) : List BoxNum × Nat :=
  let z (x : Nat) : BoxNum := (x, Ev.none)
  let sxy := z (bxW v 0x28)
  let swh := z (bxW v 0x2C)
  let clip := z (bxW v 0x30)
  let l2e := z 0x3FB8AA3B
  let half_ := z 0x3F000000
  let ctr (a w dx : Nat) : BoxNum := box2 boxAdd (z a) (box2 boxMul (box2 boxMul (z dx) sxy) (z w))
  let ext (w dw : Nat) : BoxNum :=
    let t := box2 boxMul (box2 boxMin (box2 boxMul (z dw) swh) clip) l2e
    let e := boxExp2 t.1
    box2 boxMul (z w) (e.1, t.2.add e.2)
  let cx := ctr (nth an 0) (nth an 2) (nth dl 0)
  let cy := ctr (nth an 1) (nth an 3) (nth dl 1)
  let hw := box2 boxMul (ext (nth an 2) (nth dl 2)) half_
  let hh := box2 boxMul (ext (nth an 3) (nth dl 3)) half_
  let b := [box2 boxSub cx hw, box2 boxSub cy hh, box2 boxAdd cx hw, box2 boxAdd cy hh]
  -- centres and half extents are computed once and stand in two coordinates each
  let fout := b.foldl (fun n c => n + c.2.fout) 0 - (cx.2.fout + cy.2.fout + hw.2.fout + hh.2.fout)
  (if bit (wdAt v 0x3C 1) 0 then
    ((List.range 4).zip b).map fun x => box2 boxMin (box2 boxMax x.2 (z 0)) (z (bxW v (if x.1 % 2 = 0 then 0x34 else 0x38)))
  else b, fout)

/-- A candidate: anchor, class, score and coordinates. -/
structure BoxCand where
  anchor : Nat
  cls : Nat
  score : Nat
  box : List Nat
deriving DecidableEq, Repr

/-- Rank order (R163): higher score first, then lower anchor, then lower class. -/
def boxBefore (a b : BoxCand) : Bool :=
  let c := eCmp (readF32 a.score).1 (readF32 b.score).1
  decide (0 < c) || (c == 0 && (decide (a.anchor < b.anchor) || (a.anchor == b.anchor && decide (a.cls < b.cls))))

/-- Insertion by rank. -/
def boxInsert (x : BoxCand) : List BoxCand → List BoxCand
  | [] => [x]
  | y :: ys => if boxBefore x y then x :: y :: ys else y :: boxInsert x ys

/-- Candidates in rank order. -/
def boxRank (l : List BoxCand) : List BoxCand := l.foldl (fun m x => boxInsert x m) []

/-- Area of a box. -/
def boxArea (p : List Nat) : BoxNum :=
  let z (k : Nat) : BoxNum := (nth p k, Ev.none)
  box2 boxMul (box2 boxMax (box2 boxSub (z 2) (z 0)) (0, Ev.none)) (box2 boxMax (box2 boxSub (z 3) (z 1)) (0, Ev.none))

/-- The overlap test of two boxes, and its events: each kind once, and every rounding step that flushed (R105, R164). -/
def boxOverlap (v : Nat) (p q : List Nat) : Bool × Ev :=
  let z (l : List Nat) (k : Nat) : BoxNum := (nth l k, Ev.none)
  let side (a b : Nat) : BoxNum :=
    box2 boxMax (box2 boxSub (box2 boxMin (z p b) (z q b)) (box2 boxMax (z p a) (z q a))) (0, Ev.none)
  let i := box2 boxMul (side 0 2) (side 1 3)
  let u := box2 boxSub (box2 boxAdd (boxArea p) (boxArea q)) i
  let t := box2 boxMul (bxW v 0x24, Ev.none) u
  let x := readF32 i.1
  let y := readF32 t.1
  (!x.1.isNan && !y.1.isNan && decide (0 < eCmp x.1 y.1), { t.2.once with fout := t.2.fout })

/-- Suppression of ranked candidates (R163): those kept, and the events of the tests. -/
def boxSuppress (v : Nat) (cands : List BoxCand) : List BoxCand × Ev :=
  cands.foldl (fun (x : List BoxCand × Ev) c =>
    if bxMaxPc v ≤ x.1.length then x else
    let t := x.1.foldl (fun (y : Bool × Ev) k =>
      if y.1 then y else let o := boxOverlap v c.box k.box; (o.1, y.2.add o.2)) (false, x.2)
    if t.1 then (x.1, t.2) else (x.1 ++ [c], t.2)) ([], Ev.none)

/-- Subnormal words that a job reads as numbers: each element, and each FP32 parameter in use, once (R104, log 98). -/
def BoxJob.flushed (j : BoxJob) : Nat :=
  let v := j.desc
  let ps := [bxW v 0x20, bxW v 0x24, bxW v 0x28, bxW v 0x2C, bxW v 0x30] ++
    if bit (wdAt v 0x3C 1) 0 then [bxW v 0x34, bxW v 0x38] else []
  countIf (fun x => (readF32 x).2) (ps ++ j.scr ++ j.dlt ++ j.anc)

/-- The output of a job as bytes (Table 08-6), from the words it has read, and its events: each kind once per decoded
coordinate and once per overlap test, and every flush (R104, R105, R164). -/
def BoxJob.output (j : BoxJob) : List Byte × Ev :=
  let v := j.desc
  let nc := bxNc v
  let dec := (List.range (bxA v)).map fun a => boxDecode v (slice j.anc (4 * a) 4) (slice j.dlt (4 * a) 4)
  let ev0 := dec.foldl (fun e b =>
    b.1.foldl (fun e c => e.add { c.2.once with fout := 0 }) { e with fout := e.fout + b.2 }) { Ev.none with fin := j.flushed }
  let thr := (readF32 (bxW v 0x20)).1
  let classes := (List.range nc).map fun k =>
    let cs := ((List.range (bxA v)).zip dec).filterMap fun x =>
      let s := nth j.scr (x.1 * nc + k)
      let e := (readF32 s).1
      if !e.isNan && !thr.isNan && decide (0 < eCmp e thr) then
        some ({ anchor := x.1, cls := k, score := s, box := x.2.1.map Prod.fst } : BoxCand) else none
    let r := boxRank cs
    let s := boxSuppress v (r.take (bxPc v))
    (s.1, s.2, r.length - bxPc v)
  let kept := boxRank (classes.flatMap fun c => c.1)
  let out := kept.take (bxMaxOut v)
  let recs := out.flatMap fun c =>
    c.box.flatMap (leBytes 4) ++ leBytes 4 c.score ++ leBytes 4 c.anchor ++ leBytes 2 c.cls ++ leBytes 6 0
  let drops := classes.foldl (fun n c => n + c.2.2) 0
  (leBytes 4 out.length ++ leBytes 4 drops ++ leBytes 4 (kept.length - out.length) ++ leBytes 52 0 ++ recs ++
     leBytes (32 * (bxMaxOut v - out.length)) 0,
   classes.foldl (fun e c => e.add c.2.1) ev0)

/-- The job of a hemisphere's box unit. -/
def Dev.boxJob (d : Dev) (h : Nat) : Option BoxJob := (d.box.find? fun e => e.1 == h).map Prod.snd

/-- Replaces the job of a hemisphere's box unit. -/
def Dev.setBoxJob (d : Dev) (h : Nat) (j : Option BoxJob) : Dev :=
  { d with box := match j with | some j => alPut d.box h j | none => alDrop d.box h }

/-- Whether partition p holds the box unit of hemisphere h (R161). -/
def Dev.holdsBox (d : Dev) (p h : Nat) : Bool := d.flag (rPrtCfg p) (52 + h)

/-- The record of a box fault: it names the bundle index. -/
def boxErr (i : Issue) (w : Work) : Work := (w.1, w.2.err (i.seqErr 0x4D 0 0))

/-- Step number `n` of a job that has its output: the records or the header it writes (R164). -/
def boxWrite (i : Issue) (j : BoxJob) (n : Nat) (w : Work) : Work :=
  let v := j.desc
  let first := bxSteps v - (ceilDiv (bxMaxOut v) 2 + 1)
  if n < first then w else
  let k := n - first
  let f := bxFac v i.h 3
  let out := bxW v 0x0C % 2 ^ 21
  let last := decide (bxSteps v ≤ n + 1)
  let off := if last then 0 else 64 + 64 * k
  let len := if last then 64 else min 64 (32 * bxMaxOut v - 64 * k)
  let w := touchSpans i f 4 [(out + off, len)] w
  let w := w.dev fun d => d.lsWrite f (placeBytes (out + off) (slice j.out off len))
  if last then w.hit j.hits else w

/-- Reads `n` FP32 words of a buffer of a box job from word `k` on, on the wedge/move path of its facet. -/
def boxRead (i : Issue) (v b base k n : Nat) (w : Work) : List Nat × Work :=
  let a := base + 4 * k
  let f := bxFac v i.h b
  ((List.range n).map fun j => leNat ((List.range 4).map fun t => w.1.lsByte f ((a + 4 * j + t) % 2 ^ 21)),
   if n = 0 then w else touchSpans i f 4 [(a % 2 ^ 21, 4 * n)] w)

/-- What step number `s` of a job reads: of the first ceil(A / 16) steps each the deltas and anchors of 16 boxes, of the next
ceil(A × NC / 64) each 64 scores (DEDUCED from the terms of S, log 98). -/
def boxFetch (i : Issue) (j : BoxJob) (s : Nat) (w : Work) : BoxJob × Work :=
  let v := j.desc
  let na := ceilDiv (bxA v) 16
  let ns := bxA v * bxNc v
  if s < na then
    let n := 4 * min 16 (bxA v - 16 * s)
    let d := boxRead i v 1 (bxW v 0x04) (64 * s) n w
    let a := boxRead i v 2 (bxW v 0x08) (64 * s) n d.2
    ({ j with dlt := j.dlt ++ d.1, anc := j.anc ++ a.1 }, a.2)
  else if s < na + ceilDiv ns 64 then
    let r := boxRead i v 0 (bxW v 0x00) (64 * (s - na)) (min 64 (ns - 64 * (s - na))) w
    ({ j with scr := j.scr ++ r.1 }, r.2)
  else (j, w)

/-- One step of the job in progress. -/
def boxStep (i : Issue) (j : BoxJob) (w : Work) : Work :=
  let v := j.desc
  let first := bxSteps v - (ceilDiv (bxMaxOut v) 2 + 1)
  let r := boxFetch i j j.done w
  let j := r.1
  let j := if j.done = first then
      let o := j.output
      { j with out := o.1, hits := hitsOf j.site [(o.2, 0, 0)] }
    else j
  let w := boxWrite i j j.done r.2
  w.dev fun d => d.setBoxJob i.h (if bxSteps v ≤ j.done + 1 then none else some { j with done := j.done + 1 })

/-- A BOX issue of sector slot `slot` with its enabled facets (R161). -/
def boxIssue (i : Issue) (slot dn : Nat) (fs : List Nat) (w : Work) : Work :=
  match fs with
  | [] => w
  | f :: _ =>
    match w.1.boxJob i.h with
    | some j => if j.d ≠ dn ∨ j.slot ≠ slot then boxErr i w else boxStep i j w
    | none =>
      let v := w.1.wdesc f dn
      let held := (List.range 4).all fun k =>
        let b := wdAt v (0x10 + k) 1
        w.1.holds i.p (i.h * 8 + bits b 6 4)
      if wdKind v = 0 || !held then boxErr i w
      else boxStep i { slot, d := dn, facet := f, desc := v, done := 0, scr := [], dlt := [], anc := [],
                       out := [], hits := [],
                       site := i.site 4 (facetOf i.h slot 0) } w

/-! ## The rows -/

/-- MOVE (R45, Table 03-14). -/
def execMove (s : Site) (o : MoveOp) (st : State) : Host.Outcome State Fault Refusal :=
  st.act fun d => d.siteOp s 4 fun i => siteEach s (moveOn i s.fmask o)

/-- FILL. -/
def execFill (s : Site) (o : FillOp) (st : State) : Host.Outcome State Fault Refusal :=
  st.act fun d => d.siteOp s 4 fun i => siteEach s (fillOn i o)

/-- WCFG (R156). -/
def execWcfg (s : Site) (o : WcfgOp) (st : State) : Host.Outcome State Fault Refusal :=
  st.act fun d => d.siteOp s 4 fun i => siteEach s (wcfgOn i o)

/-- WEDGE (R157, R159). -/
def execWedge (s : Site) (o : WedgeOp) (st : State) : Host.Outcome State Fault Refusal :=
  st.act fun d => d.siteOp s 4 fun i => siteEach s (wedgeOn i o)

/-- The context whose effects finish facet f's wedge passes. -/
def Dev.ctxOfFacet (d : Dev) (f : Nat) : Option CtxId :=
  (List.range 8).findSome? fun n =>
    if (d.ctx (f / 128) n).inflight.any fun e => e.eff == .wedgeReady f then
      some { h := ⟨f / 128 % 2, Nat.mod_lt _ (by decide)⟩, n := ⟨n % 8, Nat.mod_lt _ (by decide)⟩ } else none

/-- WEDGE_PASS_READY: the oldest pass of facet f reaches its ready cycle (R158). -/
def execWedgePassReady (f : FacetN) (st : State) : Host.Outcome State Fault Refusal :=
  st.act fun d =>
    match d.ctxOfFacet f.val with
    | none => d
    | some c => d.landNext c fun e => e == .wedgeReady f.val

/-- BOX (R161 to R164). -/
def execBox (s : Site) (dn : BitVec 3) (st : State) : Host.Outcome State Fault Refusal :=
  st.act fun d =>
    if !d.holdsBox (d.ctx s.c.h.val s.c.n.val).part s.c.h.val then d
    else d.siteOp s 4 fun i => boxIssue i s.slot.val dn.toNat (siteFacets s)

end Sys2Proof.Machine
end

