-- ==== Sys2Proof/Machine/Sequencer.lean ====
section
/-! DEFINITION. The sequencer of a context: the steps of a bundle, loops, hinges, span tokens and fences, waits,
halting and the debug port (02_scangathen_bundle.md, R29 to R57; 04_hinges.md, R83 to R95; 01_hemispheres.md,
R23 to R28). -/

namespace Sys2Proof.Machine

/-! ## The ops of one issue (Table 02-5 step 2) -/

/-- The bundle at the index of a context. -/
def Dev.bundle (d : Dev) (h n : Nat) : Nat := d.istore.get (isKey h (d.ctx h n).bidx)

/-- The sector slots of hemisphere h that partition p holds (R30). -/
def Dev.slotsOf (d : Dev) (p h : Nat) : List Slot :=
  (List.range 8).filterMap fun k =>
    if d.holds p (h * 8 + k) then some ⟨k % 8, Nat.mod_lt _ (by decide)⟩ else none

/-- The site of a sector slot of a bundle. -/
def slotSite (c : CtxId) (b : Nat) (k : Slot) : Site := { c, slot := k, fmask := slotMask b k.val }

/-- A prism op (Table 03-3). -/
def prismSlot (i : Issue) (s : Site) (v : BitVec 96) (w : Work) : Work :=
  match opcOf v with
  | 1 => siteEach s (mmaOn i (decMma v)) w
  | 2 => siteEach s (drainOpOn i (decDrain v)) w
  | 3 => siteEach s (pcfgOn i (decPcfg v)) w
  | 4 => siteEach s (pvldOn i (decPvld v)) w
  | _ => w

/-- A lane op (Table 03-10); the condition ops come later in the cycle. -/
def laneSlot (i : Issue) (s : Site) (v : BitVec 128) (w : Work) : Work :=
  let o := decLane v
  let on (f : Issue → LaneOp → Nat → Work → Work) : Work :=
    siteEach s (fun x w => f i o x (countLane i o (opcOf v) x w)) w
  match opcOf v with
  | 0x01 => on addOn
  | 0x02 => on subOn
  | 0x03 => on mulOn
  | 0x04 => on fmaOn
  | 0x05 => on minOn
  | 0x06 => on maxOn
  | 0x07 => on negOn
  | 0x08 => on andOn
  | 0x09 => on orOn
  | 0x0A => on xorOn
  | 0x0B => on shlOn
  | 0x0C => on shrOn
  | 0x0D => on selOn
  | 0x0E => on cmpOn
  | 0x0F => on plogOn
  | 0x10 => on moviOn
  | 0x11 => on laneidOn
  | 0x12 => on cvtOn
  | 0x13 => on sfuOn
  | 0x14 => on redOn
  | 0x15 => on shufOn
  | 0x16 => on randOn
  | 0x17 => on topkOn
  | 0x18 => on dispOn
  | 0x19 => on dclrOn
  | 0x1A => siteEach s (countLane i o 0x1A) w
  | 0x1B => siteEach s (countLane i o 0x1B) w
  | 0x1C => siteEach s (countLane i o 0x1C) w
  | _ => w

/-- A load/store op (Table 03-13). -/
def lsSlot (i : Issue) (s : Site) (v : BitVec 96) (w : Work) : Work :=
  match opcOf v with
  | 0x01 => siteEach s (ldvOn i (decLs v)) w
  | 0x02 => siteEach s (stvOn i (decLs v)) w
  | 0x03 => siteEach s (ldbOn i (decLs v)) w
  | 0x04 => siteEach s (amovOn i (decAmov v)) w
  | 0x05 => siteEach s (aaddOn i (decAadd v)) w
  | 0x06 => siteEach s (amulOn i (decAmul v)) w
  | 0x07 => siteEach s (afromvOn i (decAfromv v)) w
  | 0x08 => siteEach s (stdcOn i (decStdc v)) w
  | 0x09 => siteEach s (xldOn i (decXld v)) w
  | 0x0A => siteEach s (xstOn i (decXld v)) w
  | _ => w

/-- A wedge/move op (Table 03-14). -/
def wmSlot (i : Issue) (s : Site) (v : BitVec 64) (w : Work) : Work :=
  match opcOf v with
  | 1 => siteEach s (moveOn i s.fmask (decMove v)) w
  | 2 => siteEach s (fillOn i (decFill v)) w
  | 3 => siteEach s (wcfgOn i (decWcfg v)) w
  | 4 => siteEach s (wedgeOn i (decWedge v)) w
  | 5 => boxIssue i s.slot.val (decWcfg v).d.toNat (siteFacets s) w
  | _ => w

/-- The transfer op (Table 03-15); DFENCE acts before the issue. -/
def xferSlot (i : Issue) (v : BitVec 256) (w : Work) : Work :=
  match opcOf v with
  | 1 => pfsOp i (decPfs v) w
  | 2 => xferOp i (decXfer v) w
  | 3 => gatherOp i (decGather v) w
  | 4 => scatterOp i (decGather v) w
  | 5 => streamOp i (decStream v) w
  | 7 => tbsetOp i (decTbset v) w
  | 8 => sdropOp i (decPfs v) w
  | _ => w

/-- The Barrov op (Table 03-16). -/
def barrovSlot (c : CtxId) (i : Issue) (v : BitVec 256) (w : Work) : Work :=
  let k := opcOf v
  if 1 ≤ k ∧ k ≤ 5 then barrovOp k c i (decBarrov v) w else w

/-- The ingest hand-off op (Table 03-17). -/
def ingestSlot (i : Issue) (v : BitVec 128) (w : Work) : Work :=
  match opcOf v with
  | 1 => itakeOp i (decItake v) w
  | 2 => irelOp i (decIrel v) w
  | 3 => iroiOp i (decIroi v) w
  | _ => w

/-- The CSET and CIDX writes of a bundle. -/
def condSlot (i : Issue) (s : Site) (v : BitVec 128) (d : Dev) : Option CondW :=
  match opcOf v with
  | 0x1A => csetOf i s (decLane v) d
  | 0x1B => cidxOf i s (decLane v) d
  | _ => none

/-- The ops of every owned slot and of the shared slots act in one issue cycle, with what lands in it, in access
order (R21, R39, R62). A store that lands in the cycle acts before a read of the same path that the cycle issues: the
spec gives no bank-access index between the two ops (DESIGN CHOICE, log 91). -/
def issueOps (c : CtxId) (i : Issue) (b : Nat) (d : Dev) : Dev :=
  let slots := d.slotsOf i.p i.h
  let d := forL slots (fun k (d : Dev) =>
    forL (siteFacets (slotSite c b k)) (fun f (d : Dev) => d.countFacet f 2 noSub 1) d) d
  let each {n : Nat} (word : Nat → Nat → BitVec n) (f : Issue → Site → BitVec n → Work → Work) (w : Work) : Work :=
    forL slots (fun k w => f i (slotSite c b k) (word b k.val) w) w
  let w := landRanks i i.cyc 0 0 (d, {})
  let w := each prismWord prismSlot w
  let w := landRanks i i.cyc 1 3 w
  let w := each lsWord lsSlot w
  let w := each laneWord laneSlot w
  let w := landRanks i i.cyc 4 4 w
  let w := each wmWord wmSlot w
  let w := ingestSlot i (ingestWord b) (barrovSlot c i (barrovWord b) (xferSlot i (xferWord b) w))
  let cs := slots.filterMap fun k => condSlot i (slotSite c b k) (laneWord b k.val) w.1
  let hd := decHeader b
  let d := w.close i hd.qsect hd.qbank
  let r := forL slots (fun k (x : List CondW × Dev) =>
    let v := laneWord b k.val
    if opcOf v = 0x1C then
      let y := cflagOf (slotSite c b k) (decLane v) x.2
      (x.1 ++ y.1.toList, y.2)
    else x) (cs, d)
  condLater i (r.1.foldl addCond []) r.2

/-! ## Prism order (R23) -/

/-- Cycles that facet f of a prism op must wait. -/
def Dev.prismWait (d : Dev) (i : Issue) (v : BitVec 96) (f : Nat) : Nat :=
  match opcOf v with
  | 1 => d.mmaWait i (decMma v) f
  | 2 => d.drainWait i (decDrain v) f
  | _ => 0

/-- The facets of a bundle's prism ops with the cycles each must wait. -/
def Dev.prismHolds (d : Dev) (c : CtxId) (i : Issue) (b : Nat) : List (Nat × Nat) :=
  (d.slotsOf i.p i.h).flatMap fun k =>
    (siteFacets (slotSite c b k)).filterMap fun f =>
      let n := d.prismWait i (prismWord b k.val) f
      if n = 0 then none else some (f, n)

/-- An effect of the prism, which goes on through a stall of R23. -/
def Effect.isPrism : Effect → Bool
  | .product _ _ _ _ _ _ _ => true
  | .drainRow _ _ => true
  | _ => false

/-- The hemisphere stalls until the order of the bundle's prism ops holds, with one timing fault for facet `f`. The
context's products and drains come `k` cycles nearer, and everything else keeps its relation to the stream, so that the
stall changes no result (R23, R31). -/
def Dev.prismStall (d : Dev) (c : CtxId) (holds : List (Nat × Nat)) (f : Nat) : Dev :=
  let h := c.h.val
  let n := c.n.val
  let x := d.ctx h n
  let k := holds.foldl (fun m e => max m e.2) 0
  let d := (d.tfault h n 3 x.bidx x.icount (some f)).countStall h 3 k
  let d := (d.stallCycles h k).modCtx h n fun x => { x with
    inflight := x.inflight.map fun e => if e.eff.isPrism then { e with due := e.due - k } else e }
  d.settle h n (d.ctx h n).cyc

/-! ## Step 4: loops, branches, successors -/

/-- The sequential successor of an index (R48). -/
def Dev.seqNext (d : Dev) (h n k : Nat) : Nat :=
  let r := d.isRange h n
  if k + 1 = r.2 then r.1 else (k + 1) % 8192

/-- The loop-end test (R43): the stack after it, and START of the entry that sends the stream back. -/
def loopEnd (idx : Nat) : List LoopEntry → List LoopEntry × Option Nat
  | [] => ([], none)
  | e :: es =>
    if e.last = idx then
      if 1 < e.left then ({ e with left := e.left - 1 } :: es, some e.first) else loopEnd idx es
    else (e :: es, none)

/-- lop (R42): the stack after it, none where it faults. -/
def Dev.applyLop (d : Dev) (h n : Nat) (hd : Header) (x : Ctx) : Option (List LoopEntry) :=
  match hd.lop with
  | 1 =>
    if 8 ≤ x.loops.length then none else
    let v := d.reg (rCtxLdesc h n hd.ldi)
    some ({ first := d.seqNext h n x.bidx, last := bits v 12 0, left := bits v 36 13 + 1 } :: x.loops)
  | 2 => match x.loops with | [] => none | _ :: es => some es
  | _ => some x.loops

/-- A context debug-halts at a boundary if that was requested (R57). -/
def Dev.atBoundary (d : Dev) (h n : Nat) : Dev :=
  d.modCtx h n fun x =>
    if x.state = .running ∧ x.dhalt = true ∧ (x.phase = .boundary ∨ x.phase = .padClosed ∨ x.phase = .padOpen) then
      { x with state := .debugHalted, dhalt := false, stepping := false }
    else x

/-- The branch of the innermost hinge has ended: padding towards JOIN, or JOIN is selected and the entry popped (R86,
R88, R89); the bound of an open one runs on until JOIN issues (R90). -/
def Dev.towardJoin (d : Dev) (h n : Nat) : Dev :=
  d.modCtx h n fun x =>
    match x.hinges with
    | [] => x
    | e :: es =>
      let more := if e.isOpen then e.align16 && x.icount % 16 != e.phase else decide (e.elapsed < e.len)
      if more then { x with phase := if e.isOpen then .padOpen else .padClosed, hinges := { e with inbr := false } :: es }
      else { x with phase := .boundary, bidx := e.join, hinges := es,
                    joining := if e.isOpen && !e.bflt then some e else none }

/-- Step 4 of R39 after the last issue of a bundle. -/
def Dev.completeBundle (d : Dev) (h n : Nat) (hd : Header) : Dev :=
  let x := d.ctx h n
  match d.applyLop h n hd x with
  | none => (d.seqFatal h n 0x42 x.bidx 0)
  | some loops =>
    let t := loopEnd x.bidx loops
    let d := d.setCtx h n { x with loops := t.1 }
    match hd.hsel with
    | 1 => d.modCtx h n fun x => { x with phase := .hinge }
    | 2 =>
      if hd.hinge % 16 = 2 then d.modCtx h n fun x => { x with phase := .haltDue }
      else (d.modCtx h n fun x => { x with phase := .boundary, bidx := bits hd.hinge 16 4 }).atBoundary h n
    | _ =>
      match t.2 with
      | some k => (d.modCtx h n fun x => { x with phase := .boundary, bidx := k }).atBoundary h n
      | none =>
        let ends := match x.hinges with | e :: _ => e.inbr && e.last == x.bidx | [] => false
        let d := if ends then d.towardJoin h n
          else d.modCtx h n fun x => { x with phase := .boundary, bidx := d.seqNext h n x.bidx }
        d.atBoundary h n

/-! ## Hinges (R83 to R95) -/

/-- The hinge record of R95 (Table 06-6, TYPE 0x02). -/
def hingeBytes (h n bidx htab v icount time : Nat) : List Byte :=
  leBytes 1 2 ++ leBytes 1 v ++ leBytes 1 htab ++ leBytes 1 h ++ leBytes 2 (bidx % 2 ^ 13 + n * 2 ^ 13) ++ leBytes 2 0 ++
    leBytes 8 icount ++ leBytes 4 1 ++ leBytes 4 0 ++ leBytes 8 time

/-- A hinge whose last issue sampled `sample` selects its successor. -/
def Dev.selectHinge (d : Dev) (h n : Nat) : Dev :=
  let x := d.ctx h n
  let hd := decHeader (d.bundle h n)
  let htab := bits hd.hinge 15 8
  let t := d.reg (rCtxBtab h n htab)
  let v := x.sample
  let s := bits t (32 * v + 31) (32 * v)
  if !bit s 26 || decide (4 ≤ x.hinges.length) then d.seqFatal h n 0x4B x.bidx (htab * 2 ^ 8 + v)
  else
    let d := d.countCtx h n 9 (fun m => m == 0 || bit m v) 1
    let d := if bit t 192 && v != 0 then
        let d := d.bump (rCtxHlog h n)
        if d.flag (rNevRcfg x.part) 31 && d.flag (rNevRcfg x.part) 15 then
          d.nevRecord x.part (hingeBytes h n x.bidx htab v (x.icount - 1) d.now)
        else d
      else d
    let e : HingeEntry :=
      { isOpen := bit hd.hinge 4, align16 := bit t 145, bflt := false, inbr := true, sel := v, phase := x.icount % 16,
        last := bits s 25 13, join := bits t 144 132, htab, len := bits t 191 160, elapsed := 0, bidx := x.bidx,
        begun := bit s 27 }
    let d := d.modCtx h n fun x => { x with hinges := e :: x.hinges }
    let d := if bit s 27 then d.towardJoin h n
      else d.modCtx h n fun x => { x with phase := .boundary, bidx := bits s 12 0 }
    d.atBoundary h n

/-- `k` gated idle issues pass (R46), with what is due in them. -/
def Dev.padIssues (d : Dev) (h n k : Nat) : Dev :=
  let d := (d.hingeTime h n k true).countCtx h n 8 noSub k
  let d := d.modCtx h n fun x => { x.run k with icount := x.icount + k }
  d.settle h n (d.ctx h n).cyc

/-- Gated idle issues that still pad a context towards JOIN. -/
def Ctx.padLeft (x : Ctx) : Nat :=
  match x.hinges with
  | [] => 0
  | e :: _ => if e.isOpen then (e.phase + 16 - x.icount % 16) % 16 else e.len - e.elapsed

/-! ## Halting (R54) -/

/-- What the kernels of p leave is in place: bytes where the partition's own requests could write them, and dispatch
counters (R276, log 7). -/
def Dev.landKernels (d : Dev) (p : Nat) : Dev :=
  forL (d.hq.programs.filter fun w => w.p == p) (fun w d =>
    let d := d.gput (w.leaves.filter fun e => decide (e.1 < winBase) && (d.firstBad p e.1 1).isNone)
    { d with dcnt := d.dcnt.setAll w.counters }) d

/-- Every context of p is halted: its programs complete. -/
def Dev.checkPrograms (d : Dev) (p : Nat) : Dev :=
  if (d.ctxsOf p).all fun y => (d.ctx y.1 y.2).state == .halted then (d.landKernels p).endPrograms p none 0 else d

/-- After HALT, the context is halted once its transfers, Barrov and ingest operations have completed; the cycles
that its drains and other effects take pass. -/
def Dev.haltNow (d : Dev) (h n : Nat) : Dev :=
  let x := d.ctx h n
  if !x.requests.isEmpty || !x.streams.isEmpty then d else
  let t := x.inflight.foldl (fun m e => max m (e.due + 128)) x.cyc
  let d := d.setCtx h n (x.run (t - x.cyc))
  let d := d.settle h n t
  if (d.ctx h n).state ≠ .running then d else
  (d.modCtx h n fun x => { x with state := .halted, phase := .boundary }).checkPrograms x.part

/-! ## Span tokens (R24 to R28) -/

/-- Tokens held for an identifier. -/
def Ctx.held (x : Ctx) (id : Nat) : Nat := x.tokens.get id

/-- A fence consumes a held token and passes. -/
def Ctx.passFence (x : Ctx) (id : Nat) : Ctx :=
  { x with tokens := x.tokens.set id (x.held id - 1), spanDone := true, phase := .boundary, waited := 0, late := false }

/-- A fence of context n of hemisphere h consumes a held token and passes: what its partition sent over the span before
the token has landed (R26, R27). -/
def Dev.passSpan (d : Dev) (h n id : Nat) : Dev :=
  (d.landCrossed (d.ctx h n).part h).modCtx h n fun x => x.passFence id

/-- The bound of R25 in cycles of the receiving hemisphere h; 72, its value for equal clocks, while a PLL shows no
frequency (DESIGN CHOICE, log 91). -/
def Dev.spanBound (d : Dev) (h : Nat) : Nat :=
  let f := d.fld (rClkPll h) 15 0
  let g := d.fld (rClkPll (1 - h)) 15 0
  if min f g = 0 then 72 else ceilDiv (64 * f) (min f g) + 8

/-- The send of the token that a waiting fence would consume, as the receiving context's cycle count then, if it is under
way (R28). -/
def Dev.tokenSent (d : Dev) (h n id : Nat) : Option Nat :=
  let p := (d.ctx h n).part
  ((d.spanTo h).flatMap SpanEntry.tokens).findSome? fun t => if t.part = p ∧ t.tsid = id then some t.sent else none

/-- Cycles since the matching send of a waiting fence, or, where the token has not been sent, since its first wait cycle
(R28). -/
def Dev.fenceAge (d : Dev) (h n id : Nat) : Nat :=
  let x := d.ctx h n
  match d.tokenSent h n id with
  | some t => x.tclk - t
  | none => x.waited

/-- The tests of R28 on a waiting span fence for identifier `id`. -/
def Dev.fenceLimits (d : Dev) (h n id : Nat) : Dev :=
  let x := d.ctx h n
  if !x.late then
    if d.spanBound h ≤ d.fenceAge h n id then
      (d.tfault h n 5 x.bidx x.icount).modCtx h n fun x => { x with late := true, waited := 0 }
    else d
  else if waitLimit ≤ x.waited then d.seqFatal h n 0x47 x.bidx id
  else d

/-- A bundle with tfv = 1 meets its span fence: it consumes a held token, or begins to wait. -/
def Dev.meetSpan (d : Dev) (h n id : Nat) : Dev :=
  let x := d.ctx h n
  if x.held id ≠ 0 then d.passSpan h n id
  else if x.phase = .fenceWait then d
  else d.setCtx h n { x with phase := .fenceWait, waited := 0, late := false }

/-! ## Step 1 (R38, R39, R49, R57, R79, R295) -/

/-- The value of condition register r in the cycle a context is in. -/
def Ctx.condNow (x : Ctx) (r : Nat) : Nat :=
  (x.inflight.foldl (fun m e => match e.eff with
    | .cond q mask v => if e.due ≤ x.cyc then condWrite m q mask v else m
    | _ => m) x.conds).get r

/-- An armed save point at which a context is about to begin step 1 (R295). -/
def Dev.atSavePoint (d : Dev) (h n : Nat) : Bool :=
  let x := d.ctx h n
  let v := d.fld (rPsvSpt x.part) (32 * h + 31) (32 * h)
  x.phase == .boundary && !x.spanDone && !x.fenceDone && d.fld (rPsvSave x.part) 47 45 == 1 && bit v 31 &&
    bits v 12 0 == x.bidx && decide (1 ≤ x.condNow (bits v 19 16))

/-- The debug port is usable: DBG_OPEN (R56, R252, R253). -/
def Dev.debugOpen (d : Dev) : Bool := d.flag rCusStatus 62 && !d.flag rCusStatus 63

/-- A context is about to begin step 1 at its enabled breakpoint. -/
def Dev.atBreakpoint (d : Dev) (h n : Nat) : Bool :=
  let x := d.ctx h n
  let v := d.reg (rCtxBrk h n)
  d.debugOpen && x.phase == .boundary && !x.spanDone && !x.fenceDone && !x.pastBrk && bit v 31 && bits v 12 0 == x.bidx

/-- A debug halt is requested of a context: at a boundary, or waiting before its first issue, it halts at once. -/
def Dev.requestHalt (d : Dev) (h n : Nat) : Dev :=
  d.modCtx h n fun x =>
    if x.state ≠ .running then x
    else if x.phase = .issuing ∨ x.phase = .hinge ∨ x.phase = .haltDue then { x with dhalt := true }
    else { x with state := .debugHalted, dhalt := false, stepping := false }

/-- A context is debug-halted, and its partition's other context halts at its own next boundary (R57). -/
def Dev.debugHalt (d : Dev) (h n : Nat) : Dev :=
  forL (d.ctxsOf (d.ctx h n).part) (fun y d => d.requestHalt y.1 y.2) d

/-- The fill bit of the current bundle (R49). -/
def Dev.filled (d : Dev) (h n : Nat) : Bool := d.fill.get (isKey h (d.ctx h n).bidx) != 0

/-- A context begins to wait on a fill bit, with a timing-fault event. -/
def Dev.meetFill (d : Dev) (h n : Nat) : Dev :=
  let x := d.ctx h n
  if x.phase = .fillWait then d else
  (d.tfault h n 6 x.bidx x.icount).modCtx h n fun x => { x with phase := .fillWait, waited := 0 }

/-- The limit of R49. -/
def Dev.fillLimit (d : Dev) (h n : Nat) : Dev :=
  let x := d.ctx h n
  if waitLimit ≤ x.waited then d.seqFatal h n 0x49 x.bidx 0 else d

/-- Whether step 1 lets the bundle issue: the context runs, at a bundle that has landed, whose fences have passed. -/
def Dev.stepOneDone (d : Dev) (h n : Nat) : Bool :=
  let x := d.ctx h n
  let b := d.bundle h n
  let hd := decHeader b
  x.state == .running && x.phase == .boundary && d.filled h n && (!hd.tfv || x.spanDone) &&
    (opcOf (xferWord b) != 6 || x.fenceDone)

/-- One cycle of step 1: the waits of the current bundle in their order, each letting go if it may. -/
def Dev.stepOne (d : Dev) (h n : Nat) : Dev :=
  let b := d.bundle h n
  let hd := decHeader b
  let fillStep (d : Dev) : Dev :=
    if d.filled h n then d.modCtx h n fun x => if x.phase = .fillWait then { x with phase := .boundary, waited := 0 } else x
    else if (d.ctx h n).phase = .fillWait then (d.waitOn h n 1).fillLimit h n
    else d.meetFill h n
  let spanStep (d : Dev) : Dev :=
    if !hd.tfv || (d.ctx h n).spanDone then d
    else if (d.ctx h n).held hd.tfid = 0 ∧ (d.ctx h n).phase = .fenceWait then
      (d.waitOn h n 1).fenceLimits h n hd.tfid
    else d.meetSpan h n hd.tfid
  let fenceStep (d : Dev) : Dev :=
    if opcOf (xferWord b) != 6 || (d.ctx h n).fenceDone then d
    else match (d.ctx h n).fence with
      | none => d.meetFence h n (decDfence (xferWord b))
      | some f =>
        if ((d.ctx h n).onTag f.tag).isEmpty || decide (f.bound ≤ f.waited) then d.releaseFence h n f
        else
          let d := d.waitOn h n 1
          match (d.ctx h n).fence with
          | some f => if f.bound ≤ f.waited then d.releaseFence h n f else d
          | none => d
  let ready (d : Dev) : Bool := (d.ctx h n).state == .running && (d.ctx h n).phase == .boundary
  let d := if (d.ctx h n).phase = .dfenceWait ∨ (d.ctx h n).phase = .fenceWait then d else fillStep d
  let d := if ready d || (d.ctx h n).phase = .fenceWait then spanStep d else d
  if ready d || (d.ctx h n).phase = .dfenceWait then fenceStep d else d

/-! ## One issue -/

/-- A single-bit error that the instruction store corrected (R38). -/
def Dev.secded (d : Dev) (h n : Nat) (on : Bool) : Dev :=
  if !on then d else
  (d.bump (rSeqIsCorr h)).record
    { part := some (d.ctx h n).part, cls := clsCorrected, cause := 0x4F, block := 10, unit := seqUnit h n none,
      det := detail 0 (d.ctx h n).bidx n 0 0 }

/-- The send of the current bundle's token would find the queue full (R24). -/
def Dev.spanBlocked (d : Dev) (h n : Nat) (hd : Header) : Bool :=
  let x := d.ctx h n
  let last := if x.phase = .issuing then x.rptLeft == 0 else hd.rpt == 0
  hd.tsv && last && d.spanNoEntry h

/-- One cycle of the stall of R24, reported once. -/
def Dev.fullStall (d : Dev) (h n : Nat) : Dev :=
  let x := d.ctx h n
  let d := if x.spanFull then d else
    (d.tfault h n 4 x.bidx x.icount).modCtx h n fun x => { x with spanFull := true }
  (d.countStall h 4 1).stallCycles h 1

/-- The end of a bundle's last issue: its token, its sample, and step 4. -/
def Dev.bundleEnd (d : Dev) (c : CtxId) (hd : Header) : Dev :=
  let h := c.h.val
  let n := c.n.val
  let d := if hd.tsv then d.sendToken c hd.tsid else d
  let d := d.modCtx h n fun x => { x with sample := x.conds.get (hd.hinge % 16) }
  if (d.ctx h n).state = .running then d.completeBundle h n hd else d

/-- The issue of the current bundle once nothing holds it: order of its prism ops, its ops, its counters, and its end
if this is its last issue. Of the facets whose prism must wait, PRISM_ORDER names the lowest (DESIGN CHOICE, log 91). -/
def Dev.issueBundle (d : Dev) (c : CtxId) : Dev :=
  let h := c.h.val
  let n := c.n.val
  let b := d.bundle h n
  let hd := decHeader b
  let left := if (d.ctx h n).phase = .issuing then (d.ctx h n).rptLeft else hd.rpt
  let d := d.settle h n (d.ctx h n).cyc
  let d := match d.prismHolds c (d.issueOf c) b with
    | [] => d
    | e :: es => d.prismStall c (e :: es) (es.foldl (fun (f : Nat) (x : Nat × Nat) => min f x.1) e.1)
  let p := (d.ctx h n).part
  let d := (d.modCtx h n fun x => { x with hinges := x.hinges.map fun e => { e with begun := true }, joining := none }).dropClaims p h
  let d := d.hingeTime h n 1 true
  let d := issueOps c (d.issueOf c) b d
  let run := d.countsRun p
  let d := d.modCtx h n fun x =>
    { x with icount := x.icount + 1, cyc := x.cyc + 1, tclk := x.tclk + b2n run, phase := .issuing, spanDone := false, fenceDone := false,
             pastBrk := false, spanFull := false, rptLeft := left - 1 }
  if left = 0 then d.bundleEnd c hd else d

/-- One cycle in which a context may issue its current bundle: the check bits hold (R38), and the span queue has
room for its token (R24). -/
def Dev.issueCycle (d : Dev) (c : CtxId) (sec : Bool) : Dev :=
  let h := c.h.val
  let n := c.n.val
  let d := d.secded h n sec
  let b := d.bundle h n
  let hd := decHeader b
  if (d.ctx h n).phase ≠ .issuing ∧ bundleCrc b ≠ hd.chk then d.seqFatal h n 0x41 (d.ctx h n).bidx 0
  else if d.spanBlocked h n hd then d.fullStall h n
  else d.issueBundle c

/-- `k` gated idle issues, and JOIN if it is due. -/
def Dev.padStep (d : Dev) (h n k : Nat) : Dev :=
  let d := d.padIssues h n k
  let d := if (d.ctx h n).padLeft = 0 then d.towardJoin h n else d
  d.atBoundary h n

/-- One cycle of a running context. -/
def Dev.ctxCycle (d : Dev) (c : CtxId) (sec : Bool) : Dev :=
  let h := c.h.val
  let n := c.n.val
  match (d.ctx h n).phase with
  | .issuing => d.issueCycle c sec
  | .hinge => d
  | .haltDue => d.haltNow h n
  | .padClosed => d.padStep h n 1
  | .padOpen => d.padStep h n 1
  | _ =>
    if d.atSavePoint h n then d.modCtx h n fun x => { x with saveStop := true }
    else if d.atBreakpoint h n then d.debugHalt h n
    else
      let d := d.stepOne h n
      if d.stepOneDone h n then d.issueCycle c sec else d

/-- A non-pre-emptible command of p executes, or a rendezvous of p has begun (Table 14-2). -/
def Dev.unstoppable (d : Dev) (p : Nat) : Bool :=
  (d.mem.repairing.any fun r => d.holds p (r.1 / 32 * 2 + r.1 % 32 / 16)) ||
    d.brv.jobs.any fun j => j.g / 256 == p && j.begun && !j.data

/-- A context's own bundle stream may move: it runs, does not stand at a save point, and its partition is not being
stopped (R283 steps 1 and 2). -/
def Dev.streams (d : Dev) (h n : Nat) : Bool :=
  let x := d.ctx h n
  x.state == .running && !x.saveStop && (d.partState x.part == 1 || d.unstoppable x.part)

/-- Context n stalls hemisphere h: it waits at a span fence, or its token's send stands before a full queue (R24, R26). -/
def Dev.stalls (d : Dev) (h n : Nat) : Bool :=
  let x := d.ctx h n
  let hd := decHeader (d.bundle h n)
  d.streams h n && ((x.phase == .fenceWait && x.held hd.tfid == 0) || (x.spanFull && d.spanBlocked h n hd))

/-- A send of data from hemisphere h stands before a full span queue (R24). -/
def Dev.dataStall (d : Dev) (h : Nat) : Bool := (d.hemi h).full && decide (spanDepth ≤ (d.spanTo (1 - h)).length)

/-- Whether a context's bundle stream moves: a stall of its hemisphere that another context or a send of data has laid on
it holds it (R31). -/
def Dev.moves (d : Dev) (c : CtxId) : Bool :=
  d.streams c.h.val c.n.val && !d.dataStall c.h.val &&
    !(List.range 8).any fun m => m != c.n.val && d.stalls c.h.val m

/-- A pending hinge selects its successor, which takes no cycle, and then one cycle passes. -/
def Dev.bundleStep (d : Dev) (c : CtxId) (sec : Bool) : Dev :=
  if !d.moves c then d else
  let d := if (d.ctx c.h.val c.n.val).phase = .hinge then d.selectHinge c.h.val c.n.val else d
  if d.moves c then (d.agentActs c.h.val c.n.val).ctxCycle c sec else d

/-! ## Starting and the debug port (R45, R50, R54, R57) -/

/-- The address registers of facet f as START sets them (R45). -/
def Dev.startAregs (d : Dev) (f : Nat) : Dev :=
  let m := alClear d.aregs (f * 32) (f * 32 + 32)
  { d with aregs := (NatMap.set m (f * 32 + 30) (f % 16)).set (f * 32 + 31) f }

/-- START of a context that is idle or halted. -/
def Dev.startCtx (d : Dev) (h n : Nat) : Dev :=
  let x := d.ctx h n
  if x.state ≠ .idle ∧ x.state ≠ .halted then d else
  let d := forL (d.facetsOf x.part) (fun f d => d.startAregs f) d
  let d := forL (d.ctxsOf x.part) (fun y d => d.modCtx y.1 y.2 fun c => { c with tokens := [] }) d
  d.modCtx h n fun x =>
    { x with state := .running, phase := .boundary, bidx := d.reg (rCtxEntry h n), rptLeft := 0, icount := 0, loops := [],
             hinges := [], conds := [], fence := none, waited := 0, late := false, spanDone := false, fenceDone := false,
             dhalt := false, stepping := false, pastBrk := false, spanFull := false, saveStop := false,
             joining := none }

/-- RESUME of both contexts of a partition. -/
def Dev.resumeCtxs (d : Dev) (p : Nat) : Dev :=
  forL (d.ctxsOf p) (fun y d => d.modCtx y.1 y.2 fun x =>
    if x.state = .debugHalted then { x with state := .running, dhalt := false, stepping := false, pastBrk := true } else x) d

/-- Cycles of one stepped bundle, until the context halts at its boundary or has to wait. -/
def Dev.stepCycles (c : CtxId) : Nat → Dev → Dev
  | 0, d => d
  | k + 1, d =>
    if !(d.ctx c.h.val c.n.val).stepping then d else
    let d := d.bundleStep c false
    match (d.ctx c.h.val c.n.val).phase with
    | .fillWait => d
    | .fenceWait => d
    | .dfenceWait => d
    | .haltDue => d
    | _ => Dev.stepCycles c k d

/-! ## The rows -/

/-- BUNDLE_ISSUE (R39): one issue cycle of a context's current bundle, or one cycle of what holds it. `sec` says that
the instruction store corrected a single-bit error in this read (R38), and `sc` what the lookups of its ops met in the
staging cache (R178). -/
def execBundleIssue (c : CtxId) (sec : Bool) (sc : StageErrs) (st : State) : Host.Outcome State Fault Refusal :=
  st.act fun d => (if d.moves c then d.stageErrors (d.ctx c.h.val c.n.val).part sc else d).bundleStep c sec

/-- HINGE (R83, R84, R92, R95). -/
def execHinge (c : CtxId) (st : State) : Host.Outcome State Fault Refusal :=
  st.act fun d =>
    if d.moves c && (d.ctx c.h.val c.n.val).phase == .hinge then d.selectHinge c.h.val c.n.val else d

/-- CLOSED_HINGE_PAD (R88): the padding issues that remain. -/
def execClosedHingePad (c : CtxId) (st : State) : Host.Outcome State Fault Refusal :=
  st.act fun d =>
    let x := d.ctx c.h.val c.n.val
    if d.moves c && x.phase == .padClosed then d.padStep c.h.val c.n.val x.padLeft else d

/-- OPEN_HINGE_ALIGN (R89): the gated idle issues that remain. -/
def execOpenHingeAlign (c : CtxId) (st : State) : Host.Outcome State Fault Refusal :=
  st.act fun d =>
    let x := d.ctx c.h.val c.n.val
    if d.moves c && x.phase == .padOpen then d.padStep c.h.val c.n.val x.padLeft else d

/-- The hinge whose bound passes first among the open ones of a context whose JOIN has not issued. -/
def Ctx.firstBound (x : Ctx) : Option HingeEntry :=
  (x.bounds.filter fun e => e.isOpen && e.begun && !e.bflt).foldl (fun m e => match m with
    | none => some e
    | some f => if e.len - e.elapsed < f.len - f.elapsed then some e else some f) none

/-- Cycles that a waiting context can wait before its wait ends by its own limit. -/
def Dev.waitRoom (d : Dev) (h n : Nat) : Nat :=
  let x := d.ctx h n
  match x.phase, x.fence with
  | .dfenceWait, some f => f.bound - f.waited
  | .fenceWait, _ =>
    if x.late then waitLimit - x.waited else d.spanBound h - d.fenceAge h n (decHeader (d.bundle h n)).tfid
  | .fillWait, _ => waitLimit - x.waited
  | _, _ => 0

/-- HINGE_BOUND (R90, R55): the bound of an open hinge passes, in the cycles of the wait the context is in, with one event
for every hinge whose bound passes there. -/
def execHingeBound (c : CtxId) (st : State) : Host.Outcome State Fault Refusal :=
  st.act fun d =>
    let h := c.h.val
    let n := c.n.val
    match (d.ctx h n).firstBound with
    | none => d
    | some e =>
      let k := e.len - e.elapsed
      if !d.moves c || decide (d.waitRoom h n < k) then d else
      let d := d.waitOn h n k
      let due (g : HingeEntry) : Bool := g.isOpen && g.begun && !g.bflt && decide (g.len ≤ g.elapsed)
      let es := (d.ctx h n).bounds.filter due
      let d := d.modCtx h n fun x => x.mapBounds fun g => if due g then { g with bflt := true } else g
      forL es (fun g d => d.tfault h n 7 g.bidx (d.ctx h n).icount) d

/-- HALT (R54). -/
def execHalt (c : CtxId) (st : State) : Host.Outcome State Fault Refusal :=
  st.act fun d =>
    if d.moves c && (d.ctx c.h.val c.n.val).phase == .haltDue then d.haltNow c.h.val c.n.val else d

/-- SPAN_FULL_STALL (R24). -/
def execSpanFullStall (c : CtxId) (st : State) : Host.Outcome State Fault Refusal :=
  st.act fun d =>
    let h := c.h.val
    let n := c.n.val
    if d.moves c && ((d.ctx h n).phase == .issuing || d.stepOneDone h n) && d.spanBlocked h n (decHeader (d.bundle h n)) then
      d.fullStall h n
    else d

/-- The oldest token under way to hemisphere h arrives, after everything sent before it (R27); where no token is under
way, the data that is. -/
def Dev.tokenArrive (d : Dev) (h : Nat) : Dev :=
  let l := d.spanTo h
  forN ((l.takeWhile fun e => e.tokens.isEmpty).length + 1) (fun _ d => d.entryArrive h) d

/-- SPAN_TOKEN_ARRIVE (R26, R28). -/
def execSpanTokenArrive (h : Hemi) (st : State) : Host.Outcome State Fault Refusal := st.act fun d => d.tokenArrive h.val

/-- Whether a context stands before a span fence that has not passed. -/
def Dev.beforeFence (d : Dev) (h n : Nat) : Bool :=
  let x := d.ctx h n
  (x.phase == .boundary || x.phase == .fenceWait) && !x.spanDone && (decHeader (d.bundle h n)).tfv

/-- Identifier of the span fence of the current bundle. -/
def Dev.fenceId (d : Dev) (h n : Nat) : Nat := (decHeader (d.bundle h n)).tfid

/-- SPAN_FENCE_WAIT (R26). -/
def execSpanFenceWait (c : CtxId) (st : State) : Host.Outcome State Fault Refusal :=
  st.act fun d =>
    let h := c.h.val
    let n := c.n.val
    if d.moves c && d.beforeFence h n && d.filled h n then d.meetSpan h n (d.fenceId h n) else d

/-- SPAN_FENCE_PASS (R26, R27). -/
def execSpanFencePass (c : CtxId) (st : State) : Host.Outcome State Fault Refusal :=
  st.act fun d =>
    let h := c.h.val
    let n := c.n.val
    let x := d.ctx h n
    if d.moves c && x.phase == .fenceWait && x.held (d.fenceId h n) != 0 then d.passSpan h n (d.fenceId h n)
    else d

/-- A span fence still waits after the cycles its next limit leaves (R28). -/
def Dev.fenceOverdue (d : Dev) (c : CtxId) (late : Bool) : Dev :=
  let h := c.h.val
  let n := c.n.val
  let x := d.ctx h n
  if d.moves c && x.phase == .fenceWait && x.held (d.fenceId h n) == 0 && x.late == late && d.countsRun x.part then
    (d.waitOn h n (d.waitRoom h n)).fenceLimits h n (d.fenceId h n)
  else d

/-- SPAN_LATE (R28). -/
def execSpanLate (c : CtxId) (st : State) : Host.Outcome State Fault Refusal := st.act fun d => d.fenceOverdue c false

/-- SPAN_WAIT (R28). -/
def execSpanWait (c : CtxId) (st : State) : Host.Outcome State Fault Refusal := st.act fun d => d.fenceOverdue c true

/-- FILL_WAIT (R49). -/
def execFillWait (c : CtxId) (st : State) : Host.Outcome State Fault Refusal :=
  st.act fun d =>
    let h := c.h.val
    let n := c.n.val
    let x := d.ctx h n
    if d.moves c && (x.phase == .boundary || x.phase == .fillWait) && !d.filled h n && d.countsRun x.part then
      let d := d.meetFill h n
      (d.waitOn h n (d.waitRoom h n)).fillLimit h n
    else d

/-- PRISM_ORDER_STALL (R23): the current bundle's prism op in facet f would break the order. -/
def execPrismOrderStall (c : CtxId) (f : FacetN) (st : State) : Host.Outcome State Fault Refusal :=
  st.act fun d =>
    let h := c.h.val
    let n := c.n.val
    if d.moves c && ((d.ctx h n).phase == .issuing || d.stepOneDone h n) then
      let d := d.settle h n (d.ctx h n).cyc
      let holds := d.prismHolds c (d.issueOf c) (d.bundle h n)
      if holds.any fun e => e.1 == f.val then d.prismStall c holds f.val else d
    else d

/-- DHALT_REQ (R57). -/
def execDhaltReq (c : CtxId) (st : State) : Host.Outcome State Fault Refusal :=
  st.act fun d => if d.debugOpen then d.debugHalt c.h.val c.n.val else d

/-- BREAKPOINT_HIT (R57). -/
def execBreakpointHit (c : CtxId) (st : State) : Host.Outcome State Fault Refusal :=
  st.act fun d => if d.moves c && d.atBreakpoint c.h.val c.n.val then d.debugHalt c.h.val c.n.val else d

/-- A debug-halted context issues one whole bundle (R57). -/
def Dev.stepCtx (d : Dev) (c : CtxId) : Dev :=
  let x := d.ctx c.h.val c.n.val
  if !d.debugOpen || x.state != .debugHalted then d else
  let d := d.setCtx c.h.val c.n.val { x with state := .running, dhalt := true, stepping := true, pastBrk := true }
  Dev.stepCycles c 65540 d

/-- STEP (R57). -/
def execStepBundle (c : CtxId) (st : State) : Host.Outcome State Fault Refusal := st.act fun d => d.stepCtx c

/-- RESUME (R57). -/
def execResume (c : CtxId) (st : State) : Host.Outcome State Fault Refusal :=
  st.act fun d => if d.debugOpen then d.resumeCtxs (d.ctx c.h.val c.n.val).part else d

/-- START (R45, R50, R54). -/
def execStart (c : CtxId) (st : State) : Host.Outcome State Fault Refusal := st.act fun d => d.startCtx c.h.val c.n.val

end Sys2Proof.Machine
end

