-- ==== Sys2Proof/Machine/Residency.lean ====
section
/-! DEFINITION. Who holds the facets: the saved image of a partition, clearing what a partition held, the stop and drain
before a switch, a destruction or a reset, and the turn within a slice group (14_partitions.md, R280 to R287). -/

namespace Sys2Proof.Machine

/-! ## Clearing (R247, Table 14-3) -/

/-- Facet state of global sector g returns to reset: local store, registers, accumulator sets, generators, descriptors,
wedge cells, dispatch counters and the facet window. -/
def Dev.clearSector (d : Dev) (g : Nat) : Dev :=
  let r {α : Type} (m : List (Nat × α)) (per : Nat) : List (Nat × α) := alClear m (16 * g * per) ((16 * g + 16) * per)
  let d := { d with
    ls := r d.ls 0x200000, vregs := r d.vregs 524288, pregs := r d.pregs 131072, aregs := r d.aregs 32, accs := r d.accs 2,
    pds := r d.pds 8, pvs := r d.pvs 384, wds := r d.wds 8, cells := r d.cells 1, dcnt := r d.dcnt 1024, rng := r d.rng 512,
    claims := r d.claims 1 }
  d.resetRegs (rFct (16 * g)) (rFct (16 * g) + 0x100000)

/-- The instruction-store range of context n of hemisphere h is emptied. -/
def Dev.clearStore (d : Dev) (h n : Nat) : Dev :=
  let rg := d.isRange h n
  { d with istore := alClear d.istore (isKey h rg.1) (isKey h rg.2), fill := alClear d.fill (isKey h rg.1) (isKey h rg.2) }

/-- The registers of context n of hemisphere h return to reset. -/
def Dev.clearCtxRegs (d : Dev) (h n : Nat) : Dev :=
  (d.resetRegs (rCtx h n) (rCtx h n + 0x1000)).resetRegs (rCtxBtab h n 0) (rCtxBtab h n 0 + 0x2000)

/-- Whether p's partition has the box unit of hemisphere h. -/
def Dev.hasBox (d : Dev) (p h : Nat) : Bool := d.flag (rPrtCfg p) (52 + h)

/-- Everything of Table 14-3 that the holder of p's sectors has there is cleared; the contexts are absent. -/
def Dev.clearHeld (d : Dev) (p : Nat) : Dev :=
  let d := forL (d.heldSectors p) (fun g (d : Dev) => d.clearSector g) d
  let d := forL (d.ctxsOf p) (fun y (d : Dev) => ((d.clearStore y.1 y.2).clearCtxRegs y.1 y.2).setCtx y.1 y.2 Ctx.absent) d
  forL [0, 1] (fun h (d : Dev) => if d.hasBox p h then { d with box := alDrop d.box h } else d) d

/-- The staging lines in p's ways are invalidated (R176). -/
def Dev.dropWays (d : Dev) (p : Nat) : Dev :=
  { d with mem := { d.mem with lines := d.mem.lines.filter fun l => !d.wayOf (rimHemi (l.line * 256)) l.way p } }

/-! ## The saved image (R285) -/

/-- Entries of an array that lie in p's sectors, `per` to a facet. -/
def Dev.sectorPart {α : Type} (d : Dev) (p per : Nat) (m : List (Nat × α)) : List (Nat × α) :=
  m.filter fun e => d.holds p (e.1 / per / 16)

/-- What p's sectors hold, under a save count. -/
def Dev.takeImage (d : Dev) (p count : Nat) : SavedImage :=
  let r {α : Type} (m : List (Nat × α)) (per : Nat) : List (Nat × α) := d.sectorPart p per m
  let cs := d.ctxsOf p
  let inCtx (k : Nat) : Bool := cs.any fun y => let rg := d.isRange y.1 y.2; decide (isKey y.1 rg.1 ≤ k ∧ k < isKey y.1 rg.2)
  let inRegs (k : Nat) : Bool :=
    (cs.any fun y => decide (rCtx y.1 y.2 ≤ k ∧ k < rCtx y.1 y.2 + 0x1000) ||
      decide (rCtxBtab y.1 y.2 0 ≤ k ∧ k < rCtxBtab y.1 y.2 0 + 0x2000)) ||
    (d.heldSectors p).any fun g => decide (rFct (16 * g) ≤ k ∧ k < rFct (16 * g) + 0x100000)
  { p, sectors := d.sectors p, count, ctxs := cs.map fun y => (y.1 * 8 + y.2, d.ctx y.1 y.2), ls := d.ls.filter fun e => d.holds p (e.1 / 0x200000 / 16),
    vregs := r d.vregs 524288, pregs := r d.pregs 131072, aregs := r d.aregs 32, accs := r d.accs 2, pds := r d.pds 8,
    pvs := r d.pvs 384, wds := r d.wds 8, cells := r d.cells 1, dcnt := r d.dcnt 1024, rng := r d.rng 512,
    istore := d.istore.filter fun e => inCtx e.1, fill := d.fill.filter fun e => inCtx e.1,
    regs := d.regs.filter fun e => inRegs e.1, boxes := d.box.filter fun e => d.hasBox p e.1 }

/-- Puts the entries of an image that lie in the sectors of `good` into an array. -/
def loadPart (good : List Nat) (per : Nat) (sub m : NatMap) : NatMap :=
  m.setAll (sub.filter fun e => good.contains (e.1 / per / 16))

/-- Loads an image into cleared sectors; of the facet state, what lies in the sectors of `good`. -/
def Dev.loadImage (d : Dev) (i : SavedImage) (good : List Nat) : Dev :=
  let ok {α : Type} (per : Nat) (e : Nat × α) : Bool := good.contains (e.1 / per / 16)
  let d := { d with
    ls := d.ls.writeAt (i.ls.filter fun e => good.contains (e.1 / 0x200000 / 16)), vregs := loadPart good 524288 i.vregs d.vregs,
    pregs := loadPart good 131072 i.pregs d.pregs, aregs := loadPart good 32 i.aregs d.aregs,
    accs := forL (i.accs.filter (ok 2)) (fun e m => alSet AccSet.zero m e.1 e.2) d.accs, pds := loadPart good 8 i.pds d.pds,
    pvs := loadPart good 384 i.pvs d.pvs, wds := loadPart good 8 i.wds d.wds,
    cells := forL (i.cells.filter (ok 1)) (fun e m => alSet WedgeCell.idle m e.1 e.2) d.cells,
    dcnt := loadPart good 1024 i.dcnt d.dcnt, rng := loadPart good 512 i.rng d.rng, istore := d.istore.setAll i.istore,
    fill := d.fill.setAll i.fill, box := forL i.boxes (fun e m => alPut m e.1 e.2) d.box }
  let d := forL i.ctxs (fun e (d : Dev) => { d with ctxs := alSet Ctx.absent d.ctxs e.1 e.2 }) d
  forL i.regs (fun e (d : Dev) => d.setReg e.1 e.2) d

/-- A context that runs when its partition loses the facets is pre-empted, and runs again when it has them back. -/
def Ctx.suspend (c : Ctx) : Ctx := if c.state = .running then { c with state := .preempted } else c
def Ctx.wake (c : Ctx) : Ctx := if c.state = .preempted then { c with state := .running } else c

/-- The contexts of p are in the sequencers: p holds the facets. -/
def Dev.live (d : Dev) (p : Nat) : Bool :=
  (d.ctxsOf p).any fun y => let x := d.ctx y.1 y.2; x.state != .absent && x.part == p

/-- `f` acts on the device as p's commands see it: where p does not hold the facets, on p's image. -/
def Dev.withImage (d : Dev) (p : Nat) (f : Dev → Dev) : Dev :=
  if d.live p then f d else
  match d.image p with
  | none => f d
  | some i =>
    let other := d.takeImage p 0
    let claims := d.claims
    let d := (d.clearHeld p).loadImage i (d.heldSectors p)
    let d := f d
    let j := d.takeImage p i.count
    let d := { (d.clearHeld p).loadImage other (d.heldSectors p) with claims }
    d.setImage p (some { j with ctxs := j.ctxs.map fun e => (e.1, e.2.suspend) })

/-- Fresh contexts of p, idle. -/
def Dev.idleCtxs (d : Dev) (p : Nat) : Dev :=
  forL (d.ctxsOf p) (fun y (d : Dev) => d.setCtx y.1 y.2 { Ctx.absent with state := .idle, part := p }) d

/-- The image of a member whose contexts are idle and whose facets are clear. -/
def Dev.freshImage (d : Dev) (p : Nat) : SavedImage :=
  { p, sectors := d.sectors p, count := (d.part p).saves,
    ctxs := (d.ctxsOf p).map fun y => (y.1 * 8 + y.2, { Ctx.absent with state := CtxState.idle, part := p }),
    ls := [], vregs := [], pregs := [], aregs := [], accs := [], pds := [], pvs := [], wds := [], cells := [], dcnt := [], rng := [],
    istore := [], fill := [], regs := [], boxes := [] }

/-! ## Stopping and draining (R283 steps 1 to 3) -/

/-- Every running context of p stops at its issue boundary, once nothing of Table 14-2 executes. -/
def Dev.stopForDrain (d : Dev) (p : Nat) : Dev :=
  if d.unstoppable p then d else
  forL (d.ctxsOf p) (fun y (d : Dev) => d.modCtx y.1 y.2 fun c => if c.part = p then c.suspend else c) d

/-- A request that the drain waits for: an ITAKE whose entries are not written, and a Barrov op that has not begun its
rendezvous, wait for the next residency (R285). -/
def Dev.drainsOn (d : Dev) (p : Nat) (r : Request) : Bool :=
  match r.kind with
  | .take _ _ _ none => false
  | .take ring _ nrow (some first) => d.takeReady p ring nrow first
  | .barrov g e => (match d.job g e with | some j => j.begun || j.data | none => r.cut)
  | _ => true

/-- The requests of p that the drain waits for. -/
def Dev.inFlight (d : Dev) (p : Nat) : List Owned :=
  d.allRequests.filter fun x => (d.ctx x.h x.n).part == p && d.drainsOn p x.r

/-- Nothing of p is in flight on its tags, and no program stream-in of it is in progress. -/
def Dev.drained (d : Dev) (p : Nat) : Bool :=
  (d.inFlight p).isEmpty && (d.ctxsOf p).all fun y => let x := d.ctx y.1 y.2; x.part != p || x.streams.isEmpty

/-- The effects of p's issued ops come about, and its span tokens under way arrive (R27). -/
def Dev.settleAll (d : Dev) (p : Nat) : Dev :=
  let d := forL (d.ctxsOf p) (fun y (d : Dev) =>
    let x := d.ctx y.1 y.2
    if x.part ≠ p then d else
    let t := x.inflight.foldl (fun m e => max m (e.due + 128)) x.cyc
    (d.setCtx y.1 y.2 (x.run (t - x.cyc))).settle y.1 y.2 t) d
  forL [0, 1] (fun h (d : Dev) =>
    let mine := (d.spanTo h).flatMap fun e => e.tokens.filter fun t => t.part == p
    let l := (d.spanTo h).map fun e => { e with tokens := e.tokens.filter fun t => t.part != p }
    let d := d.setSpanTo h (l.filter fun e => !(e.tokens.isEmpty && e.data.isEmpty))
    forL mine (fun t (d : Dev) => d.holdToken h t) d) d

/-- What is left of p 2 ms into its drain ends with cause DRAIN, and the error state of its tags is set. -/
def Dev.endDrain (d : Dev) (p : Nat) : Dev :=
  let d := forL (d.inFlight p) (fun x (d : Dev) =>
    let job := match x.r.kind with | .barrov g e => d.job g e | _ => none
    match job with
    | some j => d.endJob j 0x101 none
    | none =>
      let a := d.requestAddr x.r
      let d := (d.dropRequest x.h x.n x.r.id).modCtx x.h x.n fun c => c.markErr x.r.tag
      d.record { part := some p, cls := clsRequest, cause := 0x101, block := 6, unit := (d.heldSectors p).headD 0,
                 det := detail a x.r.bidx x.n x.r.tag 0 }) d
  forL (d.ctxsOf p) (fun y (d : Dev) => d.modCtx y.1 y.2 fun c => if c.part = p then { c with streams := [] } else c) d

/-! ## The slice group (R280, R282, R284) -/

/-- GROUP and MEMBER of PRT_p_CFG. -/
def Dev.sliceGroup (d : Dev) (p : Nat) : Nat := d.fld (rPrtCfg p) 59 56
def Dev.memberIdx (d : Dev) (p : Nat) : Nat := d.fld (rPrtCfg p) 55 54

/-- The members of p's slice group, p among them, in increasing member index; p alone without a group. -/
def Dev.mates (d : Dev) (p : Nat) : List Nat :=
  if 8 ≤ d.sliceGroup p then [p] else
  (List.range 4).filterMap fun m =>
    (List.range 16).find? fun q => d.partValid q && d.sliceGroup q == d.sliceGroup p && d.memberIdx q == m

/-- PARKED of PRT_p_STATE. -/
def Dev.parked (d : Dev) (p : Nat) : Bool := d.flag (rPrtState p) 31

/-- A member takes its turn unless it is parked, stopped by a partition-fatal error, being destroyed, or has no running
context. -/
def Dev.runnable (d : Dev) (p : Nat) : Bool :=
  d.partValid p && !d.parked p && !d.partFatal p && d.partState p != 6 &&
    (d.ctxsOf p).any fun y => let s := (d.ctxFor p y.1 y.2).state; s == .running || s == .preempted || s == .debugHalted

/-- The members that follow p in turn, p last. -/
def Dev.afterMe (d : Dev) (p : Nat) : List Nat :=
  let ms := d.mates p
  (ms.filter fun q => d.memberIdx p < d.memberIdx q) ++ (ms.filter fun q => d.memberIdx q ≤ d.memberIdx p)

/-- p's turn comes: what is to be taken from its slice is taken; none is left when the slice is reduced to 0 (R284). -/
def Dev.takeCut (d : Dev) (p : Nat) : Dev × Bool :=
  let due := (d.part p).cut
  let slice := d.reg (rPrtSlice p)
  let debt := d.reg (rPrtDebt p)
  let next := min debt slice
  let d := (d.setPart p { d.part p with cut := next }).setReg (rPrtDebt p) (debt - next)
  (d, decide (slice ≤ due))

/-- The member whose turn is next among those given, round and round: slices reduced to 0 are skipped. -/
def Dev.nextTurn (d : Dev) : Nat → List Nat → List Nat → Dev × Option Nat
  | 0, _, _ => (d, none)
  | _ + 1, [], [] => (d, none)
  | k + 1, [], all => Dev.nextTurn d k all all
  | k + 1, q :: qs, all =>
    match d.takeCut q with
    | (d, true) => Dev.nextTurn d k qs all
    | (d, false) => (d, some q)

/-- The sectors of p pass to q, or to nobody. -/
def Dev.nameResident (d : Dev) (p : Nat) (q : Option Nat) : Dev := forL (d.heldSectors p) (fun g (d : Dev) => d.setResident g q) d

/-- The ways of p on both hemispheres are invalidated and assigned to q (R283 step 5). -/
def Dev.passWays (d : Dev) (p q : Nat) : Dev :=
  let d := d.dropWays p
  forL [0, 1] (fun h (d : Dev) => forN 16 (fun w (d : Dev) =>
    if d.wayOf h w p then d.setFld (rMemWaymap h) (4 * w + 3) (4 * w) q else d) d) d

/-- Free ways of hemisphere h, lowest first. -/
def Dev.freeWays (d : Dev) (h : Nat) : List Nat := (List.range 16).filter fun w => !d.flag (rMemWaymap h) (64 + w)

/-- The ways of p on hemisphere h. -/
def Dev.waysOf (d : Dev) (p h : Nat) : List Nat := (List.range 16).filter fun w => d.wayOf h w p

/-- Way w of hemisphere h is p's. -/
def Dev.giveWay (d : Dev) (h w p : Nat) : Dev := (d.setFlag (rMemWaymap h) (64 + w) true).setFld (rMemWaymap h) (4 * w + 3) (4 * w) p

/-- Way w of hemisphere h is free. -/
def Dev.freeWay (d : Dev) (h w : Nat) : Dev := (d.setFlag (rMemWaymap h) (64 + w) false).setFld (rMemWaymap h) (4 * w + 3) (4 * w) 0

/-- The ways that PRT_WAYS asked for come into effect: the highest ways are returned, the lowest free ones added. -/
def Dev.applyWays (d : Dev) (p : Nat) : Dev :=
  let asked := (d.part p).ways
  if asked.isEmpty then d else
  let d := d.dropWays p
  let d := forL asked (fun a (d : Dev) =>
    let back := ((d.waysOf p a.1).reverse).take (min a.2.2 ((d.waysOf p a.1).length - 1))
    let d := forL back (fun w (d : Dev) => d.freeWay a.1 w) d
    forL ((d.freeWays a.1).take a.2.1) (fun w (d : Dev) => d.giveWay a.1 w p) d) d
  d.setPart p { d.part p with ways := [] }

/-- q begins to have its image restored (R283 step 6). -/
def Dev.beginRestore (d : Dev) (q : Nat) : Dev := ((d.nameResident q (some q)).setPartState q 5).applyWays q

/-- p gives up the facets: the next runnable member of its group is restored, or nobody holds the sectors. -/
def Dev.handOver (d : Dev) (p : Nat) : Dev :=
  match d.nextTurn (2 ^ 22) ((d.afterMe p).filter d.runnable) ((d.afterMe p).filter d.runnable) with
  | (d, some q) => (if q = p then d else d.passWays p q).beginRestore q
  | (d, none) => d.nameResident p none

/-- Nobody holds p's sectors and p is runnable: it is restored. -/
def Dev.claimFacets (d : Dev) (p : Nat) : Dev :=
  if d.partState p == 2 && d.runnable p && (d.heldSectors p).all fun g => d.residentOf g == none then
    let from_ := (d.mates p).find? fun q => q != p && ([0, 1].any fun h => !(d.waysOf q h).isEmpty)
    let d := match from_ with | some q => d.passWays q p | none => d
    d.beginRestore p
  else d

/-- p's slice has ended, or it is parked: it begins to stop (R283). -/
def Dev.beginSwitch (d : Dev) (p : Nat) : Dev :=
  ((d.setPart p { d.part p with goal := DrainGoal.switch }).setPartState p 3).stopForDrain p

/-- A context of p is debug-halted. -/
def Dev.anyDebugHalt (d : Dev) (p : Nat) : Bool := (d.ctxsOf p).any fun y => (d.ctx y.1 y.2).state == .debugHalted

end Sys2Proof.Machine
end

