-- ==== Sys2Proof/Machine/Partition.lean ====
section
/-! DEFINITION. Partitions: creation, time slices, pre-emption, destruction, reset and zeroisation (14_partitions.md, R279 to
R290; 12_custody.md, R247, R248; 20_reset_boot.md, R358). -/

namespace Sys2Proof.Machine

/-! ## Zeroisation (R247) -/

/-- Rim bytes from `lo` to `hi - 1` are written to zero with valid check symbols. -/
def Dev.zeroRim (d : Dev) (lo hi : Nat) : Dev :=
  { d with rim := d.rim.zero lo hi, mem := { d.mem with errs := alClear d.mem.errs (lo / 64) (hi / 64) } }

/-- The rim range of sector g below the carve-out is zeroised, with the state of its facets. -/
def Dev.zeroSector (d : Dev) (g : Nat) : Dev :=
  (d.zeroRim (g * sectorBytes) ((g + 1) * sectorBytes - d.carveBytes)).clearSector g

/-- Global sector g is dirty or zeroising. -/
def Dev.dirty (d : Dev) (g : Nat) : Bool := d.flag rCusStatus g

/-- Every sector of p becomes dirty. -/
def Dev.soil (d : Dev) (p : Nat) : Dev := d.setFld rCusStatus 15 0 (Nat.lor (d.fld rCusStatus 15 0) (d.sectors p))

/-! ## The end of what a partition holds -/

/-- The SEALs and UNSEALs of p end with cause KEY; a destination in rim memory is zeroed. -/
def Dev.endSeals (d : Dev) (p : Nat) : Dev :=
  let js := d.cus.seals.filter fun s => s.p == p
  let d := { d with cus := { d.cus with seals := d.cus.seals.filter fun s => s.p != p } }
  forL js (fun s (d : Dev) =>
    let d := if s.dst < rimTop then d.gwrite s.dst (List.replicate (s.len + if s.isUnseal then 0 else 48) 0) else d
    d.finishSeq s.seq (some clsRequest) 0x14 0) d

/-- Principal k and its keys are gone. -/
def Dev.endPrincipal (d : Dev) (k : Nat) : Dev :=
  { d.setReg (rCusPrin k) 0 with cus := { d.cus with principals := d.cus.principals.filter fun x => x.k != k } }

/-- The key slots that satisfy a condition on their register are zeroised and freed; a KEY_ERASE of one completes. -/
def Dev.wipeSlots (d : Dev) (sel : Nat → Bool) : Dev :=
  let ss := (d.regs.filter fun e => decide (rCusSlot 0 ≤ e.1 ∧ e.1 < rCusSlot 4096) && bit e.2 63 && sel e.2).map fun e =>
    (e.1 - rCusSlot 0) / 8
  let er := d.cus.erasing.filter fun e => ss.contains e.1
  let d := { d with cus := { d.cus with erasing := d.cus.erasing.filter fun e => !ss.contains e.1 } }
  let d := forL ss (fun n (d : Dev) => d.freeSlot n) d
  forL er (fun e (d : Dev) => d.finishSeq e.2 none 0 0) d

/-- The sessions that satisfy a condition on their register end, with their keys. -/
def Dev.wipeSessions (d : Dev) (sel : Nat → Bool) : Dev :=
  forL ((List.range 256).filter fun s => sel (d.reg (rCusPrin (s + 1))) && d.prinValid (s + 1)) (fun s (d : Dev) =>
    d.endPrincipal (s + 1)) d

/-- The phase of p's save. -/
def Dev.psvPhase (d : Dev) (p : Nat) : Nat := d.fld (rPsvSave p) 47 45

/-- The save-step word of p, which follows the 16 B at STEPW, is written. -/
def Dev.writeStepWord (d : Dev) (p v : Nat) : Dev :=
  let a := d.fld (rPsvStepw p) 47 6 * 64 + 16
  if d.inShare p a 8 then d.gwrite a (leBytes 8 v) else d

/-- The contexts of p that stand at a save point go on from it. -/
def Dev.leaveSavePoint (d : Dev) (p : Nat) : Dev :=
  forL (d.ctxsOf p) (fun y (d : Dev) => d.modCtxFor p y.1 y.2 fun c => { c with saveStop := false }) d

/-- A save in phases 1 to 3 is abandoned: PHASE 7, its command ends with a cause, and the contexts go on (R296, R299). -/
def Dev.abandonSave (d : Dev) (p cls cause value : Nat) : Dev :=
  let ph := d.psvPhase p
  if ph = 0 ∨ 3 < ph then d else
  let x := d.psvOf p
  let d := ((d.setFld (rPsvSave p) 47 45 7).bump64 (rPsvCnt p 1)).writeStepWord p (2 ^ 64 - 1)
  let d := (d.setPsv p { x with current := none, cmd := none }).leaveSavePoint p
  match x.cmd with
  | some q => d.finishSeq q (some cls) cause (detail 0 0 0 0 value)
  | none => d

/-- PHASE of a committed save: 4 until its flash write has landed, then 5 until its shared-store write has, then 6. -/
def Dev.showPhase (d : Dev) (p : Nat) : Dev :=
  let id := d.fld (rPsvSave p) 127 64
  if d.psvPhase p < 3 ∨ d.psvPhase p = 7 then d else
  let m := alGet 0 (d.psvOf p).background id
  d.setFld (rPsvSave p) 47 45 (if bit m 0 then 4 else if bit m 1 then 5 else 6)

/-- The oldest background write of a tier (0 flash, 1 shared store) ends; `ok` sets its bit. -/
def Dev.tierEnds (d : Dev) (p tier : Nat) (ok : Bool) : Dev :=
  let x := d.psvOf p
  match x.background.find? fun b => bit b.2 tier with
  | none => d
  | some b =>
    let m := setBits b.2 tier tier 0
    let background := (x.background.map fun y => if y.1 = b.1 then (b.1, m) else y).filter fun y => y.2 != 0
    let mark (s : SaveSlot) : SaveSlot := if s.saveId = b.1 ∧ ok then { s with tiers := Nat.lor s.tiers (2 ^ (tier + 1)) } else s
    let d := d.setPsv p { x with background, saves := x.saves.map mark }
    let d := if ok && d.fld (rPsvSave p) 127 64 == b.1 then d.setFlag (rPsvSave p) (43 + tier) true else d
    d.showPhase p

/-- The save of p fails in its phase: in 1 to 3 it is abandoned, in 4 or 5 that tier is lost (R299). -/
def Dev.dropSave (d : Dev) (p : Nat) : Dev :=
  match d.psvPhase p with
  | 4 => d.tierEnds p 0 false
  | 5 => d.tierEnds p 1 false
  | ph => d.abandonSave p clsRequest 0x201 ph

/-- A failure of all that p saves: the save is abandoned, and every tier still being written is lost (R299). -/
def Dev.dropSaves (d : Dev) (p : Nat) : Dev :=
  let d := d.abandonSave p clsRequest 0x201 (d.psvPhase p)
  if (d.psvOf p).background.isEmpty then d
  else (d.setPsv p { d.psvOf p with background := [] }).showPhase p

/-- Every ring of p is stopped, as ING_STOP does. -/
def Dev.stopRings (d : Dev) (p : Nat) : Dev := forN 4 (fun r (d : Dev) => d.stopRing p r 0x8) d

/-- The groups of p that are enabled. -/
def Dev.groupsOn (d : Dev) (p : Nat) : List Nat := ((List.range 256).map fun k => p * 256 + k).filter fun g => d.grpOn g

/-- Everything of p that runs or is held outside its sectors ends: programs, SEALs, saves, rings, groups, queue pairs, keys,
sessions, reports, ports and rings of records (R234, R247, R287). -/
def Dev.endHoldings (d : Dev) (p : Nat) : Dev :=
  let d := (d.endPrograms p (some clsRequest) 0x8).endSeals p
  let d := d.abandonSave p clsRequest 0x201 (d.psvPhase p)
  let d := d.stopRings p
  let d := forN 4 (fun r (d : Dev) => (d.setFlag (rIngRingCfg p r) 63 false).setRing p r Ring.none) d
  let d := forL (d.groupsOn p) (fun g (d : Dev) => d.disableGroup g 0x24 none) d
  let d := { d with brv := { d.brv with
    qps := d.brv.qps.filter fun q => q.part != p,
    regions := d.brv.regions.filter fun r => r.1 != p,
    early := d.brv.early.filter fun r => r.g / 256 != p,
    aborted := d.brv.aborted.filter fun x => x.1 / 256 != p } }
  let d := d.wipeSlots fun v => !bit v 61 && bits v 60 57 == p
  let d := d.wipeSessions fun v => !bit v 121 && bits v 125 122 == p
  let d := { d with
    cus := { d.cus with reports := d.cus.reports.filter fun r => r.part != p },
    nevRing := alDrop d.nevRing p, smpRing := alDrop d.smpRing p,
    samples := d.samples.filter fun s => s.part != p }
  let d := d.setPsv p Psv.none
  forL ((List.range 48).filter fun n => d.portPart n == some p) (fun n (d : Dev) =>
    ((d.setFld (rPortCfg n) 25 21 0).setPort n { d.port n with occ := [] })) d

/-- Every way of p, and its instruction-store banks, are free. Table 14-5 lists no write of SEQ_ISBANK for the end of a
partition; its nibbles return to 0xF whatever SEQ_LOCK holds, as its ways do (DESIGN CHOICE, log 96). -/
def Dev.freeSectorUnits (d : Dev) (p : Nat) : Dev :=
  let d := d.dropWays p
  let d := forL [0, 1] (fun h (d : Dev) => forL (d.waysOf p h) (fun w (d : Dev) => d.freeWay h w) d) d
  forL (d.ctxsOf p) (fun y (d : Dev) => forN 8 (fun b (d : Dev) =>
    if d.fld (rSeqIsbank y.1) (4 * b + 3) (4 * b) = y.2 then d.setFld (rSeqIsbank y.1) (4 * b + 3) (4 * b) 0xF else d) d) d

/-- p's share of every sector that it holds is zeroised. -/
def Dev.zeroShare (d : Dev) (p : Nat) : Dev :=
  forL (d.heldSectors p) (fun g (d : Dev) => d.zeroRim (d.shareLo p g) (d.shareHi p g)) d

/-- p exists no more; STATE is as given. -/
def Dev.releasePart (d : Dev) (p state : Nat) : Dev :=
  ((d.resetReg (rPrtCfg p)).resetReg (rPrtPorts p)).setReg (rPrtState p) (state * 2 ^ 27)

/-- p is destroyed, stopped and drained if it was resident (R287). With other members in its group, its share is zeroised and
the sectors stay clean; else the sectors become dirty, and SECTOR_ZEROISED ends the command. `cmd` waits for it. -/
def Dev.destroyNow (d : Dev) (p : Nat) (cmd : Option Nat) : Dev :=
  let others := (d.mates p).filter fun q => q != p
  let holder := (d.heldSectors p).any fun g => d.residentOf g == some p
  let d := d.setPartState p 6
  let d := (if d.live p then d.clearHeld p else d).setImage p none
  let d := d.endHoldings p
  match others with
  | q :: _ =>
    let d := if holder then d.handOver p else d
    let d := d.passWays p q
    let d := d.zeroShare p
    let d := (d.setPart p PartSt.none).releasePart p 0
    (match cmd with | some c => d.finishSeq c none 0 0 | none => d)
  | [] =>
    let m := d.sectors p
    let d := ((d.nameResident p none).freeSectorUnits p).soil p
    (d.setPart p { PartSt.none with zeroing := m, cmd }).releasePart p 6

/-- The commands that wait for a sector's zeroisation complete once their last sector is clean. -/
def Dev.zeroised (d : Dev) (g : Nat) : Dev :=
  let d := d.setFlag rCusStatus g false
  let d := forN 16 (fun p (d : Dev) =>
    let x := d.part p
    if !bit x.zeroing g then d else
    let z := setBits x.zeroing g g 0
    let d := d.setPart p { x with zeroing := z }
    if z ≠ 0 then d else
    let d := (d.setPart p { x with zeroing := 0, cmd := none }).setPartState p 0
    match x.cmd with | some c => d.finishSeq c none 0 0 | none => d) d
  if d.fld rCusStatus 15 0 ≠ 0 then d else
  let d := d.setFlag rBootDegr 0 false
  match d.cus.unlock with
  | none => d
  | some c =>
    let d := (d.setFlag rCusStatus 62 true).setFlag rCusStatus 61 true
    ({ d with cus := { d.cus with unlock := none } } : Dev).finishSeq c none 0 0

/-- SECTOR_ZEROISED (R247, R248). -/
def execSectorZeroised (g : Fin 16) (st : State) : Host.Outcome State Fault Refusal :=
  st.act fun d => if d.dirty g.val then (d.zeroSector g.val).zeroised g.val else d

/-! ## Creation (R279 to R281, Table 14-1) -/

/-- What PARTITION_CREATE asks for. -/
structure Creation where
  p : Nat
  sectors : Nat
  group : Nat
  member : Nat
  base : Nat
  size : Nat
  ports : Nat
  extra : Nat → Nat
  box : Nat
  slice : Nat

/-- The parameters of PARTITION_CREATE for partition p. -/
def creationOf (p : Nat) (ps : Params) : Creation :=
  { p, sectors := ps.at 0, group := ps.at 1, member := ps.at 2, base := ps.at 3, size := ps.at 4, ports := ps.at 5,
    extra := fun h => if h = 0 then ps.at 6 else ps.at 7, box := ps.at 8, slice := ps.at 9 }

/-- The members already in the slice group named. -/
def Dev.groupMembers (d : Dev) (x : Creation) : List Nat :=
  if 8 ≤ x.group then [] else (List.range 16).filter fun q => d.partValid q && d.sliceGroup q == x.group

/-- Sectors held on hemisphere h by a mask. -/
def sectorsOn (m h : Nat) : Nat := countIf (fun i => bit m (h * 8 + i)) (List.range 8)

/-- The parameter with which PARTITION_CREATE is refused with PARAM: its index. -/
def Dev.createParam (d : Dev) (x : Creation) : Option Nat :=
  let ms := d.groupMembers x
  let u := d.shareUnits
  Sys2Proof.Machine.firstBad [
    ((List.range 48).any fun n => bit x.ports n && d.flag (rPortCfg n) 21, 5),
    ((List.range 24).any fun k => d.fld (rPortCfg (2 * k)) 30 28 == 3 && bit x.ports (2 * k) != bit x.ports (2 * k + 1), 5),
    (ms.any fun q => d.sectors q != x.sectors, 0),
    (ms.any fun q => d.memberIdx q == x.member, 2),
    (ms.any fun q => decide (d.fld (rPrtCfg q) 43 36 < x.base + x.size ∧ x.base < d.fld (rPrtCfg q) 43 36 + d.fld (rPrtCfg q) 51 44), 3),
    (decide (u < x.base + x.size), 4),
    (decide (8 ≤ x.group) && x.base != 0, 3),
    (decide (8 ≤ x.group) && x.size != u, 4)]

/-- The lowest contiguous run of `k` free instruction-store banks of hemisphere h. -/
def Dev.freeBanks (d : Dev) (h k : Nat) : Option Nat :=
  (List.range (9 - k)).find? fun b => (List.range k).all fun j => d.fld (rSeqIsbank h) (4 * (b + j) + 3) (4 * (b + j)) == 0xF

/-- PARTITION_CREATE is refused with BUSY. -/
def Dev.createBusy (d : Dev) (x : Creation) : Bool :=
  let ms := d.groupMembers x
  let gs := (List.range 16).filter fun g => bit x.sectors g
  let outside := (List.range 16).filter fun q => d.partValid q && !ms.contains q
  let first := ms.isEmpty
  (gs.any fun g => d.dirty g) ||
  (outside.any fun q => gs.any fun g => d.holds q g) ||
  (gs.any fun g => (List.range 16).any fun c => !d.pcOk (g / 2) (g % 2 * 16 + c)) ||
  (outside.any fun q => [0, 1].any fun h => bit x.box h && d.hasBox q h) ||
  (first && [0, 1].any fun h => sectorsOn x.sectors h != 0 && (d.freeBanks h (sectorsOn x.sectors h)).isNone) ||
  ([0, 1].any fun h =>
    decide ((d.freeWays h).length < x.extra h + if first then sectorsOn x.sectors h else 0)) ||
  decide (d.sys.carve * 64 < 2 * (80 * (ms.length + 1))) || d.partState x.p != 0

/-- The registers that R134, R186, R209, R234, R305 and R321 return to reset when p is created, and its policy record. -/
def Dev.resetPartRegs (d : Dev) (p : Nat) : Dev :=
  let d := (d.resetRegs (rNevRbase p) (rNevRbase p + 0x1000)).resetRegs (rMemFwCfg p 0) (rMemFwCfg p 0 + 0x100)
  let d := d.resetRegs (rBrvGrp (p * 256)) (rBrvGrp (p * 256) + 0x4000)
  let peers := (d.regs.filter fun e => decide (rBrvPeer 0 ≤ e.1 ∧ e.1 < rBrvPeer 16384) && bits e.2 253 250 == p).map Prod.fst
  let d := forL peers (fun o (d : Dev) => d.resetReg o) d
  let d := (d.resetRegs (rIngPart p) (rIngPart p + 0x1000)).resetRegs (rPsv p) (rPsv p + 0x1000)
  let d := (d.resetRegs (rFlfMbxHead p) (rFlfMbxHead p + 0x10000)).resetReg (rCusPol p)
  let d := (d.resetRegs (rPrtCfg p) (rPrtCfg p + 0x100)).setReg (rHqPartStatus p) 0
  let d := d.resetRegs (rPmuSrBase p) (rPmuSrBase p + 0x40)
  { d with nevRing := alDrop d.nevRing p, smpRing := alDrop d.smpRing p, ing := { d.ing with
      rings := alClear d.ing.rings (p * 4) (p * 4 + 4), credit := alClear d.ing.credit (p * 16) (p * 16 + 16) } }

/-- p is created: everything of Table 14-1 is assigned to it. -/
def Dev.create (d : Dev) (x : Creation) : Dev :=
  let p := x.p
  let ms := d.groupMembers x
  let d := d.resetPartRegs p
  let d := d.setReg (rPrtCfg p) (2 ^ 63 + x.group * 2 ^ 56 + x.member * 2 ^ 54 + x.box * 2 ^ 52 + x.size * 2 ^ 44 +
    x.base * 2 ^ 36 + x.sectors)
  let d := (d.setReg (rPrtPorts p) x.ports).setReg (rPrtSlice p) x.slice
  let d := forL ((List.range 48).filter fun n => bit x.ports n) (fun n (d : Dev) => d.setFld (rPortCfg n) 25 21 (p * 2 + 1)) d
  let d := d.gatesOn (((List.range 16).filter fun g => bit x.sectors g).foldl (fun m g => m + 2 ^ gSect g) 0 +
    bits x.box 0 0 * 2 ^ gBox 0 + bits x.box 1 1 * 2 ^ gBox 1 + x.ports % 2 ^ 48 * 2 ^ gPort 0)
  let key := d.draw
  let d := (key.2.setPart p { PartSt.none with preKey := key.1 }).setPsv p Psv.none
  match ms with
  | [] =>
    let d := forL [0, 1] (fun h (d : Dev) =>
      forL ((d.freeWays h).take (sectorsOn x.sectors h + x.extra h)) (fun w (d : Dev) => d.giveWay h w p) d) d
    let d := forL (d.ctxsOf p) (fun y (d : Dev) =>
      let k := sectorsOn x.sectors y.1
      match d.freeBanks y.1 k with
      | none => d
      | some b => forN k (fun j (d : Dev) => d.setFld (rSeqIsbank y.1) (4 * (b + j) + 3) (4 * (b + j)) y.2) d) d
    (((d.clearHeld p).idleCtxs p).nameResident p (some p)).setPartState p 1
  | q :: _ =>
    let owner := (ms.find? fun m => [0, 1].any fun h => !(d.waysOf m h).isEmpty).getD q
    let d := forL [0, 1] (fun h (d : Dev) =>
      forL ((d.freeWays h).take (x.extra h)) (fun w (d : Dev) => d.giveWay h w owner) d) d
    (d.setImage p (some (d.freshImage p))).setPartState p 2

/-- PARTITION_CREATE (R279): sectors, group (0 to 7, or 0xF for none), member, SHARE_BASE, SHARE_SIZE, ports, extra ways of H0
and of H1, box units, slice. -/
def execPartitionCreate (q : QueueN) (st : State) : Host.Outcome State Fault Refusal :=
  st.act fun d => d.cmd q 0x701 [.num 2, .num 1, .num 1, .num 1, .num 1, .num 8, .num 1, .num 1, .num 1, .num 4]
    (fun ps => firstBad [(ps.at 0 == 0, 0), (decide (7 < ps.at 1) && ps.at 1 != 0xF, 1), (decide (3 < ps.at 2), 2),
      (decide (2 ^ 48 ≤ ps.at 5), 5), (decide (3 < ps.at 8), 8), (decide (ps.at 9 < 2000 ∨ 1000000 < ps.at 9), 9)])
    fun c ps d =>
      let x := creationOf c.part ps
      if 16 ≤ c.part ∨ d.partValid c.part then d.param c 0
      else match d.createParam x with
        | some i => d.param c i
        | none =>
          if d.createBusy x then d.fail c 0x4
          else match (if (d.groupMembers x).isEmpty then [0, 1] else []).find? (fun h => sectorsOn x.sectors h != 0 && d.flag (rSeqLock h) 0) with
            | some h => d.locked c (rSeqIsbank h)
            | none => (d.create x).done c

/-! ## Destruction and reset -/

/-- p begins to stop for a goal; a goal set before gives way to it. -/
def Dev.beginStop (d : Dev) (p : Nat) (goal : DrainGoal) (state : Nat) (cmd : Option Nat) : Dev :=
  ((d.setPart p { d.part p with goal, cmd }).setPartState p state).stopForDrain p

/-- PARTITION_DESTROY (R247, R248, R287). -/
def execPartitionDestroy (q : QueueN) (st : State) : Host.Outcome State Fault Refusal :=
  st.act fun d => d.cmd q 0x702 [] noBad fun c _ d => d.onPart c fun d =>
    let p := c.part
    if d.partState p = 6 then d.fail c 0x4 else
    let d := d.interim c
    if d.live p then d.beginStop p DrainGoal.destroy 6 (some c.seq) else d.destroyNow p (some c.seq)

/-- R358 steps 2 to 4, once p is stopped and drained. -/
def Dev.resetNow (d : Dev) (p : Nat) (cmd : Option Nat) : Dev :=
  let live := d.live p
  let d := if live then (d.clearHeld p).idleCtxs p else d.setImage p (some (d.freshImage p))
  let d := if live then (d.dropWays p).setImage p none else d
  let d := d.abandonSave p clsRequest 0x201 (d.psvPhase p)
  let d := forL (d.groupsOn p) (fun g (d : Dev) => d.resetGroup g) d
  let d := d.stopRings p
  let d := (d.setFlag (rPrtState p) 30 false).setFlag (rHqPartStatus p) 30 false
  let d := d.endPrograms p (some clsRequest) 0x8
  let d := d.setPart p { d.part p with goal := DrainGoal.none, cmd := none }
  let d := if live then d.setPartState p 1 else d
  match cmd with | some c => d.finishSeq c none 0 0 | none => d

/-- PARTITION_RESET (R358): from the PF on a DEV queue or on queue 0. -/
def execPartitionReset (q : QueueN) (st : State) : Host.Outcome State Fault Refusal :=
  st.act fun d => d.cmd q 0x706 [] noBad fun c _ d =>
    if !d.devQueue c.q && c.q != 0 then d.fail c 0x2 else d.onPart c fun d =>
      let p := c.part
      if d.partState p = 6 ∨ ((d.part p).goal = .reset) then d.fail c 0x4 else
      let d := d.interim c
      if d.live p then d.beginStop p DrainGoal.reset 3 (some c.seq) else d.resetNow p (some c.seq)

/-! ## Slices and pre-emption (R282 to R284) -/

/-- Another member of p's group is runnable. -/
def Dev.othersRun (d : Dev) (p : Nat) : Bool := (d.mates p).any fun q => q != p && d.runnable q

/-- p's slice can end in a switch: p is resident, no context of it is debug-halted, and it is parked or another member can
run. -/
def Dev.maySwitch (d : Dev) (p : Nat) : Bool := d.partState p == 1 && !d.anyDebugHalt p && (d.parked p || d.othersRun p)

/-- SLICE_END (R282). -/
def execSliceEnd (p : PartN) (st : State) : Host.Outcome State Fault Refusal :=
  st.act fun d => if d.maySwitch p.val then d.beginSwitch p.val else d

/-- PRT_SLICE: slice in µs, 2,000 to 1,000,000. -/
def execPrtSlice (q : QueueN) (st : State) : Host.Outcome State Fault Refusal :=
  st.act fun d => d.cmd q 0x703 [.num 4] (fun ps => firstBad [(decide (ps.at 0 < 2000 ∨ 1000000 < ps.at 0), 0)])
    fun c ps d => d.onPart c fun d => (d.setReg (rPrtSlice c.part) (ps.at 0)).done c

/-- PRT_PREEMPT (R282, R288): 0 YIELD, 1 PARK, 2 UNPARK. A partition stopped by a partition-fatal error can only be
parked. -/
def execPrtPreempt (q : QueueN) (st : State) : Host.Outcome State Fault Refusal :=
  st.act fun d => d.cmd q 0x704 [.num 1] (fun ps => firstBad [(decide (2 < ps.at 0), 0)]) fun c ps d => d.onPart c fun d =>
    let p := c.part
    if d.partFatal p && ps.at 0 != 1 then d.finish c (some clsPartition) 0x9 0 else
    match ps.at 0 with
    | 0 => (if d.maySwitch p then d.beginSwitch p else d).done c
    | 1 =>
      let d := d.setFlag (rPrtState p) 31 true
      (if d.maySwitch p then d.beginSwitch p else d).done c
    | _ => ((d.setFlag (rPrtState p) 31 false).claimFacets p).done c

/-- PRT_WAYS: hemisphere, ways to add, ways to return; from p's next residency (Table 14-5). A partition keeps one way (R176). -/
def execPrtWays (q : QueueN) (st : State) : Host.Outcome State Fault Refusal :=
  st.act fun d => d.cmd q 0x705 [.num 1, .num 1, .num 1] (fun ps => firstBad [(decide (1 < ps.at 0), 0)])
    fun c ps d => d.onPart c fun d =>
      let p := c.part
      let h := ps.at 0
      let own := (d.mates p).foldl (fun n m => n + (d.waysOf m h).length) 0
      if (d.ctxNum p h).isNone then d.param c 0
      else if (d.freeWays h).length < ps.at 1 then d.fail c 0x4
      else if ps.at 2 ≠ 0 ∧ own ≤ ps.at 2 then d.param c 2
      else (d.setPart p { d.part p with ways := (d.part p).ways ++ [(h, ps.at 1, ps.at 2)] }).done c

/-- Both contexts of p stand at an armed save point (R295). -/
def Dev.atSave (d : Dev) (p : Nat) : Bool :=
  d.psvPhase p == 1 && (d.ctxsOf p).all fun y => (d.ctxFor p y.1 y.2).saveStop

/-- p is being drained. -/
def Dev.draining (d : Dev) (p : Nat) : Bool := (d.part p).goal != .none || d.atSave p

/-- PREEMPT_DRAIN_TIMEOUT (R283 step 3, R295). -/
def execPreemptDrainTimeout (p : PartN) (st : State) : Host.Outcome State Fault Refusal :=
  st.act fun d => if d.draining p.val then (d.stopForDrain p.val).endDrain p.val else d

/-- The overrun of a switch: counted, and taken from p's next slices (R284). -/
def Dev.overrun (d : Dev) (p us : Nat) : Dev :=
  if us = 0 then d else
  let off := rPrtOverrun p
  let n := d.fld off 62 40 + 1
  let t := d.fld off 39 0 + us
  let o := d.flag off 63 || decide (2 ^ 23 ≤ n ∨ 2 ^ 40 ≤ t)
  let d := d.setReg off (b2n o * 2 ^ 63 + n % 2 ^ 23 * 2 ^ 40 + t % 2 ^ 40)
  let due := d.reg (rPrtDebt p) + us
  let cut := min due (d.reg (rPrtSlice p))
  (d.setPart p { d.part p with cut }).setReg (rPrtDebt p) (due - cut)

/-- Saving begins: p's sectors seal their image (R283 step 4, R285, R286). -/
def Dev.beginSaving (d : Dev) (p : Nat) : Dev :=
  let n := (d.part p).saves + 1
  let d := d.setPart p { d.part p with saves := n, goal := DrainGoal.none }
  ((d.setImage p (some (d.takeImage p n))).setPartState p 4).setReg (rPrtPimg p) 67024000

/-- DRAIN_COMPLETE (R283 steps 1 to 3): nothing of p is in flight, `overrunUs` after the slice end. -/
def execDrainComplete (p : PartN) (overrunUs : Nat) (st : State) : Host.Outcome State Fault Refusal :=
  st.act fun d =>
    let p := p.val
    if !d.draining p || d.unstoppable p then d else
    let goal := (d.part p).goal
    let d := if goal = DrainGoal.none then d else d.stopForDrain p
    if !d.drained p then d else
    let d := d.settleAll p
    match goal with
    | .none => d.setFld (rPsvSave p) 47 45 2
    | .switch => (d.overrun p overrunUs).beginSaving p
    | .destroy => d.destroyNow p (d.part p).cmd
    | .reset => d.resetNow p (d.part p).cmd

/-- SAVE_COMPLETE (R283 step 5): the facets are cleared and pass on. -/
def execSaveComplete (p : PartN) (st : State) : Host.Outcome State Fault Refusal :=
  st.act fun d =>
    let p := p.val
    if d.partState p ≠ 4 then d else ((d.clearHeld p).setPartState p 2).handOver p

/-- RESTORE_COMPLETE (R283 step 6, R286). A sector whose tag fails loads nothing, and p stops; else its contexts go on. -/
def execRestoreComplete (p : PartN) (badSectors : BitVec 16) (st : State) : Host.Outcome State Fault Refusal :=
  st.act fun d =>
    let p := p.val
    if d.partState p ≠ 5 then d else
    match (d.heldSectors p).filter fun g => badSectors.getLsbD g with
    | [] =>
      match d.image p with
      | none => ((d.idleCtxs p).setPartState p 1).advance p
      | some i =>
        let d := ((d.clearHeld p).loadImage i (d.heldSectors p)).setImage p none
        let d := forL (d.ctxsOf p) (fun y (d : Dev) => d.modCtx y.1 y.2 Ctx.wake) d
        (d.setPartState p 1).advance p
    | bad =>
      let d := d.setPartState p 2
      let d := forL bad (fun g (d : Dev) => d.record { part := some p, cls := clsPartition, cause := 0x100, block := 6, unit := g }) d
      d.handOver p

end Sys2Proof.Machine
end

