-- ==== Sys2Proof/Machine/Queues.lean ====
section
/-! DEFINITION. The PCI Express interface and the host queues (13_host_queues.md, R256 to R260, R267 to R277, R389). -/

namespace Sys2Proof.Machine

/-! ## Arbitration (R272) -/

/-- HQ_ARB is written only if every weight is 1 to 15 and no class waits too long (R272). -/
def arbOk (v : Nat) : Bool :=
  let w := [bits v 3 0, bits v 7 4, bits v 11 8, bits v 15 12]
  let sum := w.foldl (· + ·) 0
  let least := w.foldl min 15
  w.all (fun x => x != 0) && decide (sum * (bits v 17 16 + 1) ≤ 15 * least)

/-- A write of HQ_ARB. -/
def Dev.writeArb (d : Dev) (v : Nat) : Dev := if arbOk v then d.setReg rHqArb (bits v 17 0) else d

/-! ## Doorbells (R259) -/

/-- A dropped doorbell write: counted, and recorded at most once a second. -/
def Dev.dropBell (d : Dev) (off : Nat) : Dev :=
  let d := d.bump rHqDbdrop
  let q := if off < 0x100000 then off / 0x40 else 0xFFFFFFFF
  if (match d.hq.dbRec with | some t => decide (d.now < t + 1000000000) | none => false) then d else
  let d := { d with hq := { d.hq with dbRec := some d.now } }
  d.record { part := none, cls := clsCorrected, cause := 0x50, block := 5, unit := q, det := detail off 0 0 0 q }

/-- Waiting completions go to the CQ as the host frees entries (R277). `n` bounds them. -/
def Dev.flushOwed (q : Nat) : Nat → Dev → Dev
  | 0, d => d
  | n + 1, d =>
    match (d.queue q).owed with
    | [] => d
    | e :: es => if d.cqFull q then d else Dev.flushOwed q n ((d.setQueue q { d.queue q with owed := es }).writeCqe q e true)

/-- A write to BAR 2 by a function. -/
def Dev.bell (d : Dev) (fn : Nat) (w : BellWrite) : Dev :=
  let d := if d.hostUp then d.addBytes pcieUnit w.size 0 else d
  let off := w.off.toNat
  let q := off / 0x40
  let i := w.value.toNat % 2 ^ 16
  let own := d.fld (rHqCq q) 5 0 == fn && (fn == 0 || (d.vfPart fn).isSome && d.vfPart fn == d.queuePart q)
  if !d.hostUp then d
  else if w.size ≠ 4 ∨ 0x100000 ≤ off then d.dropBell off
  else if off % 0x40 = 0 then
    if d.sqOn q && own && decide (i < d.sqSize q) then d.setQueue q { d.queue q with tail := i } else d.dropBell off
  else if off % 0x40 = 4 then
    if d.cqOn q && own && decide (i < d.cqSize q) then
      let d := d.setQueue q { d.queue q with cqHead := i }
      (Dev.flushOwed q (d.queue q).owed.length d).tryClose q
    else d.dropBell off
  else d.dropBell off

/-! ## BAR 4 (R260) -/

/-- The partition in whose share an address lies, outside its reserve and its ingest scratch, with its export policy in force
(R260, R383). -/
def Dev.bar4Part (d : Dev) (a : Nat) : Option Nat :=
  (List.range 16).find? fun p => decide (a < rimTop ∧ a < d.goodEnd p a) && d.flag (rCusPol p) 63

/-- A BAR 4 access is served: not after a device-fatal error (Table 00-8). -/
def Dev.bar4Served (d : Dev) (a n : Nat) : Bool := !d.flag rHqDevstat 30 && (List.range n).all fun i => (d.bar4Part (a + i)).isSome

/-- A read would meet an uncorrectable granule. -/
def Dev.bar4Ue (d : Dev) (a n : Nat) : Bool := (rimGranules a n).any fun g => (d.isUe g).isSome

/-- How the device answers a BAR 4 read: Unsupported Request, Completer Abort, or the bytes. -/
inductive Bar4Answer where
  | unsupported
  | abort
  | bytes (b : List Byte)
deriving DecidableEq, Repr

/-- The answer carries data. -/
def Bar4Answer.bytesSent : Bar4Answer → Bool
  | .bytes _ => true
  | _ => false

/-- The answer to a BAR 4 read (R174, R260). -/
def Dev.bar4Read (d : Dev) (o : Bar4Op) : Bar4Answer :=
  let a := d.reg rHqBar4Base + o.off.toNat
  if !d.bar4Served a o.len then .unsupported
  else if d.bar4Ue a o.len then .abort
  else .bytes (d.rim.read a o.len)

/-- The answer to a configuration request: whether it is Request Retry Status (R257). -/
def Dev.configRetry (d : Dev) : Bool := !d.flag rHqDevstat 31

/-! ## Rows of the interface -/

/-- SQ_TAIL (R259). -/
def execSqTail (fn : FnN) (w : BellWrite) (st : State) : Host.Outcome State Fault Refusal := st.act fun d => d.bell fn.val w

/-- CQ_HEAD (R259, R277). -/
def execCqHead (fn : FnN) (w : BellWrite) (st : State) : Host.Outcome State Fault Refusal := st.act fun d => d.bell fn.val w

/-- COMMAND_FETCH (R264, R268, R272). -/
def execCommandFetch (entry buf : List Byte) (st : State) : Host.Outcome State Fault Refusal :=
  st.act fun d => if d.hostUp then d.fetchSlot entry buf else d

/-- INTERIM_COMPLETION (R267). -/
def execInterimCompletion (q : QueueN) (cid : BitVec 32) (st : State) : Host.Outcome State Fault Refusal :=
  st.act fun d =>
    match d.hq.fetched.find? fun c => c.q == q.val && c.cid == cid.toNat && !c.interim with
    | some c => d.interim c
    | none => d

/-- MSIX_AGGREGATE_TIMER (R274). -/
def execMsixAggregateTimer (q : QueueN) (st : State) : Host.Outcome State Fault Refusal :=
  st.act fun d =>
    if d.cqOn q.val && (d.queue q.val).unsignalled != 0 && d.fld (rHqVec q.val) 7 0 != 0 then d.signal q.val else d

/-- The bytes that a host access through BAR 4 moves. -/
def bar4Size (o : Bar4Op) : Nat := if o.write then min o.len o.bytes.length else o.len

/-- A host access through BAR 4 at an address: a served write lands, a granule covered in part after its read; what cannot be
read is recorded with the function as the requester, which is the PF, to the partition that holds it (R173, R174, R260). -/
def Dev.bar4 (d : Dev) (base : Nat) (o : Bar4Op) : Dev :=
  let a := base + o.off.toNat
  let n := bar4Size o
  if !d.bar4Served a n then d else
  if d.chanHeld a n then d.hold (.bar4 base o) else
  let bad (d : Dev) (l : List (Nat × Bool)) : Dev :=
    forL l (fun g d => d.record (ueRec (d.bar4Part g.1) g.1 0 0 0 0 g.2)) d
  if o.write then
    let bs := placeBytes a (o.bytes.take n)
    let x := forL (d.mergeGranules bs) (fun g (x : Dev × List (Nat × Bool)) =>
      let y := x.1.readRim 0 g 64
      (y.1, x.2 ++ y.2)) (d, [])
    (bad x.1 x.2).gput (bs.filter fun e => !x.2.any fun g => g.1 == e.1 / 64 * 64)
  else
    let x := d.readRim 0 a n
    bad x.1 x.2

/-- The bytes of a host access through BAR 4 that cross the link (R310). -/
def Dev.countBar4 (d : Dev) (o : Bar4Op) : Dev :=
  if o.write then d.addBytes pcieUnit (bar4Size o) 0
  else if (d.bar4Read o).bytesSent then d.addBytes pcieUnit 0 (bar4Size o) else d

/-- BAR4_ACCESS (R260, R383). -/
def execBar4Access (o : Bar4Op) (st : State) : Host.Outcome State Fault Refusal :=
  st.act fun d => if d.hostUp then (d.countBar4 o).bar4 (d.reg rHqBar4Base) o else d

/-- SR-IOV enables VFs 1 to n (Table 13-14). -/
def Dev.enableVfs (d : Dev) (n : Nat) : Dev := forN 63 (fun i d => d.setFlag (rHqFn (i + 1)) 31 (decide (i + 1 ≤ n))) d

/-- CONFIG_REQUEST (R257): with Retry status it does nothing; else one that writes VF Enable leaves that many VFs enabled, and
any other changes nothing that the device holds. -/
def execConfigRequest (vfs : Option FnN) (st : State) : Host.Outcome State Fault Refusal :=
  st.act fun d => match vfs with
    | some n => if d.configRetry then d else d.enableVfs n.val
    | none => d

/-- FLR (R256): the function's queues are disabled, unfetched commands are discarded, and fetched ones complete
nowhere. -/
def execFlr (fn : FnN) (st : State) : Host.Outcome State Fault Refusal :=
  st.act fun d =>
    let mine (q : Nat) : Bool := d.fld (rHqCq q) 5 0 == fn.val
    let qs := ((d.hq.queues.map Prod.fst) ++ d.hq.fetched.map FetchedCmd.q).eraseDups.filter mine
    let d := forL qs (fun q (d : Dev) =>
      ((d.setFlag (rHqSq q) 4 false).setFlag (rHqVec q) 20 false).setQueue q { QueueSt.off with closing := (d.queue q).closing }) d
    let d := { d with hq := { d.hq with fetched := d.hq.fetched.map fun c => if qs.contains c.q then { c with mute := true } else c } }
    forL qs (fun q (d : Dev) => d.tryClose q) d

/-! ## Commands (Table 13-7) -/

/-- QUEUE_CREATE (R389): queue, function, class, SQ base and size, CQ base and size, vector, AGGN, AGGT. -/
def execQueueCreate (q : QueueN) (st : State) : Host.Outcome State Fault Refusal :=
  st.act fun d => d.cmd q 0x001 [.num 2, .num 1, .num 1, .num 8, .num 1, .num 8, .num 1, .num 2, .num 1, .num 1]
    (fun ps => firstBad [(decide (ps.at 0 = 0 ∨ 16384 ≤ ps.at 0), 0), (decide (63 < ps.at 1), 1), (decide (3 < ps.at 2), 2),
      (ps.at 3 % 4096 != 0, 3), (decide (ps.at 4 < 4 ∨ 16 < ps.at 4), 4), (ps.at 5 % 4096 != 0, 5),
      (decide (ps.at 6 < 4 ∨ 16 < ps.at 6), 6), (decide (vecLimit (ps.at 1) ≤ ps.at 7), 7)])
    fun c ps d =>
      let n := ps.at 0
      if c.part = 0xFF ∧ ps.at 1 ≠ 0 then d.param c 1
      else if d.queueOn n then d.fail c 0x4
      else
        let d := d.setQueue n QueueSt.off
        let d := d.writeCq n (ps.at 5 + ps.at 6 * 2 ^ 7 + b2n (c.part == 0xFF) * 2 ^ 6 + ps.at 1)
        let sq := ps.at 3 + ps.at 4 * 2 ^ 7 + ps.at 2 * 2 ^ 5 + c.part % 16
        let vec := ps.at 7 * 2 ^ 21 + ps.at 8 * 2 ^ 8 + ps.at 9
        let d := (d.writeSq n sq).writeVec n vec
        ((d.writeSq n (sq + 2 ^ 4)).writeVec n (vec + 2 ^ 20)).done c

/-- The queue is the event queue of the device or of a partition. -/
def Dev.isEventQueue (d : Dev) (n : Nat) : Bool :=
  (d.flag rHqEvqDev 31 && d.fld rHqEvqDev 13 0 == n) ||
    (List.range 16).any fun p => d.flag (rHqPartEvq p) 31 && d.fld (rHqPartEvq p) 13 0 == n

/-- Number of submitted commands of a queue that have not been fetched. -/
def Dev.unfetched (d : Dev) (n : Nat) : Nat :=
  let x := d.queue n
  if d.sqOn n then (x.tail + d.sqSize n - x.head) % d.sqSize n else 0

/-- QUEUE_DELETE (R277). The identifiers of the unfetched commands stand in host memory: they are free values (log 5). -/
def execQueueDelete (q : QueueN) (st : State) : Host.Outcome State Fault Refusal :=
  st.act fun d => d.cmd q 0x002 [.num 2] (fun ps => firstBad [(decide (16384 ≤ ps.at 0), 0)])
    fun c ps d =>
      let n := ps.at 0
      if n = 0 ∨ d.queueOn n = false then d.param c 0
      else if d.isEventQueue n then d.fail c 0x4
      else
        let k := d.unfetched n
        let part := d.fld (rHqSq n) 3 0
        let d := d.setFlag (rHqSq n) 4 false
        let d := forN k (fun _ (d : Dev) =>
          let x := d.queue n
          let head := (x.head + 1) % d.sqSize n
          let cid := d.takeFree
          let d := cid.2.setQueue n { x with head }
          d.pushCqe n (cqeBytes cid.1 head (if d.devQueue n then 0xFF else part) 0 (some clsRequest) 0x8 0) true) d
        (d.setQueue n { d.queue n with closing := some c.seq }).tryClose n

/-- QUEUE_ARB (R272): W0 to W3 and BURST, commands per turn. -/
def execQueueArb (q : QueueN) (st : State) : Host.Outcome State Fault Refusal :=
  st.act fun d => d.cmd q 0x003 [.num 1, .num 1, .num 1, .num 1, .num 1]
    (fun ps => firstBad ((List.range 4).map (fun k => (decide (ps.at k = 0 ∨ 15 < ps.at k), k)) ++
      [(decide (ps.at 4 = 0 ∨ 4 < ps.at 4), 4)]))
    fun c ps d =>
      let v := (ps.at 4 - 1) * 2 ^ 16 + ps.at 3 * 2 ^ 12 + ps.at 2 * 2 ^ 8 + ps.at 1 * 2 ^ 4 + ps.at 0
      if d.flag rHqLock 0 then d.locked c rHqArb
      else if !arbOk v then d.param c 4
      else (d.writeArb v).done c

/-- EVQ_SET (R389). -/
def execEvqSet (q : QueueN) (st : State) : Host.Outcome State Fault Refusal :=
  st.act fun d => d.cmd q 0x004 [.num 2] (fun ps => firstBad [(decide (16384 ≤ ps.at 0), 0)])
    fun c ps d =>
      if d.sqOn (ps.at 0) then d.param c 0
      else (d.setReg (if c.part = 0xFF then rHqEvqDev else rHqPartEvq (c.part % 16)) (2 ^ 31 + ps.at 0)).done c

/-- VF_SET (R256): VF and admin queue; PART cannot change while SR-IOV has the VF enabled. -/
def execVfSet (q : QueueN) (st : State) : Host.Outcome State Fault Refusal :=
  st.act fun d => d.cmd q 0x005 [.num 1, .num 2]
    (fun ps => firstBad [(decide (ps.at 0 = 0 ∨ 63 < ps.at 0), 0), (decide (16384 ≤ ps.at 1), 1)])
    fun c ps d => d.onPart c fun d =>
      let off := rHqFn (ps.at 0)
      if d.flag off 31 then d.fail c 0x4
      else (d.setReg off (c.part * 2 ^ 20 + 2 ^ 19 + ps.at 1)).done c

/-- IDENTIFY (R275): RESULT returns GLB_ID and HQ_CAP. -/
def execIdentify (q : QueueN) (st : State) : Host.Outcome State Fault Refusal :=
  st.act fun d => d.cmd q 0x006 [] noBad fun c _ d => d.done c (d.reg rGlbId + d.reg rHqCap * 2 ^ 64)

end Sys2Proof.Machine
end

