-- ==== Sys2Proof/Machine/Pmu.lean ====
section
/-! DEFINITION. Performance monitoring: profiles, sampling, bandwidth windows and snapshots (16_pmu.md, R306 to R316). -/

namespace Sys2Proof.Machine

/-! ## Access (R307) -/

/-- Whether function fn may write a counter slot. -/
def Dev.mayWriteSlot (d : Dev) (fn : Nat) (s : PmuSlot) : Bool :=
  if fn = 0 then true else
  match d.vfPart fn with
  | none => false
  | some p => match s with
    | .facet f _ => d.holds p (f.val / 16) && d.mates p == [p]
    | .sector g _ => d.holds p g.val && d.mates p == [p]
    | .port n _ => d.portPart n.val == some p
    | _ => false

/-- A counter slot that belongs to another partition than p, which reads 0 to the VF of p (R307). -/
def Dev.foreignSlot (d : Dev) (p : Nat) (s : PmuSlot) : Bool :=
  let other (g : Nat) : Bool := !d.holds p g && (List.range 16).any fun q => d.partValid q && d.holds q g
  match s with
  | .facet f _ => other (f.val / 16)
  | .sector g _ => other g.val
  | .port n _ => match d.portPart n.val with | some q => q != p | none => false
  | _ => false

/-- The slot of a set, an instance and a number; memory channels are numbered x * 32 + c. -/
def slotOf (set inst k : Nat) : Option PmuSlot :=
  match set with
  | 0 => if inst < 256 ∧ k < 8 then some (.facet (Fin.ofNat 256 inst) (Fin.ofNat 8 k)) else none
  | 1 => if inst < 16 ∧ k < 4 then some (.sector (Fin.ofNat 16 inst) (Fin.ofNat 4 k)) else none
  | 2 => if inst < 256 ∧ k < 2 then some (.memory (Fin.ofNat 8 (inst / 32)) (Fin.ofNat 32 inst) (Fin.ofNat 2 k)) else none
  | 3 => if inst < 48 ∧ k < 4 then some (.port (Fin.ofNat 48 inst) (Fin.ofNat 4 k)) else none
  | _ => if inst < 6 ∧ k < 4 then some (.ingest (Fin.ofNat 6 inst) (Fin.ofNat 4 k)) else none

/-- The function that owns a command's queue. -/
def Dev.fnOfCmd (d : Dev) (c : FetchedCmd) : Nat := d.fld (rHqCq c.q) 5 0

/-! ## Commands (Table 16-5) -/

/-- Set, events and qualifiers of a profile: TENSOR, STALLS, MEMORY, NETWORK, INGEST. -/
def profileOf (k : Nat) : Nat × List (Nat × Nat) :=
  match k with
  | 0 => (0, [(2, 0), (3, 0), (4, 1), (5, 0), (6, 0), (8, 0x1F), (9, 3), (0xB, 0x1F)])
  | 1 => (1, [(2, 0), (3, 0), (8, 0), (0xA, 0)])
  | 2 => (2, [(2, 0), (5, 0)])
  | 3 => (3, [(3, 0), (5, 0), (6, 0), (0xA, 0)])
  | _ => (4, [(2, 0), (3, 0), (4, 0), (6, 0)])

/-- PMU_PROFILE: profile (0 TENSOR, 1 STALLS, 2 MEMORY, 3 NETWORK, 4 INGEST), instances, partition filter (0xFF none). -/
def execPmuProfile (q : QueueN) (st : State) : Host.Outcome State Fault Refusal :=
  st.act fun d => d.cmd q 0x901 [.num 1, .list [2], .num 1]
    (fun ps => firstBad [(decide (4 < ps.at 0), 0), (decide (15 < ps.at 1) && ps.at 1 != 0xFF, 2)])
    fun c ps d =>
      let pr := profileOf (ps.at 0)
      let filter := if ps.at 1 = 0xFF then 0 else 2 ^ 29 + ps.at 1 * 2 ^ 24
      let slots := (ps.lst 0).flatMap fun e => (List.range pr.2.length).map fun k => (slotOf pr.1 (e.getD 0 0) k, pr.2.getD k (0, 0))
      if slots.any (fun s => s.1.isNone) then d.param c 1
      else if slots.any (fun s => s.1.any fun x => !d.mayWriteSlot (d.fnOfCmd c) x) then d.fail c 0x2
      else
        (forL slots (fun s (d : Dev) =>
          match s.1 with
          | none => d
          | some x => (d.setReg (ctrBase x) (2 ^ 31 + filter + s.2.2 * 2 ^ 8 + s.2.1)).setReg (ctrBase x + 8) 0) d).done c

/-- PMU_SAMPLE: slots (set 0 facet or 1 sector, instance, slot), EVT, SUB, period, ring base and log2 entries, vector. -/
def execPmuSample (q : QueueN) (st : State) : Host.Outcome State Fault Refusal :=
  st.act fun d => d.cmd q 0x902 [.list [1, 1, 1], .num 1, .num 1, .num 8, .num 8, .num 1, .num 2]
    (fun ps => firstBad [(decide (ps.at 2 = 0 ∨ 2 ^ 48 < ps.at 2), 3), (ps.at 3 % 4096 != 0 || decide (2 ^ 48 ≤ ps.at 3), 4),
      (decide (ps.at 4 < 4 ∨ 20 < ps.at 4), 5), (decide (2047 < ps.at 5), 6)])
    fun c ps d => d.onPart c fun d =>
      let p := c.part
      let slots := (ps.lst 0).map fun e => if e.getD 0 0 < 2 then slotOf (e.getD 0 0) (e.getD 1 0) (e.getD 2 0) else none
      if slots.any (fun s => s.isNone) then d.param c 0
      else if slots.any (fun s => s.any fun x => !d.mayWriteSlot (d.fnOfCmd c) x) then d.fail c 0x2
      else
        let from_ := (2 ^ 48 - ps.at 2) % 2 ^ 48
        let d := forL slots (fun s (d : Dev) =>
          match s with
          | none => d
          | some x =>
            ((d.setReg (ctrBase x) (2 ^ 31 + 2 ^ 30 + ps.at 1 * 2 ^ 8 + ps.at 0)).setReg (ctrBase x + 8) from_).setReg (ctrBase x + 0x18) from_) d
        let d := (d.setReg (rPmuSrBase p) (ps.at 3)).setReg (rPmuSrCfg p) (2 ^ 31 + ps.at 5 * 2 ^ 20 + ps.at 4)
        ((d.setReg (rPmuSrHead p) 0).setReg (rPmuSrTail p) 0).done c

/-- A write of PMU_BW_n_CFG (R310): WIN_US keeps its value while EN = 1; CLRPEAK clears the peaks. -/
def Dev.writeBw (d : Dev) (n v : Nat) : Dev :=
  let old := d.reg (rPmuBw n)
  let win := if bit old 31 then bits old 19 0 else bits v 19 0
  let d := d.setReg (rPmuBw n) (b2n (bit v 31) * 2 ^ 31 + win)
  let d := if bit v 31 && !bit old 31 then { d with sys := { d.sys with bw := alClear d.sys.bw (n * 4) (n * 4 + 4) } } else d
  if bit v 30 then (d.setReg (rPmuBw n + 0x18) 0).setReg (rPmuBw n + 0x20) 0 else d

/-- PMU_BW: units, WIN_US. -/
def execPmuBw (q : QueueN) (st : State) : Host.Outcome State Fault Refusal :=
  st.act fun d => d.cmd q 0x903 [.list [1], .num 4] (fun ps => firstBad [(decide (ps.at 0 = 0 ∨ 1000000 < ps.at 0), 1)])
    fun c ps d =>
      let us := (ps.lst 0).map fun e => e.getD 0 0
      if us.any (fun n => decide (48 < n)) then d.param c 0
      else (forL us (fun n (d : Dev) => d.writeBw n (2 ^ 31 + 2 ^ 30 + ps.at 0)) d).done c

/-- A window of unit n ends: the counts are latched as window `idx`; the first window after EN starts the counting. -/
def Dev.endWindow (d : Dev) (n idx : Nat) : Dev :=
  let a := rPmuBw n
  if !d.flag a 31 then d else
  let started := d.sys.bw.get (n * 4 + 2) != 0
  let rx := d.sys.bw.get (n * 4)
  let tx := d.sys.bw.get (n * 4 + 1)
  let bw := ((d.sys.bw.set (n * 4) 0).set (n * 4 + 1) 0).set (n * 4 + 2) 1
  let d := { d with sys := { d.sys with bw } }
  if !started then d else
  let d := (d.setReg (a + 0x8) rx).setReg (a + 0x10) tx
  let d := (d.setReg (a + 0x18) (max (d.reg (a + 0x18)) rx)).setReg (a + 0x20) (max (d.reg (a + 0x20)) tx)
  d.setReg (a + 0x28) idx

/-- Nanoseconds of a window of unit n. -/
def Dev.winNs (d : Dev) (n : Nat) : Nat := d.fld (rPmuBw n) 19 0 * 1000

/-- BW_WINDOW_END (R310): the window before the one that begins now ends. -/
def execBwWindowEnd (n : Fin 49) (st : State) : Host.Outcome State Fault Refusal :=
  st.act fun d => d.endWindow n.val (d.now / d.winNs n.val - 1)

/-! ## Snapshots (R313, R314) -/

/-- A write of PMU_SNAP_AT: a time that is not in the future, or one while an armed time has passed, is ignored and sets LATE. -/
def Dev.armSnapshot (d : Dev) (t : Nat) : Dev :=
  if t ≤ d.now ∨ (d.flag rPmuSnapStat 31 ∧ d.reg rPmuSnapAt ≤ d.now) then d.setFlag rPmuSnapStat 30 true
  else (d.setReg rPmuSnapAt t).setFlag rPmuSnapStat 31 true

/-- A host write of PMU_SNAP_AT: held while a PMU_SNAPSHOT command has not completed (R9). -/
def Dev.writeSnapAt (d : Dev) (t : Nat) : Dev :=
  if d.sys.snapCmd.isSome then { d with sys := { d.sys with snapHeld := d.sys.snapHeld ++ [t] } } else d.armSnapshot t

/-- PMU_SNAP_AT (R313, R314). -/
def execPmuSnapAt (t : BitVec 64) (st : State) : Host.Outcome State Fault Refusal := st.act fun d => d.writeSnapAt t.toNat

/-- PMU_SNAPSHOT: lead time in µs, host buffer or 0. It completes after the copy. -/
def execPmuSnapshot (q : QueueN) (st : State) : Host.Outcome State Fault Refusal :=
  st.act fun d => d.cmd q 0x904 [.num 4, .num 8] (fun ps => firstBad [(decide (ps.at 0 < 10 ∨ 1000000 < ps.at 0), 0)])
    fun c ps d =>
      if d.sys.snapCmd.isSome then d.fail c 0x4 else
      let d := d.armSnapshot (d.now + ps.at 0 * 1000)
      { d with sys := { d.sys with snapCmd := some c.seq } }

/-- Every slot copies CNT into SHD. -/
def Dev.copySlots (d : Dev) : Dev :=
  let at_ (k : Nat) (e : Nat × Nat) : Bool := decide (0x3100000 ≤ e.1 ∧ e.1 < 0x3160000) && e.1 % 0x20 == k
  let cnts := d.regs.filter (at_ 8)
  let d := forL (d.regs.filter (at_ 0x10)) (fun e (d : Dev) => d.setReg e.1 0) d
  forL cnts (fun e (d : Dev) => d.setReg (e.1 + 8) e.2) d

/-- Every counter slot, in offset order. -/
def allSlots : List PmuSlot :=
  let set (k n slots : Nat) : List PmuSlot := (List.range n).flatMap fun i => (List.range slots).filterMap fun j => slotOf k i j
  set 0 256 8 ++ set 1 16 4 ++ set 2 256 2 ++ set 3 48 4 ++ set 4 6 4

/-- The bytes that PMU_SNAPSHOT's buffer receives: the SHD of every slot that function fn reads, in offset order (R307). -/
def Dev.shadowBytes (d : Dev) (fn : Nat) : List Byte :=
  let readable (s : PmuSlot) : Bool :=
    fn == 0 || (match d.vfPart fn with | some p => !d.foreignSlot p s | none => false)
  (allSlots.filter readable).flatMap fun s => leBytes 8 (d.reg (ctrBase s + 0x10))

/-- SNAPSHOT_FIRE (R313): the time base has reached T. -/
def execSnapshotFire (st : State) : Host.Outcome State Fault Refusal :=
  st.act fun d =>
    if !d.flag rPmuSnapStat 31 then d else
    let d := d.copySlots
    let n := (d.fld rPmuSnapStat 63 32 + 1) % 2 ^ 32
    let d := (d.setFld rPmuSnapStat 63 32 n).setFlag rPmuSnapStat 31 false
    match d.sys.snapCmd with
    | none => d
    | some s =>
      let d := { d with sys := { d.sys with snapCmd := none } }
      let l := d.sys.snapHeld
      let d := match d.fetchedCmd s with
        | none => d
        | some c =>
          let buf := (c.params [.num 4, .num 8]).at 1
          let d := if buf = 0 then d else { d with hostMem := d.hostMem.write buf (d.shadowBytes (d.fnOfCmd c)) }
          d.done c (n + d.reg rPmuSnapAt * 2 ^ 64)
      forL l (fun t d => d.armSnapshot t) { d with sys := { d.sys with snapHeld := [] } }

/-! ## Control, samples (R308, R311, R312) -/

/-- FREEZE (R308). -/
def execFreeze (on : Bool) (st : State) : Host.Outcome State Fault Refusal := st.act fun d => d.setFlag rPmuCtrl 31 on

/-- Every COUNT and OVF is 0. -/
def Dev.clearSlots (d : Dev) : Dev :=
  { d with regs := d.regs.filter fun e => !(decide (0x3100000 ≤ e.1 ∧ e.1 < 0x3160000) && e.1 % 0x20 == 8) }

/-- CLEAR (R308). -/
def execClearCounts (st : State) : Host.Outcome State Fault Refusal := st.act fun d => d.clearSlots

/-- COUNTER_WRAP_SAMPLE (R311): a sampling slot wraps by `excess` beyond 2^48. -/
def execCounterWrapSample (s : PmuSlot) (excess : Nat) (st : State) : Host.Outcome State Fault Refusal :=
  st.act fun d =>
    let a := ctrBase s
    if !d.flag a 31 || !d.flag a 30 then d
    else (d.setReg (a + 8) (2 ^ 63 + (d.fld (a + 0x18) 47 0 + excess) % 2 ^ 48)).captureSample s

/-- SET and UNIT of a sampling slot, and its number (Table 16-3). -/
def sampleUnit : PmuSlot → Nat × Nat × Nat
  | .facet f k => (0, k.val, f.val)
  | .sector g k => (1, k.val, g.val)
  | _ => (0, 0, 0)

/-- A sample record (Table 16-3) delivered by a context at a time. -/
def Dev.sampleRecord (d : Dev) (s : PmuSample) : List Byte :=
  let u := sampleUnit s.slot
  let x := d.ctx s.h s.n
  let stop := x.state != .running || x.saveStop
  leBytes 1 3 ++ leBytes 1 u.1 ++ leBytes 1 u.2.1 ++ leBytes 1 u.2.2 ++ leBytes 2 (s.bidx % 2 ^ 13 + s.n * 2 ^ 13) ++
    leBytes 2 (x.bidx % 2 ^ 13) ++ leBytes 8 s.icount ++ leBytes 1 (min 8 (x.icount - s.icount)) ++
    leBytes 1 (d.fld (ctrBase s.slot) 7 0) ++ leBytes 1 (b2n stop) ++ List.replicate 5 0 ++ leBytes 8 d.now

/-- SAMPLE_DELIVERY (R311, R312): the sample becomes a record of its partition's ring, or counts in DROP. -/
def execSampleDelivery (s : PmuSlot) (st : State) : Host.Outcome State Fault Refusal :=
  st.act fun d =>
    match d.samples.find? fun y => y.slot == s with
    | none => d
    | some y =>
      let d' := { d with samples := d.samples.filter fun z => z.slot != s }
      if d.flag (rPmuSrCfg y.part) 31 then
        { d' with smpRing := alSet [] d.smpRing y.part (alGet [] d.smpRing y.part ++ [d.sampleRecord y]) }
      else d'.bump (rPmuSrDrop y.part)

/-- SAMPLE_RECORD_LAND (R312): the oldest record lands, or is dropped when the ring is full, and SVEC is signalled. -/
def execSampleRecordLand (p : PartN) (st : State) : Host.Outcome State Fault Refusal :=
  st.act fun d =>
    let p := p.val
    match alGet [] d.smpRing p with
    | [] => d
    | rec :: rs =>
      let d := { d with smpRing := alSet [] d.smpRing p rs }
      let head := d.reg (rPmuSrHead p)
      let n := 2 ^ d.fld (rPmuSrCfg p) 4 0
      if diff32 head (d.reg (rPmuSrTail p)) = n then d.bump (rPmuSrDrop p)
      else
        let d := (d.rimPut (placeBytes (d.reg (rPmuSrBase p) + head % n * 32) rec)).setReg (rPmuSrHead p) ((head + 1) % 2 ^ 32)
        d.signalVec (d.fnOf p) (d.fld (rPmuSrCfg p) 30 20)

end Sys2Proof.Machine
end

