-- ==== Sys2Proof/Machine/Clocks.lean ====
section
/-! DEFINITION. Clocks: references, PLLs, gates, the tensor clock and the device time base (18_clocks.md, R325 to R337). -/

namespace Sys2Proof.Machine

/-! ## PLLs (Table 18-2) -/

/-- The reference of a PLL: 0 REFCLK_25, 1 PCIE_REFCLK, 2 and 3 the SerDes references. -/
def pllRef (n : Nat) : Nat := if n = 8 then 2 else if n = 9 then 3 else if n = 10 then 1 else 0

/-- Output frequency in MHz that PLL n is to have. A TPLL is judged at the step it stands at. -/
def Dev.pllTarget (d : Dev) (n : Nat) : Nat :=
  match n with
  | 0 => if d.fld (rClkPll 0) 15 0 = 0 then 600 else d.fld (rClkPll 0) 15 0
  | 1 => if d.fld (rClkPll 1) 15 0 = 0 then 600 else d.fld (rClkPll 1) 15 0
  | 2 => 2800
  | 3 => 2000
  | 4 => 1350
  | 5 => 1200
  | 6 => 1000
  | 7 => 1000
  | 11 => 500
  | 12 => 1000
  | n => Config.laneMhz n % 2 ^ 16

/-- Coast frequency in MHz; none where the table gives no figure. -/
def coastMhz (n : Nat) : Option Nat :=
  match n with
  | 0 => some 600
  | 1 => some 600
  | 2 => some 1400
  | 3 => some 1000
  | 4 => some 675
  | 5 => some 600
  | 6 => some 500
  | 7 => some 500
  | 11 => some 250
  | 12 => some 500
  | _ => none

/-- The frequency at which a PLL coasts: free within ±10 % of its coast frequency, and free for a SerDes PLL (R325;
log 5). -/
def Dev.coastFreq (d : Dev) (n : Nat) : Nat × Dev :=
  let f := d.takeFree
  match coastMhz n with
  | some m => (m - m / 10 + f.1 % (m / 10 * 2 + 1), f.2)
  | none => (f.1 % 2 ^ 16, f.2)

/-- PLL n locks at its target; the time base is valid from the first lock of TBPLL (R333). -/
def Dev.pllLock (d : Dev) (n : Nat) : Dev :=
  let d := (((d.setFlag (rClkPll n) 31 true).setFlag (rClkPll n) 30 false).setFld (rClkPll n) 15 0 (d.pllTarget n))
  let d := { d with sys := { d.sys with relocks := d.sys.relocks.set n 0 } }
  if n = 12 then d.setFlag rClkTbStat 29 true else d

/-- PLL n runs open-loop; `why` is the bit set, 29 REF_LOST or 28 LOCK_LOST (R328). -/
def Dev.pllCoast (d : Dev) (n why : Nat) : Dev :=
  let f := d.coastFreq n
  let d := f.2
  let d := { d with sys := { d.sys with pllWindows := d.sys.pllWindows.set n 0 } }
  (((d.setFlag (rClkPll n) 31 false).setFlag (rClkPll n) 30 true).setFlag (rClkPll n) why true).setFld (rClkPll n) 15 0 f.1

/-- A locked PLL loses its lock while its reference is qualified: it coasts, and a relock is attempted (Table 18-3). -/
def Dev.lockLost (d : Dev) (n : Nat) : Dev :=
  if !d.flag (rClkPll n) 31 || !d.flag (rClkRef (pllRef n)) 31 then d else
  let d := d.pllCoast n 28
  let d := { d with sys := { d.sys with relocks := d.sys.relocks.set n 1 } }
  d.record { part := none, cls := clsCorrected, cause := 0x402, block := 2, unit := n, det := detail 0 0 0 0 n }

/-- A reference is qualified. -/
def Dev.refQual (d : Dev) (r : Nat) : Dev := (d.setFlag (rClkRef r) 31 true).setFlag (rClkRef r) 29 true

/-- A qualified reference is lost: its PLLs coast, and the governor acts as Table 18-3 gives. `amp` says whether its amplitude
is still present. One lost again before it has requalified restarts its qualification (R329). -/
def Dev.refLost (d : Dev) (r : Nat) (amp : Bool) : Dev :=
  if !d.flag (rClkRef r) 31 then
    ({ d with sys := { d.sys with refWindows := d.sys.refWindows.set r 0 } } : Dev).setFlag (rClkRef r) 29 amp
  else
  let d := ((d.setFlag (rClkRef r) 31 false).setFlag (rClkRef r) 30 true).setFlag (rClkRef r) 29 amp
  let d := { d with sys := { d.sys with refWindows := d.sys.refWindows.set r 0 } }
  let d := forL ((List.range 13).filter fun n => pllRef n == r) (fun n (d : Dev) => d.pllCoast n 29) d
  let rec_ (cls : Nat) (d : Dev) : Dev :=
    d.record { part := none, cls, cause := 0x400, block := 2, unit := r, det := detail 0 0 0 0 r }
  match r with
  | 0 => rec_ clsDevice (d.setFlag rClkTbStat 29 false)
  | 1 => rec_ clsDevice (d.setReg rHqLink 0)
  | _ => rec_ clsCorrected (forN 24 (fun k (d : Dev) => d.portDown ((r - 2) * 24 + k) 5) d)

/-! ## Qualification and lock (R326, R327) -/

/-- REFCLK25_QUALIFY (R326). -/
def execRefclk25Qualify (st : State) : Host.Outcome State Fault Refusal :=
  st.act fun d => if d.flag (rClkRef 0) 31 then d else d.refQual 0

/-- Nominal count of a reference in 25,000 cycles of REFCLK_25. -/
def refNominal (r : Nat) : Nat := if r = 1 then 100000 else 156250

/-- REF_WINDOW (R327): within ±300 ppm twice in a row qualifies a reference; outside, a qualified one is lost. -/
def execRefWindow (r : Fin 4) (count : Nat) (st : State) : Host.Outcome State Fault Refusal :=
  st.act fun d =>
    let r := r.val
    if r = 0 ∨ !d.flag (rClkRef 0) 31 then d else
    let nom := refNominal r
    let off : Int := (count : Int) - nom
    let d := d.setFld (rClkRef r) 15 0 (ofSigned 16 (Int.tdiv (off * 10000000) nom))
    if off.natAbs * 1000000 ≤ 300 * nom then
      let d := d.setFlag (rClkRef r) 29 true
      if d.flag (rClkRef r) 31 then d
      else if d.sys.refWindows.get r = 0 then { d with sys := { d.sys with refWindows := d.sys.refWindows.set r 1 } }
      else ({ d with sys := { d.sys with refWindows := d.sys.refWindows.set r 0 } } : Dev).refQual r
    else
      let d := { d with sys := { d.sys with refWindows := d.sys.refWindows.set r 0 } }
      d.refLost r (count != 0)

/-- A TPLL step is under way. -/
def Dev.stepping (d : Dev) (n : Nat) : Bool :=
  decide (n < 2) && d.flag (rClkPll n) 31 && d.fld (rClkPll n) 15 0 != d.fld (rClkTpll n) 10 0

/-- PLL_LOCK_WINDOW (R327, R329): a count within ±0.5 % of the target twice in a row locks a PLL; outside, a locked one loses
its lock. Windows that overlap a TPLL step are not judged. -/
def execPllLockWindow (n : Fin 13) (count : Nat) (st : State) : Host.Outcome State Fault Refusal :=
  st.act fun d =>
    let n := n.val
    if !d.flag (rClkRef 0) 31 || !d.flag (rClkRef (pllRef n)) 31 || d.stepping n then d else
    let f := if d.flag (rClkPll n) 31 then d.pllTarget n else if n < 2 then 600 else d.pllTarget n
    let off : Int := 25 * (count : Int) - 4096 * f
    if off.natAbs * 1000 ≤ 5 * 4096 * f then
      if d.flag (rClkPll n) 31 then d
      else if d.sys.pllWindows.get n = 0 then { d with sys := { d.sys with pllWindows := d.sys.pllWindows.set n 1 } }
      else
        let d := { d with sys := { d.sys with pllWindows := d.sys.pllWindows.set n 0 } }
        (if n < 2 then d.setFld (rClkPll n) 15 0 600 else d).pllLock n
    else if d.flag (rClkPll n) 31 then d.lockLost n
    else { d with sys := { d.sys with pllWindows := d.sys.pllWindows.set n 0 } }

/-- CLK_REF (R328): a reference shows no edge. -/
def execClkRef (r : Fin 4) (st : State) : Host.Outcome State Fault Refusal := st.act fun d => d.refLost r.val false

/-- CLK_COAST (R328): a PLL loses its lock while its reference is qualified. -/
def execClkCoast (n : Fin 13) (st : State) : Host.Outcome State Fault Refusal := st.act fun d => d.lockLost n.val

/-- CLK_LOCK (R328): the third relock attempt fails. -/
def execClkLock (n : Fin 13) (st : State) : Host.Outcome State Fault Refusal :=
  st.act fun d =>
    if d.sys.relocks.get n.val = 0 then d else
    let d := { d with sys := { d.sys with relocks := d.sys.relocks.set n.val 0 } }
    d.record { part := none, cls := clsDevice, cause := 0x401, block := 2, unit := n.val, det := detail 0 0 0 0 n.val }

/-! ## Gates (R331) -/

/-- CLK_GATE_OFF. -/
def execClkGateOff (mask : BitVec 128) (st : State) : Host.Outcome State Fault Refusal := st.act fun d => d.gatesOff mask.toNat

/-- CLK_GATE_ON. -/
def execClkGateOn (mask : BitVec 128) (st : State) : Host.Outcome State Fault Refusal := st.act fun d => d.gatesOn mask.toNat

/-- CLK_GATE: a list of gates, on (1) or off (0). RESULT is CLK_GATE_REF. -/
def execClkGate (q : QueueN) (st : State) : Host.Outcome State Fault Refusal :=
  st.act fun d => d.cmd q 0xA06 [.list [1], .num 1]
    (fun ps => firstBad [((ps.lst 0).any fun e => decide (99 < e.getD 0 0), 0), (decide (1 < ps.at 0), 1)]) fun c ps d =>
      let mask := (ps.lst 0).foldl (fun m e => Nat.lor m (2 ^ e.getD 0 0)) 0
      let d := if ps.at 0 = 1 then d.gatesOn mask else d.gatesOff mask
      d.done c (d.reg rClkGateRef)

/-! ## The tensor clock (R336) -/

/-- FMAX may be written: 600 to 1,500 in steps of 25 (R337). -/
def fmaxOk (v : Nat) : Bool := decide (600 ≤ v ∧ v ≤ 1500) && v % 25 == 0

/-- A write of FMAX: TARGET never stands above it. -/
def Dev.writeFmax (d : Dev) (h v : Nat) : Dev :=
  if !fmaxOk v || d.flag rClkLock 0 then d else
  let d := d.setFld (rClkTpll h) 26 16 v
  d.setFld (rClkTpll h) 10 0 (min v (d.fld (rClkTpll h) 10 0))

/-- TPLL_STEP: a step of 25 MHz towards TARGET settles. A coasting TPLL keeps TARGET and resumes after relock (R329). -/
def execTpllStep (h : Hemi) (st : State) : Host.Outcome State Fault Refusal :=
  st.act fun d =>
    let h := h.val
    let f := d.fld (rClkPll h) 15 0
    let t := d.fld (rClkTpll h) 10 0
    if !d.flag (rClkPll h) 31 then d
    else if f < t then d.setFld (rClkPll h) 15 0 (min t (f + 25))
    else d.setFld (rClkPll h) 15 0 (max t (f - 25))

/-- TCLK_LIMIT: hemisphere, FMAX. -/
def execTclkLimit (q : QueueN) (st : State) : Host.Outcome State Fault Refusal :=
  st.act fun d => d.cmd q 0xA07 [.num 1, .num 2] (fun ps => firstBad [(decide (1 < ps.at 0), 0), (!fmaxOk (ps.at 1), 1)])
    fun c ps d => if d.flag rClkLock 0 then d.locked c (rClkTpll (ps.at 0)) else (d.writeFmax (ps.at 0) (ps.at 1)).done c

/-! ## The device time base (R333, R334) -/

/-- ADJ as a signed number. -/
def Dev.tbAdj (d : Dev) : Int := toSigned 32 (d.reg rClkTbAdj)

/-- ADJ is within ±1,000 ppm. -/
def adjOk (v : Int) : Bool := decide (v.natAbs ≤ 1099511627)

/-- The runtime disciplines the time base (R335). -/
def Dev.ptpOn (d : Dev) : Bool := d.flag rClkPtpCfg 31

/-- STEP_BUSY. -/
def Dev.stepBusy (d : Dev) : Bool := d.flag rClkTbStat 31

/-- The time base advances by n ns. -/
def Dev.addTime (d : Dev) (n : Nat) : Dev := { d with sys := { d.sys with tb := (d.sys.tb + n) % 2 ^ 64 } }

/-- A negative step has been absorbed. -/
def Dev.endStep (d : Dev) : Dev := ({ d with sys := { d.sys with negStep := 0 } } : Dev).setFlag rClkTbStat 31 false

/-- A bandwidth window that a forward step cuts ends at the step (R310, R334). -/
def Dev.cutWindows (d : Dev) (step : Nat) : Dev :=
  forN 49 (fun n (d : Dev) =>
    let w := d.winNs n
    if w = 0 || (d.now + step) / w == d.now / w then d else d.endWindow n (d.now / w)) d

/-- A step of the time base: at once forwards; backwards by 1 ns per two TBPLL cycles, with STEP_BUSY set. One that comes
while STEP_BUSY is set is refused. -/
def Dev.stepTime (d : Dev) (v : Int) : Dev :=
  if d.stepBusy then d.setFlag rClkTbStat 30 true
  else if 0 ≤ v then (d.cutWindows v.toNat).addTime v.toNat
  else ({ d with sys := { d.sys with negStep := 2 * v.natAbs } } : Dev).setFlag rClkTbStat 31 true

/-- A host write of CLK_TB_STEP: ignored while the runtime disciplines the time base. -/
def Dev.writeStep (d : Dev) (v : Nat) : Dev := if d.ptpOn then d else d.stepTime (toSigned 32 v)

/-- A host write of CLK_TB_ADJ: ignored beyond ±1,000 ppm, and while the runtime disciplines the time base. -/
def Dev.writeAdj (d : Dev) (v : Nat) : Dev :=
  if d.ptpOn || !adjOk (toSigned 32 v) then d else d.setReg rClkTbAdj (v % 2 ^ 32)

/-- One TBPLL cycle: 2^40 + ADJ is added to the fractional accumulator, whose carry adds 1 ns; while a negative step is being
absorbed the count advances 1 ns in two cycles. It runs once TBPLL runs. -/
def Dev.tick (d : Dev) : Dev :=
  if !d.flag (rClkPll 12) 31 && !d.flag (rClkPll 12) 30 then d else
  match d.sys.negStep with
  | 0 =>
    let v := ((d.sys.tbFrac : Int) + 2 ^ 40 + d.tbAdj).toNat
    ({ d with sys := { d.sys with tbFrac := v % 2 ^ 40 } } : Dev).addTime (v / 2 ^ 40)
  | k + 1 =>
    let d := ({ d with sys := { d.sys with negStep := k } } : Dev).addTime (if k % 2 = 0 then 1 else 0)
    if k = 0 then d.endStep else d

/-- CLK_TB_STEP (R334). -/
def execClkTbStep (v : BitVec 32) (st : State) : Host.Outcome State Fault Refusal := st.act fun d => d.writeStep v.toNat

/-- CLK_TB_ADJ (R333). -/
def execClkTbAdj (v : BitVec 32) (st : State) : Host.Outcome State Fault Refusal := st.act fun d => d.writeAdj v.toNat

/-- TB_STEP_ABSORBED (R334): the cycles that remain of a negative step pass. -/
def execTbStepAbsorbed (st : State) : Host.Outcome State Fault Refusal :=
  st.act fun d => if d.stepBusy then (d.addTime ((d.sys.negStep + 1) / 2)).endStep else d

/-! ## PTP (R335) -/

/-- A write of CLK_PTP_CFG: a port beyond 47 or a domain beyond 127 keeps its value; with EN the port in use is PORT, and EN
going to 1 starts the count of good intervals. -/
def Dev.writePtp (d : Dev) (v : Nat) : Dev :=
  let old := d.reg rClkPtpCfg
  let port := if bits v 29 24 ≤ 47 then bits v 29 24 else bits old 29 24
  let alt := if bits v 21 16 ≤ 47 then bits v 21 16 else bits old 21 16
  let dom := if bits v 15 8 ≤ 127 then bits v 15 8 else bits old 15 8
  let d := d.setReg rClkPtpCfg (bits v 31 30 * 2 ^ 30 + port * 2 ^ 24 + alt * 2 ^ 16 + dom * 2 ^ 8)
  let d := if bit v 31 && !bit old 31 then { d with sys := { d.sys with ptpGood := 0 } } else d
  if bit v 31 then d.setFld rClkPtpStat 61 56 port else d

/-- PTP_SYNC (R335): a Sync measured an offset in ns on the active port; the runtime steps beyond 1 µs, and otherwise writes
the ADJ that its servo chooses. -/
def execPtpSync (offset adj : Int) (st : State) : Host.Outcome State Fault Refusal :=
  st.act fun d =>
    if !d.ptpOn || !d.linkUp (d.fld rClkPtpStat 61 56) then d else
    let good := if offset.natAbs < 100 then min 16 (d.sys.ptpGood + 1) else 0
    let d := { d with sys := { d.sys with ptpGood := good } }
    let d := (d.setFld rClkPtpStat 31 0 (ofSigned 32 offset)).setFlag rClkPtpStat 63 (good == 16)
    let d := d.setFlag rClkPtpStat 62 false
    if 1000 < offset.natAbs then d.stepTime (-offset)
    else if adjOk adj then d.setReg rClkTbAdj (ofSigned 32 adj) else d

/-- PTP_HOLDOVER (R335): four intervals without a Sync. -/
def execPtpHoldover (st : State) : Host.Outcome State Fault Refusal :=
  st.act fun d =>
    if !d.ptpOn then d else
    let d := d.setFlag rClkPtpStat 62 true
    if d.flag rClkPtpCfg 30 then d.setFld rClkPtpStat 61 56 (d.fld rClkPtpCfg 21 16) else d

/-- TB_CONFIG: PTP on, port, alternate port (0xFF none), domain; with PTP off, ADJ and step. -/
def execTbConfig (q : QueueN) (st : State) : Host.Outcome State Fault Refusal :=
  st.act fun d => d.cmd q 0xA08 [.num 1, .num 1, .num 1, .num 1, .num 4, .num 4]
    (fun ps =>
      let on := ps.at 0 == 1
      firstBad [(decide (1 < ps.at 0), 0), (on && decide (47 < ps.at 1), 1), (on && ps.at 2 != 0xFF && decide (47 < ps.at 2), 2),
        (on && decide (127 < ps.at 3), 3), (!on && !adjOk (toSigned 32 (ps.at 4)), 4)])
    fun c ps d =>
      if ps.at 0 = 1 then
        let alt := if ps.at 2 = 0xFF then 0 else 2 ^ 30 + ps.at 2 * 2 ^ 16
        (d.writePtp (2 ^ 31 + alt + ps.at 1 * 2 ^ 24 + ps.at 3 * 2 ^ 8)).done c
      else
        let d := d.writePtp (setBits (d.reg rClkPtpCfg) 31 31 0)
        ((d.writeAdj (ps.at 4)).writeStep (ps.at 5)).done c

end Sys2Proof.Machine
end

