-- ==== Sys2Proof/Machine/Custody.lean ====
section
/-! DEFINITION. Custody: firmware verification, attestation, sessions, keys, sealing, policy and the fuses (12_custody.md, R235
to R254; 17_flifin_runtime.md, R323). -/

namespace Sys2Proof.Machine

/-! ## Firmware images (R237, R323, R360) -/

/-- A firmware image kind's banks. -/
def Dev.bank (d : Dev) (k : Nat) : FwBank :=
  (d.sys.banks.find? fun b => b.kind == k).getD { kind := k, a := [], b := [], active := false, next := false, staged := false }

/-- Replaces a kind's banks. -/
def Dev.setBank (d : Dev) (b : FwBank) : Dev :=
  { d with sys := { d.sys with banks := (d.sys.banks.filter fun x => x.kind != b.kind) ++ [b] } }

/-- The contents of the ACTIVE bank, and of the other one. -/
def FwBank.running (b : FwBank) : List Byte := if b.active then b.b else b.a
def FwBank.other (b : FwBank) : List Byte := if b.active then b.a else b.b

/-- The inactive bank is written. -/
def FwBank.writeOther (b : FwBank) (bytes : List Byte) : FwBank := if b.active then { b with a := bytes } else { b with b := bytes }

/-- An image passes R237: root index, revocation, key hash and signature, SVN. -/
def Dev.imageOk (d : Dev) (i : List Byte) : Bool :=
  decide (Config.imageRoot i < 4) && !bit d.cus.revoked (Config.imageRoot i) && Config.imageSigned i &&
    decide (d.cus.svnMin ≤ Config.imageSvn i)

/-- NEXT of a kind in BOOT_FW (Table 20-8). -/
def Dev.markNext (d : Dev) (k : Nat) (on : Bool) : Dev :=
  (d.setBank { d.bank k with next := on }).setFlag rBootFw (8 * k + 6) on

/-- The inactive bank of a kind is verified: NEXT is marked, or the bank is erased. -/
def Dev.verifyBank (d : Dev) (k : Nat) : Dev × Bool :=
  if d.imageOk (d.bank k).other then (d.markNext k true, true)
  else (d.setBank { (d.bank k).writeOther [] with staged := false }, false)

/-- FW_UPDATE (R323): kind, activate; the image is the buffer. -/
def execFwUpdate (q : QueueN) (st : State) : Host.Outcome State Fault Refusal :=
  st.act fun d => d.cmd q 0x60C [.num 1, .num 1]
    (fun ps => firstBad [(decide (4 < ps.at 0), 0), (decide (1 < ps.at 1), 1)]) fun c ps d =>
      let k := ps.at 0
      if (d.sys.pldm.map fun x => x.val) = some k then d.fail c 0x4
      else if ps.at 1 = 1 ∧ !(d.bank k).staged then d.param c 1
      else
        let d := if ps.at 1 = 0 then d.setBank { (d.bank k).writeOther c.buf with next := false, staged := false } else d
        match d.verifyBank k with
        | (d, true) => (d.interim c).done { c with interim := true }
        | (d, false) => d.fail c 0x5

/-- SVN_COMMIT (R238): SVN_MIN rises to the SVN of the running runtime image. -/
def execSvnCommit (q : QueueN) (st : State) : Host.Outcome State Fault Refusal :=
  st.act fun d => d.cmd q 0x60D [] noBad fun c _ d =>
    let v := min 64 (max d.cus.svnMin (d.fld rFlfStatus 55 48))
    (({ d with cus := { d.cus with svnMin := v } } : Dev).setFld rCusStatus 46 40 v).done c

/-- ROOT_REVOKE (R238): the buffer is a statement that names a root and is signed by another, unrevoked one. -/
def execRootRevoke (q : QueueN) (st : State) : Host.Outcome State Fault Refusal :=
  st.act fun d => d.cmd q 0x60E [] noBad fun c _ d =>
    let r := Config.revokedRoot c.buf
    let by_ := Config.imageRoot c.buf
    let all := Nat.lor d.cus.revoked (2 ^ r)
    if 4 ≤ r then d.fail c 0x5
    else if all = 15 then d.fail c 0x1A
    else if by_ = r ∨ 4 ≤ by_ ∨ bit d.cus.revoked by_ ∨ !Config.imageSigned c.buf then d.fail c 0x5
    else (({ d with cus := { d.cus with revoked := all } } : Dev).setFld rCusStatus 59 56 all).done c

/-! ## Attestation (R239, R240) -/

/-- The reports that await SESSION_OPEN. -/
def Dev.waitingReports (d : Dev) : List Report := d.cus.reports.filter fun r => !r.expired

/-- Bytes 0x000 to 0x74F of a report (Table 12-2). -/
def Dev.reportBody (d : Dev) (part : Nat) (nonce ek : List Byte) : List Byte :=
  let pol := d.reg (rCusPol part)
  let dev := decide (16 ≤ part)
  let flags := b2n (d.flag rCusStatus 63) + b2n (d.flag rCusStatus 62) * 2 + b2n (d.flag rCusStatus 61) * 4 +
    b2n (!dev && bit pol 63) * 8
  leBytes 4 0x41545431 ++ leBytes 2 1 ++ leBytes 2 flags ++ leBytes 4 (d.reg rGlbId) ++
    leBytes 4 (part + (if dev then 0 else d.sectors part) * 2 ^ 16) ++
    (Config.devId ++ List.replicate 16 0).take 16 ++ nonce ++
    ([0, 1, 2, 3, 4].flatMap fun k => beBytes 32 (Config.sha256 (d.bank k).running).toNat) ++
    leBytes 4 d.cus.svnMin ++ leBytes 1 d.cus.revoked ++ leBytes 3 0 ++ leBytes 8 d.now ++
    beBytes 32 (Config.sha256 ek).toNat ++
    (if dev then List.replicate 32 0 else beBytes 32 (Config.sha256 (leBytes 8 pol)).toNat) ++ ek

/-- CUS_ATT shows the epoch and the leaves used. -/
def Dev.showLeaf (d : Dev) : Dev := (d.setFld rCusAtt 63 53 d.cus.epoch).setFld rCusAtt 52 42 d.cus.leaf

/-- The next leaf is made ready: the first signature after a cold reset, and an exhausted tree, blow an epoch fuse; none is
left when the key is exhausted (R239). -/
def Dev.nextLeaf (d : Dev) : Option Dev :=
  let fresh := !d.cus.signedSinceCold || d.cus.leaf == 1024
  if fresh && d.cus.epoch == 1024 then none
  else if fresh then some ({ d with cus := { d.cus with epoch := d.cus.epoch + 1, leaf := 0, signedSinceCold := true } } : Dev).showLeaf
  else some d

/-- ATTEST (R240): nonce, host buffer; `flashOk` says whether the flash record landed. RESULT is the report's index. -/
def execAttest (q : QueueN) (flashOk : Bool) (st : State) : Host.Outcome State Fault Refusal :=
  st.act fun d => d.cmd q 0x601 [.bytes 32, .num 8] noBad fun c ps d =>
    if c.part ≠ 0xFF ∧ !(c.part < 16 && d.partValid c.part) then d.param c 0 else
    let d := d.interim c
    let c := { c with interim := true }
    if 16 ≤ d.waitingReports.length then d.fail c 0x7 else
    match d.nextLeaf with
    | none => d.fail c 0x18
    | some d =>
      if !flashOk then d.fail c 0x19 else
      let leaf := d.cus.leaf
      let d := { d with sys := { d.sys with attFlash := (d.cus.epoch, leaf + 1, true) } }
      let s := d.draw
      let kp := Config.mlkemKeygen s.1
      let ek := (kp.1 ++ List.replicate 1568 0).take 1568
      let body := s.2.reportBody c.part (leBytes 32 (ps.at 0)) ek
      let sig := (Config.hssSign (d.cus.epoch - 1) leaf body ++ List.replicate 2964 0).take 2964
      let d := s.2
      let idx := ((List.range 16).find? fun i => !d.waitingReports.any fun r => r.idx == i).getD 0
      let rep : Report := { idx, part := c.part, decaps := kp.2, digest := Config.sha256 body, expired := false }
      let d := { d with
        cus := { d.cus with leaf := leaf + 1, reports := (d.cus.reports.filter fun (r : Report) => r.idx != idx) ++ [rep] },
        hostMem := d.hostMem.write (ps.at 1) (body ++ sig) }
      d.showLeaf.done c idx

/-- ATT_CERT: host buffer. -/
def execAttCert (q : QueueN) (st : State) : Host.Outcome State Fault Refusal :=
  st.act fun d => d.cmd q 0x602 [.num 8] noBad fun c ps d =>
    ({ d with hostMem := d.hostMem.write (ps.at 0) Config.attCert } : Dev).done c

/-- REPORT_EXPIRY (R241): a report that was not opened loses its decapsulation key. -/
def execReportExpiry (i : Fin 16) (st : State) : Host.Outcome State Fault Refusal :=
  st.act fun d =>
    let reports := d.cus.reports.map fun r => if r.idx = i.val then { r with decaps := 0, expired := true } else r
    { d with cus := { d.cus with reports } }

/-! ## Sessions and the owner (R241, R251) -/

/-- ASCII bytes. -/
def ascii (s : String) : List Byte := s.toList.map fun c => BitVec.ofNat 8 c.toNat

/-- SESSION_OPEN (R241): report, ciphertext. RESULT is the session's index. -/
def execSessionOpen (q : QueueN) (st : State) : Host.Outcome State Fault Refusal :=
  st.act fun d => d.cmd q 0x603 [.num 1, .bytes 1568] noBad fun c ps d =>
    match d.cus.reports.find? fun r => r.idx == ps.at 0 && r.part == c.part with
    | none => d.param c 0
    | some r =>
      if r.expired then d.fail c 0x17 else
      match (List.range 256).find? fun s => !d.prinValid (s + 1) with
      | none => d.fail c 0x7
      | some s =>
        let k := Config.mlkemDecaps r.decaps (leBytes 1568 (ps.at 1))
        let pr : Principal := { k := s + 1, kek := Config.hkdf r.digest k (ascii "ez48 kek"), mac := Config.hkdf r.digest k (ascii "ez48 mac"),
                                lockouts := 0, born := d.cus.opened }
        let dev := decide (16 ≤ r.part)
        let d := { d with cus := { d.cus with
          reports := d.cus.reports.filter fun x => x.idx != r.idx, principals := d.cus.principals ++ [pr],
          opened := d.cus.opened + 1 } }
        (d.setReg (rCusPrin (s + 1)) (2 ^ 127 + (if dev then 2 ^ 121 else r.part * 2 ^ 122))).done c s

/-- SESSION_CLOSE (R241). -/
def execSessionClose (q : QueueN) (st : State) : Host.Outcome State Fault Refusal :=
  st.act fun d => d.cmd q 0x604 [.num 1] noBad fun c ps d => (d.endPrincipal (ps.at 0 + 1)).done c

/-- OWNER_SET (R251): the device-level session named becomes the owner; while there is none, the trailer's session does. -/
def execOwnerSet (q : QueueN) (st : State) : Host.Outcome State Fault Refusal :=
  st.act fun d => d.cmd q 0x605 [.num 1] noBad fun c ps d =>
    let k := if d.ownerSet then ps.at 0 + 1 else (prinOf (leAt c.entry 0x78 4)).getD 0
    match d.principal k with
    | none => d.param c 0
    | some s =>
      if !d.sessionOf k 0xFF then d.param c 0 else
      let d := { d with
        cus := { d.cus with principals := (d.cus.principals.filter fun (x : Principal) => x.k != 0) ++ [{ s with k := 0, lockouts := 0 }] },
        sys := { d.sys with ownerFlash := some (s.kek, s.mac, 0) } }
      ((d.setReg (rCusPrin 0) (2 ^ 127 + 2 ^ 121)).setFlag rCusStatus 60 true).done c

/-- How long the lockout in force lasts, in s: 1, doubled by each further one, and 64 at most (R251). -/
def Principal.lockoutTime (x : Principal) : Nat := min 64 (2 ^ (x.lockouts - 1))

/-- LOCKOUT_EXPIRY (R251): the lockout ends once `Principal.lockoutTime` has passed. -/
def execLockoutExpiry (k : Fin 257) (st : State) : Host.Outcome State Fault Refusal :=
  st.act fun d => if d.flag (rCusPrin k.val) 126 then d.setFlag (rCusPrin k.val) 126 false else d

/-! ## Keys (R242 to R244) -/

/-- How many sessions had been opened before principal k's. -/
def Dev.bornOf (d : Dev) (k : Nat) : Nat := ((d.principal k).map Principal.born).getD 0

/-- Principal k may erase a slot for partition p (R244): the owner a device slot, the session that installed it or a later one
of its partition any other. -/
def Dev.mayErase (d : Dev) (k p slot : Nat) : Bool :=
  let v := d.reg (rCusSlot slot)
  if k = 0 then bit v 61 else !bit v 61 && bits v 60 57 == p && decide (d.cus.slotBy.get slot ≤ d.bornOf k)

/-- KEY_INSTALL (R242, R252): slot, purpose, wrapped key; a partition's does not start while it is switched out (R283). -/
def execKeyInstall (q : QueueN) (st : State) : Host.Outcome State Fault Refusal :=
  st.act fun d => d.cmdUnless q (fun c => c.prin != 0 && c.part < 16 && d.switchedOut c.part) fun d =>
    d.cmd q 0x606 [.num 2, .num 1, .bytes 40] (fun ps => firstBad [(decide (4095 < ps.at 0), 0)]) fun c ps d =>
    let k := c.prin
    let slot := ps.at 0
    let v := detail 0 0 0 0 slot
    if d.flag rCusStatus 62 then d.fail c 0x1C v
    else if (if k = 0 then ps.at 1 != 5 else ps.at 1 == 0 || decide (4 < ps.at 1)) then d.param c 1
    else if d.flag (rCusSlot slot) 63 then d.fail c 0x16 v
    else match Config.unwrap ((d.principal k).map Principal.kek |>.getD 0) (leBytes 40 (ps.at 2)) with
      | none => d.fail c 0x15 v
      | some key =>
        let own := if k = 0 then 2 ^ 61 else c.part % 16 * 2 ^ 57 + (k - 1) * 2 ^ 45
        let d := d.setReg (rCusSlot slot) (2 ^ 63 + own + ps.at 1 * 2 ^ 53)
        ({ d with cus := { d.cus with
          slotKeys := alPut d.cus.slotKeys slot key, slotBy := d.cus.slotBy.set slot (d.bornOf k) } } : Dev).done c

/-- The saves whose STATE slot is erased fail (R299). -/
def Dev.eraseState (d : Dev) (slot : Nat) : Dev :=
  forN 16 (fun p d => if d.fld (rPsvCfg p) 47 32 = slot then d.dropSaves p else d) d

/-- KEY_ERASE (R244): the slot is marked erasing, and freed once the uses that have begun end. -/
def execKeyErase (q : QueueN) (st : State) : Host.Outcome State Fault Refusal :=
  st.act fun d => d.cmd q 0x607 [.num 2] (fun ps => firstBad [(decide (4095 < ps.at 0), 0)]) fun c ps d =>
    let slot := ps.at 0
    let v := d.reg (rCusSlot slot)
    if !bit v 63 || bit v 62 || !d.mayErase c.prin c.part slot then d.fail c 0x14 (detail 0 0 0 0 slot) else
    let d := (d.setFlag (rCusSlot slot) 62 true).eraseState slot
    ({ d with cus := { d.cus with erasing := d.cus.erasing ++ [(slot, c.seq)] } } : Dev).sweepErasing

/-- POLICY_SET (R246): EXPORT_CLEAR. Clearing it disables the unsealed groups. -/
def execPolicySet (q : QueueN) (st : State) : Host.Outcome State Fault Refusal :=
  st.act fun d => d.cmd q 0x608 [.num 1] (fun ps => firstBad [(decide (1 < ps.at 0), 0)]) fun c ps d => d.onPart c fun d =>
    let p := c.part
    let was := d.flag (rCusPol p) 63
    let d := d.setReg (rCusPol p) (ps.at 0 * 2 ^ 63 + (d.fld (rCusPol p) 31 0 + 1) % 2 ^ 32)
    let d := if was && ps.at 0 == 0 then
        forL ((d.groupsOn p).filter fun g => d.grpKey g == 0xFFFF) (fun g (d : Dev) => d.disableGroup g 0x14 (some 6)) d
      else d
    d.done c

/-! ## Sealing (R245, R246) -/

/-- A sealed-output buffer in rim memory: remote peers may access it (R195; log 108). -/
def Dev.openRegion (d : Dev) (p a len : Nat) : Dev := { d with brv := { d.brv with regions := d.brv.regions ++ [(p, a, len)] } }

/-- The bytes of a sealed object go to a destination: rim memory, host memory, the flash share; a peer's rim memory lies outside
the package. -/
def Dev.putOut (d : Dev) (p a : Nat) (bs : List (Nat × Byte)) : Dev :=
  if isFar a then
    let t := d.winTarget p a
    if t.1 = 2 then { d with hostMem := d.hostMem.writeAt (bs.map fun e => (t.2 + e.1, e.2)) }
    else if t.1 = 3 then { d with mem := { d.mem with flash := d.mem.flash.writeAt (bs.map fun e =>
      (flashAddr p (t.2 + e.1), e.2)) } }
    else d
  else d.gput (bs.map fun e => (a + e.1, e.2))

/-- The key of a slot that SEAL and UNSEAL may use: purpose OUTPUT or STATE. -/
def Dev.sealKey (d : Dev) (slot p : Nat) : Option (BitVec 256) :=
  match d.slotFor slot p 2 with
  | some k => some k
  | none => d.slotFor slot p 3

/-- The first address of a range that p may not name, or the first above rim memory of a range that must lie in it. -/
def Dev.sealBad (d : Dev) (p a n : Nat) (rim : Bool) : Option Nat :=
  if rim && decide (rimTop < a + n) then some (max a rimTop) else d.firstBad p a n

/-- The envelope of Table 11-2. -/
def envelope (key : BitVec 256) (oid : Nat) (iv : BitVec 96) (plain : List Byte) : List Byte :=
  let hdr := leBytes 4 0x4F454E31 ++ leBytes 2 1 ++ leBytes 2 0 ++ leBytes 8 oid ++ beBytes 12 iv.toNat ++ leBytes 4 0
  let e := Config.gcmEnc key iv hdr plain
  hdr ++ e.1 ++ beBytes 16 e.2.toNat

/-- The header of an envelope is not that of Table 11-2 with the OID given. -/
def envelopeBad (obj : List Byte) (oid : Nat) : Bool :=
  decide (leAt obj 0 4 ≠ 0x4F454E31 ∨ leAt obj 4 2 ≠ 1 ∨ leAt obj 6 2 ≠ 0 ∨ leAt obj 0x1C 4 ≠ 0 ∨ leAt obj 8 8 ≠ oid)

/-- The plaintext of an envelope that opens under a key with an OID. -/
def openEnvelope (key : BitVec 256) (oid : Nat) (obj : List Byte) : Option (List Byte) :=
  if decide (obj.length < 48) || envelopeBad obj oid then none
  else Config.gcmDec key (BitVec.ofNat 96 (beNat (slice obj 0x10 12))) (obj.take 32) (slice obj 0x20 (obj.length - 48))
    (BitVec.ofNat 128 (beNat (slice obj (obj.length - 16) 16)))

/-- SEAL (R245): slot, source, length, destination, OID. -/
def execSealRange (q : QueueN) (st : State) : Host.Outcome State Fault Refusal :=
  st.act fun d => d.cmd q 0x609 [.num 2, .num 8, .num 8, .num 8, .num 8]
    (fun ps => firstBad [(ps.at 2 == 0 || decide (2 ^ 32 < ps.at 2), 2)]) fun c ps d => d.onPart c fun d =>
      let p := c.part
      let slot := ps.at 0
      let seals := d.fld (rCusSlot slot) 32 0
      match d.sealKey slot p with
      | none => d.fail c 0x14 (detail 0 0 0 0 slot)
      | some key =>
        if 2 ^ 32 ≤ seals then d.fail c 0x14 (detail 0 0 0 0 slot) else
        match d.sealBad p (ps.at 1) (ps.at 2) true, d.sealBad p (ps.at 3) (ps.at 2 + 48) false with
        | some a, _ => d.fail c 0x6 (detail a 0 0 0 0)
        | none, some a => d.fail c 0x6 (detail a 0 0 0 0)
        | none, none =>
          let x := d.readRim 0 (ps.at 1) (ps.at 2)
          let d := x.1
          match x.2 with
          | g :: _ => d.fail c 0x38 (ueDetail g)
          | [] =>
          let d := d.setFld (rCusSlot slot) 32 0 (seals + 1)
          let iv := d.draw
          let d := iv.2
          let bytes := envelope key (ps.at 4) (BitVec.ofNat 96 iv.1.toNat) (d.gread p (ps.at 1) (ps.at 2))
          let j : SealJob := { seq := c.seq, p, isUnseal := false, slot, dst := ps.at 3, len := ps.at 2, bytes, ok := true }
          { d with cus := { d.cus with seals := d.cus.seals ++ [j] } }

/-- UNSEAL (R245): slot, envelope, its length, destination, OID. Plaintext lands before the tag is known; a wrong header or OID
ends with TAG at once. -/
def execUnsealRange (q : QueueN) (st : State) : Host.Outcome State Fault Refusal :=
  st.act fun d => d.cmd q 0x60A [.num 2, .num 8, .num 8, .num 8, .num 8]
    (fun ps => firstBad [(decide (ps.at 2 < 48 ∨ 2 ^ 32 + 48 < ps.at 2), 2)]) fun c ps d => d.onPart c fun d =>
      let p := c.part
      let slot := ps.at 0
      let len := ps.at 2 - 48
      match d.sealKey slot p with
      | none => d.fail c 0x14 (detail 0 0 0 0 slot)
      | some key =>
        match d.sealBad p (ps.at 1) (ps.at 2) false, d.sealBad p (ps.at 3) len true with
        | some a, _ => d.fail c 0x6 (detail a 0 0 0 0)
        | none, some a => d.fail c 0x6 (detail a 0 0 0 0)
        | none, none =>
          let x := d.readRim 0 (ps.at 1) (ps.at 2)
          let d := x.1
          match x.2 with
          | g :: _ => d.fail c 0x38 (ueDetail g)
          | [] =>
          let obj := d.gread p (ps.at 1) (ps.at 2)
          if envelopeBad obj (ps.at 4) then
            d.fail c 0x1E (detail 0 0 0 0 slot)
          else
            let iv := BitVec.ofNat 96 (beNat (slice obj 0x10 12))
            let ct := slice obj 0x20 len
            let ok := (Config.gcmDec key iv (obj.take 32) ct (BitVec.ofNat 128 (beNat (slice obj (ps.at 2 - 16) 16)))).isSome
            let plain := (Config.gcmPlain key iv (obj.take 32) ct ++ List.replicate len 0).take len
            let j : SealJob := { seq := c.seq, p, isUnseal := true, slot, dst := ps.at 3, len, bytes := [], ok }
            ({ d with cus := { d.cus with seals := d.cus.seals ++ [j] } } : Dev).gwrite (ps.at 3) plain

/-- SEAL_COMPLETE (R245). -/
def execSealComplete (q : QueueN) (cid : BitVec 32) (st : State) : Host.Outcome State Fault Refusal :=
  st.act fun d =>
    match d.cus.seals.find? fun s => (d.fetchedCmd s.seq).any fun c => c.q == q.val && c.cid == cid.toNat with
    | none => d
    | some j =>
      let d := { d with cus := { d.cus with seals := d.cus.seals.filter fun s => s.seq != j.seq } }
      let d := if j.isUnseal then (if j.ok then d else d.gwrite j.dst (List.replicate j.len 0)) else d.putOut j.p j.dst (placeBytes 0 j.bytes)
      let d := if j.isUnseal || decide (rimTop ≤ j.dst) then d else d.openRegion j.p j.dst j.bytes.length
      let d := if j.ok then d.finishSeq j.seq none 0 0 else d.finishSeq j.seq (some clsRequest) 0x1E (detail 0 0 0 0 j.slot)
      d.sweepErasing

/-- COPY_OUT (R246): source, length, destination; unsealed, where EXPORT_CLEAR allows. A granule that cannot be read ends it
with MEM_UE, and the others land (R174). -/
def execCopyOut (q : QueueN) (st : State) : Host.Outcome State Fault Refusal :=
  st.act fun d => d.cmd q 0x60B [.num 8, .num 8, .num 8]
    (fun ps => firstBad [(ps.at 1 == 0 || decide (2 ^ 32 < ps.at 1), 1)]) fun c ps d => d.onPart c fun d =>
      let p := c.part
      if !d.flag (rCusPol p) 63 then d.fail c 0x1D else
      match d.sealBad p (ps.at 0) (ps.at 1) true, d.sealBad p (ps.at 2) (ps.at 1) false with
      | some a, _ => d.fail c 0x6 (detail a 0 0 0 0)
      | none, some a => d.fail c 0x6 (detail a 0 0 0 0)
      | none, none =>
        let x := d.readRim 0 (ps.at 0) (ps.at 1)
        let bs := (placeBytes 0 (x.1.gread p (ps.at 0) (ps.at 1))).filter fun e =>
          !x.2.any fun g => g.1 == (ps.at 0 + e.1) / 64 * 64
        let d := x.1.putOut p (ps.at 2) bs
        match x.2 with
        | g :: _ => d.fail c 0x38 (ueDetail g)
        | [] => d.done c

/-! ## Debug access and the kill fuse (R252, R253) -/

/-- Every partition is ended at once, its sectors dirty; the commands that waited for one end (R247, R355). -/
def Dev.endAllPartitions (d : Dev) : Dev :=
  let ps := (List.range 16).filter fun p => d.partValid p
  let d := forL ps (fun p (d : Dev) =>
    let d := if d.live p then d.clearHeld p else d
    let d := ((d.setImage p none).endHoldings p).nameResident p none
    (d.freeSectorUnits p).soil p) d
  forL ps (fun p (d : Dev) =>
    let x := d.part p
    let m := d.sectors p
    match x.goal, x.cmd with
    | .destroy, some c => (d.setPart p { PartSt.none with zeroing := m, cmd := some c }).releasePart p 6
    | _, some c => ((d.setPart p PartSt.none).releasePart p 0).finishSeq c (some clsRequest) 0x8 0
    | _, none => (d.setPart p PartSt.none).releasePart p 0) d

/-- The Flifin carve-out of every sector is cleared. -/
def Dev.clearCarve (d : Dev) : Dev :=
  forN 16 (fun g (d : Dev) => d.zeroRim ((g + 1) * sectorBytes - d.carveBytes) ((g + 1) * sectorBytes)) d

/-- DEBUG_UNLOCK (R252): it completes, with DBG_OPEN and DBG_SINCE_COLD set, when the last dirty sector is clean. -/
def execDebugUnlock (q : QueueN) (st : State) : Host.Outcome State Fault Refusal :=
  st.act fun d => d.cmd q 0x610 [] noBad fun c _ d =>
    if d.cus.killFuse then d.fail c 0x1B
    else if d.cus.unlock.isSome then d.fail c 0x4 else
    let d := (d.interim c).endAllPartitions
    let d := (d.wipeSlots fun _ => true).wipeSessions fun _ => true
    let d := d.clearCarve
    if d.fld rCusStatus 15 0 = 0 then ((d.setFlag rCusStatus 62 true).setFlag rCusStatus 61 true).finishSeq c.seq none 0 0
    else { d with cus := { d.cus with unlock := some c.seq } }

/-- Debug access closes: DBG_OPEN is cleared, a debug transaction in progress is aborted and the TAP is held in Test-Logic-Reset
with TDO high-impedance (R252, R253, R373). -/
def Dev.closeDebug (d : Dev) : Dev :=
  let d := d.setFlag rCusStatus 62 false
  { d with sys := { d.sys with tap := Tap.inReset } }

/-- DEBUG_LOCK (R252): not critical, but a command of the owner, refused while there is none (R251). -/
def execDebugLock (q : QueueN) (st : State) : Host.Outcome State Fault Refusal :=
  st.act fun d => d.cmd q 0x611 [] noBad fun c _ d => if d.ownerSet then d.closeDebug.done c else d.fail c 0x13

/-- KILL_FUSE (R253): the fuse is blown, both debug paths are disabled, and an unlock under way ends with KILLED. -/
def execKillFuse (q : QueueN) (st : State) : Host.Outcome State Fault Refusal :=
  st.act fun d => d.cmd q 0x60F [] noBad fun c _ d =>
    let w := d.cus.unlock
    let d := { d with cus := { d.cus with killFuse := true, unlock := none } }
    let d := ((d.setFlag rGlbId 8 true).setFlag rCusStatus 63 true).closeDebug
    let d := match w with | some s => d.finishSeq s (some clsRequest) 0x1B 0 | none => d
    d.done c

end Sys2Proof.Machine
end

