-- ==== Sys2Proof/Machine/Runtime.lean ====
section
/-! DEFINITION. The Flifin cluster and its runtime: fault detection, log mailboxes and its commands
(17_flifin_cluster.md, R317 to R321, R324). -/

namespace Sys2Proof.Machine

/-! ## Log mailboxes (R321) -/

/-- Free bytes of a record's text: `n` words of 4 B (log 5). -/
def Dev.freeText (d : Dev) : Nat → List Byte × Dev
  | 0 => ([], d)
  | n + 1 =>
    let w := d.takeFree
    let r := w.2.freeText n
    (leBytes 4 w.1 ++ r.1, r.2)

/-- A record is written to mailbox m, or counted in DROP when 512 stand unread. Which core writes it and its text the
runtime chooses. -/
def Dev.mailLog (d : Dev) (m level code cid : Nat) : Dev :=
  let head := d.reg (rFlfMbxHead m)
  if (head + 2 ^ 32 - d.reg (rFlfMbxTail m)) % 2 ^ 32 = 512 then d.bump (rFlfMbxDrop m) else
  let core := d.takeFree
  let text := core.2.freeText 12
  let rec_ := leBytes 8 d.now ++ leBytes 1 level ++ leBytes 1 (core.1 % 16) ++ leBytes 2 code ++ leBytes 4 cid ++ text.1
  (text.2.setReg (rFlfLog m (head % 512)) (leNat rec_)).setReg (rFlfMbxHead m) ((head + 1) % 2 ^ 32)

/-! ## Cores (R318 to R320) -/

/-- FLF_STATUS.RT_UP. -/
def Dev.rtUp (d : Dev) : Bool := d.flag rFlfStatus 63

/-- Core c is online. -/
def Dev.coreOnline (d : Dev) (c : Nat) : Bool := d.flag (rFlfCore c) 63

/-- Cores online. -/
def Dev.coresOnline (d : Dev) : Nat := countIf (fun c => d.coreOnline c) (List.range 16)

/-- Core c goes online or offline. -/
def Dev.setOnline (d : Dev) (c : Nat) (on : Bool) : Dev := (d.setFlag (rFlfCore c) 63 on).setFlag rFlfStatus c on

/-- The device hangs: device-fatal RT_HANG with the cores online. -/
def Dev.rtHang (d : Dev) : Dev :=
  d.record { part := none, cls := clsDevice, cause := 0x301, block := 13, det := detail 0 0 0 0 d.coresOnline }

/-- The runtime executes a command (R273): those of custody and of ingest have engines of their own. -/
def FetchedCmd.byRuntime (c : FetchedCmd) : Bool := c.opc / 256 != 5 && c.opc / 256 != 6

/-- RT_CORE (R319): a core's watchdog expires while it executes the commands given. -/
def execRtCore (core : Fin 16) (running : List (QueueN × BitVec 32)) (st : State) : Host.Outcome State Fault Refusal :=
  st.act fun d =>
    let c := core.val
    if !d.rtUp || !d.coreOnline c then d else
    let off := rFlfCore c
    let d := d.setFld off 31 0 (d.fld off 31 0 + 1)
    let old := d.sys.coreRecent
    let times := ((old.set (c * 4 + 2) (old.get (c * 4 + 1))).set (c * 4 + 1) (old.get (c * 4))).set (c * 4) (d.now + 1)
    let d := { d with sys := { d.sys with coreRecent := times } }
    let mine := d.hq.fetched.filter fun x => x.byRuntime && running.any fun r => r.1.val == x.q && r.2.toNat == x.cid
    let d := forL mine (fun x (d : Dev) => d.finishSeq x.seq (some clsRequest) 0x300 (detail 0 0 0 0 c)) d
    let d := d.setFld off 39 32 (d.wdRecent c)
    if d.wdRecent c < 3 then d else
    let d := d.setOnline c false
    if d.coresOnline < 8 then d.rtHang else d

/-- RT_HANG (R320): the cluster watchdog expires. -/
def execRtHang (st : State) : Host.Outcome State Fault Refusal := st.act fun d => if d.rtUp then d.rtHang else d

/-- RT_UE (R318). -/
def execRtUe (kind : Fin 4) (st : State) : Host.Outcome State Fault Refusal :=
  st.act fun d => if d.rtUp then d.rtUe kind.val else d

/-- CODE_DIGEST_CHECK (R318): a digest that differs is a failed self-check. -/
def execCodeDigestCheck (ok : Bool) (st : State) : Host.Outcome State Fault Refusal :=
  st.act fun d => if d.rtUp && !ok then d.rtUe 2 else d

/-! ## Commands (Table 17-6) -/

/-- RESULT of RT_INFO: the runtime's SVN in byte 0, the cores online in bytes 2 and 3, IMAGE_SHA[95:0] from byte 4. -/
def Dev.rtInfoResult (d : Dev) : Nat :=
  d.fld rFlfStatus 55 48 + d.fld rFlfStatus 15 0 * 2 ^ 16 + (Config.sha256 (d.bank 1).running).toNat % 2 ^ 96 * 2 ^ 32

/-- RT_INFO. -/
def execRtInfo (q : QueueN) (st : State) : Host.Outcome State Fault Refusal :=
  st.act fun d => d.cmd q 0xB01 [] noBad fun c _ d => d.done c d.rtInfoResult

/-- A write of FLF_WDOG: a field outside its range keeps its value (R324). -/
def Dev.writeWdog (d : Dev) (v : Nat) : Dev :=
  let cl := bits v 31 16
  let co := bits v 15 0
  let d := if 10 ≤ cl ∧ cl ≤ 10000 then d.setFld rFlfWdog 31 16 cl else d
  if 1 ≤ co ∧ co ≤ 1000 then d.setFld rFlfWdog 15 0 co else d

/-- WDOG_CFG: CORE_MS, CLUSTER_MS. -/
def execWdogCfg (q : QueueN) (st : State) : Host.Outcome State Fault Refusal :=
  st.act fun d => d.cmd q 0xB02 [.num 2, .num 2]
    (fun ps => firstBad [(decide (ps.at 0 < 1 ∨ 1000 < ps.at 0), 0), (decide (ps.at 1 < 10 ∨ 10000 < ps.at 1), 1)])
    fun c ps d => (d.writeWdog (ps.at 1 * 2 ^ 16 + ps.at 0)).done c

/-- FLF_CARVE: the carve-out in GiB, in force from the next warm reset (R186). -/
def execFlfCarve (q : QueueN) (st : State) : Host.Outcome State Fault Refusal :=
  st.act fun d => d.cmd q 0xB03 [.num 1] (fun ps => firstBad [(decide (ps.at 0 < 4 ∨ 16 < ps.at 0), 0)])
    fun c ps d => if d.flag rMemLock 0 then d.locked c rMemCfg else (d.setFld rMemCfg 20 16 (ps.at 0)).done c

end Sys2Proof.Machine
end

