-- ==== Sys2Proof/Machine/Power.lean ====
section
/-! DEFINITION. Power: the governor, the cap, the ramp, the brake, thermal control and the input (19_power_governance.md, R338
to R352; 21_module_signals.md, R372). -/

namespace Sys2Proof.Machine

/-! ## The governor's registers (R352) -/

/-- GOV_STATUS fields. -/
def Dev.braked (d : Dev) : Bool := d.flag rGovStatus 31
def Dev.throttledAny (d : Dev) : Bool := d.flag rGovStatus 29

/-- The governor runs: stage 0x6, which starts it, has ended (Table 20-2). -/
def Dev.governorUp (d : Dev) : Bool := d.sys.ended.contains 6

/-- A field of the governor that a brake holds back: 0 CAP, 1 RAMP, 2 FLOOR. A value outside its range changes nothing. -/
def Dev.govSet (d : Dev) (k v : Nat) : Dev :=
  match k with
  | 0 => if 700 ≤ v ∧ v ≤ d.fld rGovCap 26 16 then d.setFld rGovCap 10 0 v else d
  | 1 => if 25 ≤ v ∧ v ≤ 1500 then d.setFld rGovRamp 26 16 v else d
  | _ => if v ≤ 90 then d.setFld rGovRamp 6 0 v else d

/-- A write of CAP, RAMP or FLOOR; one made while braked takes effect at release (R346). -/
def Dev.govWrite (d : Dev) (k v : Nat) : Dev :=
  if d.braked then
    let heldGov := (d.sys.heldGov.filter fun e => e.1 != k) ++ [(k, v)]
    { d with sys := { d.sys with heldGov } }
  else d.govSet k v

/-- The writes held during a brake take effect. -/
def Dev.applyHeld (d : Dev) : Dev :=
  let hs := d.sys.heldGov
  forL hs (fun e (d : Dev) => d.govSet e.1 e.2) { d with sys := { d.sys with heldGov := [] } }

/-- A write of GOV_RAMP and of GOV_BRAKE and of GOV_THERM, which the lock bit bars. -/
def Dev.writeRamp (d : Dev) (v : Nat) : Dev :=
  if d.flag rGovLock 0 then d else (d.govWrite 1 (bits v 26 16)).govWrite 2 (bits v 6 0)
def Dev.writeBrake (d : Dev) (v : Nat) : Dev :=
  if d.flag rGovLock 0 then d else
  let d := if 1000 ≤ bits v 28 16 ∧ bits v 28 16 ≤ 5000 then d.setFld rGovBrake 28 16 (bits v 28 16) else d
  if 300 ≤ bits v 9 0 ∧ bits v 9 0 ≤ 700 then d.setFld rGovBrake 9 0 (bits v 9 0) else d
def Dev.writeTherm (d : Dev) (v : Nat) : Dev :=
  if d.flag rGovLock 0 then d
  else if 85 ≤ bits v 7 0 ∧ bits v 7 0 ≤ 105 then d.setFld rGovTherm 7 0 (bits v 7 0) else d

/-! ## Commands (Table 19-5) -/

/-- GOV_POWER_CAP: CAP in W; above CEIL it ends with PARAM and changes nothing. -/
def execGovPowerCap (q : QueueN) (st : State) : Host.Outcome State Fault Refusal :=
  st.act fun d => d.cmd q 0xA01 [.num 2] noBad fun c ps d =>
    if ps.at 0 < 700 ∨ d.fld rGovCap 26 16 < ps.at 0 then d.param c 0 else (d.govWrite 0 (ps.at 0)).done c

/-- GOV_CEIL_SET: CEIL in W; a CAP above it falls to it, and the custody record is written (R342). -/
def execGovCeilSet (q : QueueN) (st : State) : Host.Outcome State Fault Refusal :=
  st.act fun d => d.cmd q 0xA02 [.num 2] (fun ps => firstBad [(decide (ps.at 0 < 700 ∨ 1200 < ps.at 0), 0)]) fun c ps d =>
    let v := ps.at 0
    let d := d.setFld rGovCap 26 16 v
    let d := if v < d.fld rGovCap 10 0 then d.setFld rGovCap 10 0 v else d
    ({ d with sys := { d.sys with ceilFlash := v } } : Dev).done c

/-- GOV_RAMP_CFG: RAMP, FLOOR. The profiles are values of these. -/
def execGovRampCfg (q : QueueN) (st : State) : Host.Outcome State Fault Refusal :=
  st.act fun d => d.cmd q 0xA03 [.num 2, .num 1]
    (fun ps => firstBad [(decide (ps.at 0 < 25 ∨ 1500 < ps.at 0), 0), (decide (90 < ps.at 1), 1)]) fun c ps d =>
      if d.flag rGovLock 0 then d.locked c rGovRamp else (d.writeRamp (ps.at 0 * 2 ^ 16 + ps.at 1)).done c

/-- GOV_BRAKE_CFG: BLEVEL, BRAMP. -/
def execGovBrakeCfg (q : QueueN) (st : State) : Host.Outcome State Fault Refusal :=
  st.act fun d => d.cmd q 0xA04 [.num 2, .num 2]
    (fun ps => firstBad [(decide (ps.at 0 < 300 ∨ 700 < ps.at 0), 0), (decide (ps.at 1 < 1000 ∨ 5000 < ps.at 1), 1)])
    fun c ps d =>
      if d.flag rGovLock 0 then d.locked c rGovBrake else (d.writeBrake (ps.at 1 * 2 ^ 16 + ps.at 0)).done c

/-- GOV_THERM_CFG: THR. -/
def execGovThermCfg (q : QueueN) (st : State) : Host.Outcome State Fault Refusal :=
  st.act fun d => d.cmd q 0xA05 [.num 1] (fun ps => firstBad [(decide (ps.at 0 < 85 ∨ 105 < ps.at 0), 0)]) fun c ps d =>
    if d.flag rGovLock 0 then d.locked c rGovTherm else (d.writeTherm (ps.at 0)).done c

/-! ## The governor's period -/

/-- A throttle's source x bears on hemisphere h: its die, the annulus, or one of its stacks (R349). -/
def throttles (x h : Nat) : Bool := x == h || x == 2 || (decide (8 ≤ x) && (x - 8) / 4 == h)

/-- Hemisphere h is throttled. -/
def Dev.hemiThrottled (d : Dev) (h : Nat) : Bool := d.sys.throttled.any fun x => throttles x h

/-- The source x of a throttle is still hot: a die above THR − 2 °C, or a stack above 93 °C (R349). -/
def Dev.stillHot (d : Dev) (r : GovReading) (x : Nat) : Bool :=
  match x with
  | 0 => decide (d.fld rGovTherm 7 0 < r.tempH0.toNat + 2)
  | 1 => decide (d.fld rGovTherm 7 0 < r.tempH1.toNat + 2)
  | 2 => decide (d.fld rGovTherm 7 0 < r.tempAnn.toNat + 2)
  | x => decide (93 < ((r.tempStacks.getD (x - 8) 0).toNat))

/-- The periods of 10 µs of a throttle, counted by ten: each 100 µs of one lowers the target by 25 MHz (R349). -/
def Dev.thrTick (d : Dev) : Dev :=
  { d with sys := { d.sys with thrTicks := if d.sys.throttled.isEmpty then 0 else (d.sys.thrTicks + 1) % 10 } }

/-- The throttle of hemisphere h lowers its target in this period: 100 µs are full, and a source of it is still hot. -/
def Dev.thrLowers (d : Dev) (r : GovReading) (h : Nat) : Bool :=
  d.sys.thrTicks == 0 && d.sys.throttled.any fun x => throttles x h && d.stillHot r x

/-- The TCLK target that the governor's choice gives hemisphere h: never above FMAX, 600 MHz while braked, on a throttled die
not rising, and falling by 25 MHz every 100 µs while it is hot, in steps of 25 MHz (R336, R342, R346, R349). -/
def Dev.targetOf (d : Dev) (r : GovReading) (h v : Nat) : Nat :=
  let t := min (v / 25 * 25) (d.fld (rClkTpll h) 26 16)
  let t := if d.braked then 600
    else if d.hemiThrottled h then min t (d.fld (rClkTpll h) 10 0 - if d.thrLowers r h then 25 else 0)
    else t
  max 600 t

/-- The floor in W: FLOOR percent of P100, and no more than CAP (R345). -/
def Dev.floorW (d : Dev) (p100 : Nat) : Nat := min (d.fld rGovRamp 6 0 * p100 / 1000) (d.fld rGovCap 10 0)

/-- GOVERNOR_TICK (R338 to R349): one period of 10 µs. -/
def execGovernorTick (r : GovReading) (st : State) : Host.Outcome State Fault Refusal :=
  st.act fun d =>
    if !d.governorUp then d else
    let d := d.thrTick
    let d := d.setReg rGovPwr (r.p10us.toNat * 2 ^ 32 + r.p1ms.toNat * 2 ^ 16 + r.p100ms.toNat)
    let d := d.setReg rGovTemp (r.tempAnn.toNat * 2 ^ 16 + r.tempH1.toNat * 2 ^ 8 + r.tempH0.toNat)
    let d := forL ((List.range 8).zip r.tempStacks) (fun x d => d.setReg (rMemTemp x.1) x.2.toNat) d
    let d := d.setReg rGovPace (r.pace1.toNat * 2 ^ 4 + r.pace0.toNat)
    let d := (d.setFld (rClkTpll 0) 10 0 (d.targetOf r 0 r.target0.toNat)).setFld (rClkTpll 1) 10 0 (d.targetOf r 1 r.target1.toNat)
    let d := (d.setFlag rGovStatus 28 r.capped).setFlag rGovStatus 27 r.ramping
    let owed := d.fld rGovRamp 6 0 != 0 && !d.braked && !d.throttledAny
    let d := d.setFlag rGovStatus 26 (r.fill && d.fld rGovRamp 6 0 != 0 && !d.braked)
    let sat := owed && !r.floorMet
    let enter := sat && !d.sys.fillSat
    let d := { d with sys := { d.sys with fillSat := sat } }
    if !enter then d else
    (d.setFlag rGovStatus 25 true).record { part := none, cls := clsCorrected, cause := 0x504, block := 1,
                                            det := detail 0 0 0 0 (d.floorW r.p100ms.toNat) }

/-! ## The brake (R346 to R348) -/

/-- A corrected record of the governor. -/
def Dev.govRec (d : Dev) (cause value : Nat) : Dev :=
  d.record { part := none, cls := clsCorrected, cause, block := 1, det := detail 0 0 0 0 value }

/-- The brake is asserted, if it is not in force. -/
def Dev.assertBrake (d : Dev) : Dev :=
  if d.braked then d else
  let d := { d with sys := { d.sys with brakeSecs := 0 } }
  (((d.setFlag rGovStatus 31 true).setFlag rGovStatus 26 false).bump rGovBrakeCnt).govRec 0x500 0

/-- The brake is released: the writes that it held take effect. -/
def Dev.releaseBrake (d : Dev) : Dev :=
  let d := { d with sys := { d.sys with chatterHeld := false, pwrbrkHigh := true } }
  (d.setFlag rGovStatus 31 false).applyHeld

/-- The brake rules apply from READY (R357). -/
def Dev.brakeRuns (d : Dev) : Bool := d.governorUp && d.flag rHqDevstat 31

/-- BRAKE (R346): PWRBRK_N has been low for 20 µs. -/
def execBrake (st : State) : Host.Outcome State Fault Refusal :=
  st.act fun d =>
    let d := { d with sys := { d.sys with pwrbrkHigh := false } }
    if d.brakeRuns then d.assertBrake else d

/-- BRAKE_RELEASE (R346): PWRBRK_N has been high for 20 µs; not under chatter. -/
def execBrakeRelease (st : State) : Host.Outcome State Fault Refusal :=
  st.act fun d =>
    let d := { d with sys := { d.sys with pwrbrkHigh := true } }
    if d.braked && !d.sys.chatterHeld then d.releaseBrake else d

/-- BRAKE_CHATTER (R347): two falling edges within 50 µs assert the brake at once. -/
def execBrakeChatter (st : State) : Host.Outcome State Fault Refusal :=
  st.act fun d =>
    let d := { d with sys := { d.sys with pwrbrkHigh := false } }
    if !d.brakeRuns then d else
    let d := d.assertBrake
    if d.sys.chatterHeld then d else
    let d := { d with sys := { d.sys with chatterHeld := true } }
    (d.setFlag rGovStatus 30 true).govRec 0x501 0

/-- CHATTER_RELEASE (R347): PWRBRK_N has been high for 10 ms. -/
def execChatterRelease (st : State) : Host.Outcome State Fault Refusal :=
  st.act fun d => if d.braked && d.sys.chatterHeld then d.releaseBrake else d

/-- BRAKE_HELD_SECOND (R348). -/
def execBrakeHeldSecond (st : State) : Host.Outcome State Fault Refusal :=
  st.act fun d =>
    if !d.braked then d else
    let n := d.sys.brakeSecs + 1
    ({ d with sys := { d.sys with brakeSecs := n } } : Dev).govRec 0x500 n

/-! ## Thermal control (R349, R350) -/

/-- A die or stack as THROTTLE's record names it. -/
def thermCode : ThermSource → Nat
  | .h0 => 0
  | .h1 => 1
  | .annulus => 2
  | .stack x => 8 + x.val

/-- THROTTLE (R349). -/
def execThrottle (die : ThermSource) (st : State) : Host.Outcome State Fault Refusal :=
  st.act fun d =>
    let k := thermCode die
    if !d.governorUp || d.sys.throttled.contains k then d else
    let d := { d with sys := { d.sys with throttled := d.sys.throttled ++ [k] } }
    ((d.setFlag rGovStatus 29 true).bump rGovThrotCnt).govRec 0x502 k

/-- THROTTLE_RECOVER (R349). -/
def execThrottleRecover (die : ThermSource) (st : State) : Host.Outcome State Fault Refusal :=
  st.act fun d =>
    let throttled := d.sys.throttled.filter fun x => x != thermCode die
    ({ d with sys := { d.sys with throttled } } : Dev).setFlag rGovStatus 29 (!throttled.isEmpty)

/-! ## What outlives the core rails (R338, R350) -/

/-- The hard repairs of the stacks, with the spare rows that they take. -/
def Dev.hardRepairs (d : Dev) : List (Nat × Nat) := d.mem.repairs.filter fun e => e.2 == 1

/-- Stack of a repaired row's key. -/
def repairStack (key : Nat) : Nat := key / 2 ^ 27

/-- The registers that fuses and the module flash give at a cold reset. -/
def Dev.fusedRegs (d : Dev) : List (Nat × Nat) :=
  let c := d.cus
  let fw := forN 5 (fun k v => v + (b2n (d.bank k).active * 2 ^ 7 + b2n (d.bank k).next * 2 ^ 6) * 2 ^ (8 * k)) 0
  let owner := match d.sys.ownerFlash with
    | some o => [(rCusPrin 0, 2 ^ 127 + 2 ^ 121 + o.2.2)]
    | none => []
  let att := d.sys.attFlash
  [(rGlbId, 0xE4800010 + d.sys.variant * 2 ^ 12 + b2n c.killFuse * 2 ^ 8), (rGovCap, d.sys.ceilFlash * 2 ^ 16 + d.sys.ceilFlash),
   (rBootFw, fw), (rBootCfg, d.sys.bootProfile),
   (rCusStatus, b2n c.killFuse * 2 ^ 63 + b2n d.sys.ownerFlash.isSome * 2 ^ 60 + c.revoked * 2 ^ 56 + c.svnMin * 2 ^ 40),
   (rCusAtt, c.epoch * 2 ^ 53 + b2n (!att.2.2 || att.1 != c.epoch) * 2 ^ 41)] ++ owner

/-- The device at the start of a cold boot with the fuses, the module flash and the host's memory of `d`; everything else is
as after State.reset. -/
def Dev.cold (d : Dev) : Dev :=
  let z := Dev.reset
  let hard := d.hardRepairs
  let principals := match d.sys.ownerFlash with
    | some o => [{ k := 0, kek := o.1, mac := o.2.1, lockouts := 0, born := 0 : Principal }]
    | none => []
  let z := { z with
    hostMem := d.hostMem, fresh := d.fresh,
    mem := { z.mem with
      flash := d.mem.flash, repairs := hard,
      spares := forL hard (fun e (m : NatMap) => m.add (e.1 / 2 ^ 15) 1) [] },
    cus := { z.cus with
      epoch := d.cus.epoch, svnMin := d.cus.svnMin, revoked := d.cus.revoked, killFuse := d.cus.killFuse,
      principals, draws := d.cus.draws },
    sys := { z.sys with
      bootProfile := d.sys.bootProfile, banks := d.sys.banks, ceilFlash := d.sys.ceilFlash,
      ownerFlash := d.sys.ownerFlash, attFlash := d.sys.attFlash, pwrbrkHigh := d.sys.pwrbrkHigh,
      variant := d.sys.variant } }
  let z := forL d.fusedRegs (fun e (z : Dev) => z.setReg e.1 e.2) z
  forN 8 (fun x (z : Dev) =>
    z.setFld (rMemStk x) 47 32 (16384 - countIf (fun e => repairStack e.1 == x) hard)) z

/-- The core rails go down: all state is lost except fuses and module flash. The input controller, outside the dies, keeps
its range test (R338, R372). -/
def Dev.railsDown (d : Dev) : Dev :=
  let z := d.cold
  { z with sys := { z.sys with railsUp := false, stages := [], inputBad := d.sys.inputBad } }

/-- THERMTRIP (R350): THERMTRIP_N stays asserted until the input falls below 42 V. -/
def execThermtrip (st : State) : Host.Outcome State Fault Refusal :=
  st.act fun d =>
    let d := d.railsDown
    { d with sys := { d.sys with thermtrip := true } }

/-! ## The input (R338, R339, R372) -/

/-- The input controller's range test finds the input outside (true) or inside 46 to 58 V: it runs while the input is on, with
the core rails down too (R372). -/
def State.rangeTest (st : State) (bad : Bool) : State :=
  if st.dev.sys.inputOn && !st.dev.sys.railsUp then
    { st with dev := { st.dev with sys := { st.dev.sys with inputBad := bad } } }
  else st

/-- INPUT_RANGE (R338): the input enters the range of 42 to 46 V or of 58 to 60 V, in mV. -/
def execInputRange (mv : BitVec 16) (st : State) : Host.Outcome State Fault Refusal :=
  let out := decide (42000 ≤ mv.toNat ∧ mv.toNat ≤ 60000) && decide (mv.toNat < 46000 ∨ 58000 < mv.toNat)
  (if out then st.rangeTest true else st).act fun d =>
    let v := mv.toNat
    if v < 42000 ∨ (46000 ≤ v ∧ v ≤ 58000) ∨ 60000 < v then d else
    let enter := !d.sys.inputBad
    let d := ({ d with sys := { d.sys with inputBad := true } } : Dev).setReg rGovVin v
    if !enter then d
    else if d.governorUp then (d.setFlag rGovStatus 24 true).govRec 0x503 v
    else d.setFlag rGovStatus 24 true

/-- INPUT_RANGE_EXIT (R338): the input is within 46 to 58 V again. INPUT_RANGE stays until it is cleared. -/
def execInputRangeExit (mv : BitVec 16) (st : State) : Host.Outcome State Fault Refusal :=
  (if 46000 ≤ mv.toNat ∧ mv.toNat ≤ 58000 then st.rangeTest false else st).act fun d =>
    let v := mv.toNat
    if v < 46000 ∨ 58000 < v then d
    else ({ d with sys := { d.sys with inputBad := false } } : Dev).setReg rGovVin v

/-- INPUT_UNDERVOLTAGE (R338): the input falls below 42 V; what a trip or a rail failure latched is cleared. It acts with the
core rails down as well. -/
def execInputUndervoltage (st : State) : Host.Outcome State Fault Refusal :=
  let d := st.dev.railsDown
  .next { st with dev := { d with sys := { d.sys with inputOn := false } } }

/-- INPUT_OVERVOLTAGE (R338): the input is disconnected. -/
def execInputOvervoltage (st : State) : Host.Outcome State Fault Refusal :=
  let d := st.dev.railsDown
  .next { st with dev := { d with sys := { d.sys with
    inputOn := false, thermtrip := st.dev.sys.thermtrip, railLatched := st.dev.sys.railLatched } } }

/-- RAIL_FAIL (R339): a rail misses its time in stage 0x2; the module draws no more than 15 W until its input is removed. -/
def execRailFail (st : State) : Host.Outcome State Fault Refusal :=
  st.act fun d =>
    if !d.sys.stages.contains 2 then d else
    let d := d.railsDown
    { d with sys := { d.sys with railLatched := true } }

/-- COLD_RESET (R353): the input rises through 42 V, and boot starts at stage 0x1. -/
def execColdReset (st : State) : Host.Outcome State Fault Refusal := .next { st with dev := st.dev.cold }

/-! ## ALERT_N (R372) -/

/-- ALERT_N is asserted: the governor's sources, or before it runs the input controller's own range test. -/
def Dev.alert (d : Dev) : Bool :=
  if d.sys.railsUp && d.governorUp then
    d.flag rGovStatus 24 || d.braked || d.throttledAny || d.flag rHqDevstat 30
  else d.sys.inputOn && d.sys.inputBad

/-- THERMTRIP_N is asserted. -/
def Dev.thermtripPin (d : Dev) : Bool := d.sys.inputOn && d.sys.thermtrip

/-- The value of GLB_SIG (R378). -/
def Dev.glbSig (d : Dev) : Nat :=
  b2n d.sys.pwrbrkHigh * 2 ^ 15 + b2n d.alert * 2 ^ 14 + b2n (d.flag rHqDevstat 30) * 2 ^ 13 + b2n d.throttledAny * 2 ^ 12 +
    b2n d.braked * 2 ^ 11 + b2n (d.flag rGovStatus 24) * 2 ^ 10 + d.sys.slotId

end Sys2Proof.Machine
end

