-- ==== Sys2Proof/Machine/Boot.lean ====
section
/-! DEFINITION. Reset and boot: warm reset, the boot stages, firmware banks, the stack test, failures and recovery
(20_reset_boot.md, R353 to R364). -/

namespace Sys2Proof.Machine

/-! ## BOOT_STATUS -/

/-- Sets STAGE to the lowest-numbered stage in progress, if any. -/
def Dev.showStage (d : Dev) : Dev :=
  match d.sys.stages with
  | [] => d
  | s :: ss => d.setFld rBootStatus 63 60 (ss.foldl min s)

/-- Sets the stages in progress. -/
def Dev.setStages (d : Dev) (stages : List Nat) : Dev := ({ d with sys := { d.sys with stages } } : Dev).showStage

/-- BOOT_STATUS.FAIL. -/
def Dev.bootFailed (d : Dev) : Bool := d.flag rBootStatus 51

/-- The failure codes after which an image may be loaded (Table 20-4). -/
def recoverable (code : Nat) : Bool := code == 3 || code == 4 || code == 6 || code == 7 || code == 8 || code == 9

/-- Boot fails with a code: READY, FATAL with BOOT_FAIL, and the record in mailbox 16 (R362). PCI Express training alone may
still be in progress, or begin with the release of PERST_N. -/
def Dev.failBoot (d : Dev) (code : Nat) : Dev :=
  let d := d.showStage
  let d := ((d.setFld rBootStatus 59 52 code).setFlag rBootStatus 51 true).setFlag rBootStatus 50 (recoverable code)
  let d := (d.setFlag rHqDevstat 31 true).fatalDev 0x600
  let stages := if d.sys.ended.contains 10 then [] else if d.sys.perstHigh then [10] else []
  ({ d with sys := { d.sys with stages } } : Dev).mailLog 16 0 0x600 0

/-- A degradation: DEGRADED and the BOOT_DEGR bits of a mask, with a record in mailbox 16. -/
def Dev.degrade (d : Dev) (mask : Nat) : Dev :=
  if mask = 0 then d else
  let d := d.setReg rBootDegr (Nat.lor (d.reg rBootDegr) mask)
  (d.setFlag rBootStatus 49 true).mailLog 16 1 0x601 0

/-- BOOT_DEGR.STK_PC shows the stacks that have a pseudo-channel with PC_OK = 0. -/
def Dev.showStkPc (d : Dev) : Dev :=
  d.setFld rBootDegr 15 8 (forN 8 (fun x m => if d.fld (rMemStk x) 31 0 = 2 ^ 32 - 1 then m else m + 2 ^ x) 0)

/-! ## Firmware banks (R360) -/

/-- The image kinds, in BOOT_FW's order, that a stage verifies: 0 custody, 1 runtime, 2 governor, 3 ingest, 4 flash controller. -/
def stageKinds (stage : Nat) : List Nat :=
  match stage with
  | 5 => [0]
  | 6 => [2]
  | 8 => [3, 4]
  | _ => []

/-- The failure code of a kind. -/
def kindCode (k : Nat) : Nat :=
  match k with
  | 0 => 3
  | 1 => 8
  | 2 => 4
  | 3 => 7
  | _ => 6

/-- The NEXT bank of a kind becomes ACTIVE. -/
def Dev.useNext (d : Dev) (k : Nat) : Dev :=
  let b := d.bank k
  ((d.setBank { b with active := !b.active, next := false, staged := false }).setFlag rBootFw (8 * k + 7) (!b.active)).setFlag
    rBootFw (8 * k + 6) false

/-- The NEXT bank of a kind is refused: boot falls back to ACTIVE. -/
def Dev.fallBack (d : Dev) (k : Nat) : Dev := ((d.markNext k false).setFlag rBootFw (8 * k + 5) true).mailLog 16 1 0x602 0

/-- A NEXT bank that fails verification, or whose agent does not start, is refused. -/
def Dev.nextBad (d : Dev) (k : Nat) (e : StageEnd) : Bool :=
  e.nextFailed.getLsbD k || !d.imageOk (d.bank k).other || e.code.toNat == kindCode k

/-- The NEXT banks that a stage tries: the runtime's is verified in stage 0x8 and started in stage 0x9. -/
def Dev.tryBanks (d : Dev) (e : StageEnd) : Dev :=
  let s := e.stage.toNat
  let d := forL (stageKinds s) (fun k (d : Dev) =>
    if !(d.bank k).next then d else if d.nextBad k e then d.fallBack k else d.useNext k) d
  if !(d.bank 1).next then d
  else if s = 8 then (if d.nextBad 1 e then d.fallBack 1 else d)
  else if s = 9 then (if e.nextFailed.getLsbD 1 || e.code != 0 then d.fallBack 1 else d.useNext 1)
  else d

/-! ## Stages (R359) -/

/-- A stage may end with this code (Table 20-4). -/
def stageCodeOk (stage code : Nat) : Bool :=
  code == 0 || match stage with
  | 3 => code == 1
  | 4 => code == 2 || code == 5
  | 5 => code == 3
  | 6 => code == 4 || code == 5
  | 8 => code == 6 || code == 7 || code == 8
  | 9 => code == 9
  | _ => false

/-- Number of failing lines of pseudo-channel i (x * 32 + c). -/
def failedLines (e : StageEnd) (i : Nat) : Nat :=
  match e.badLines.find? fun b => b.1.val == i with
  | some b => b.2
  | none => 0

/-- Stage 0x7 of a cold boot: training, with its result in MEM_STK_x_STATUS, and every granule of every trained pseudo-channel
is zero (R183). Reset has left the rim memory empty. -/
def Dev.trainRim (d : Dev) (e : StageEnd) : Dev :=
  let d := forN 8 (fun x (d : Dev) =>
    let good := (List.range 32).filter fun c => decide (failedLines e (x * 32 + c) ≤ 2)
    let spared := good.foldl (fun n c => n + failedLines e (x * 32 + c)) 0
    let ok := good.foldl (fun m c => m + 2 ^ c) 0
    ((d.setFlag (rMemStk x) 63 true).setFld (rMemStk x) 62 56 spared).setFld (rMemStk x) 31 0 ok) d
  let d := { d with rim := [], mem := { d.mem with errs := [] } }
  d.showStkPc

/-- The rows under test on every stack: all PC_OK bits read 0 (R361). -/
def Dev.startTest (d : Dev) : Dev :=
  if d.fld rBootCfg 1 0 = 0 then d else
  let d := forN 8 (fun x (d : Dev) =>
    let d' := { d with sys := { d.sys with testing := d.sys.testing.set x (d.fld (rMemStk x) 31 0 + 1) } }
    d'.setFld (rMemStk x) 31 0 0) d
  (d.setFlag rBootDegr 2 true).showStkPc

/-- The device is ready: both last stages have ended. BOOT_US is measured by nothing the model holds: a free value (log 5). -/
def Dev.becomeReady (d : Dev) : Dev :=
  let t := d.takeFree
  ((((t.2.setFld rBootStatus 63 60 0xF).setFld rBootStatus 31 0 t.1).setFlag rHqDevstat 31 true)).startTest

/-- What a stage has done when it ends without a failure. -/
def Dev.stageEffect (d : Dev) (e : StageEnd) : Dev :=
  let lock (d : Dev) (n : Nat) : Dev := if d.flag (rClkPll n) 31 then d else d.pllLock n
  let cold := d.sys.coldBoot
  match e.stage.toNat with
  | 3 => d.refQual 0
  | 4 =>
    let d := if cold then { d with sys := { d.sys with slotId := e.slot.toNat } } else d
    lock (lock d 11) 12
  | 6 =>
    let d := forL [0, 1, 2, 3, 4, 5, 6, 7] (fun n (d : Dev) => lock d n) d
    let d := forL [0, 1] (fun k (d : Dev) =>
      if e.serdesBad.getLsbD k then d else lock (d.refQual (2 + k)) (8 + k)) d
    d.degrade (if e.serdesBad = 0 then 0 else 2 ^ 3)
  | 7 =>
    if cold then
      let d := d.trainRim e
      d.degrade (d.fld rBootDegr 15 8 * 2 ^ 8)
    else
      let d := d.clearCarve
      d.setFlag rBootDegr 0 (d.fld rCusStatus 15 0 != 0)
  | 9 =>
    let d := forN 16 (fun c (d : Dev) => d.setOnline c true) (d.setFlag rFlfStatus 63 true)
    let d := d.setFld rFlfStatus 55 48 (Config.imageSvn (d.bank 1).running)
    d.degrade (e.nandFailed.toNat * 2 ^ 24)
  | 10 => lock ((d.refQual 1).setReg rHqLink e.link.toNat) 10
  | _ => d

/-- The stages that begin when a stage has ended. -/
def Dev.nextStages (d : Dev) (s : Nat) : List Nat :=
  if s < 6 then [s + 1]
  else if s = 6 then [7, 8] ++ if d.sys.perstHigh then [10] else []
  else if (s = 7 ∨ s = 8) ∧ d.sys.ended.contains 7 ∧ d.sys.ended.contains 8 then [9]
  else []

/-- BOOT_STAGE_END (R359, R360, R362). -/
def execBootStageEnd (e : StageEnd) (st : State) : Host.Outcome State Fault Refusal :=
  st.act fun d =>
    let s := e.stage.toNat
    if !d.sys.stages.contains s || !stageCodeOk s e.code.toNat then d else
    let d := d.tryBanks e
    if e.code ≠ 0 then d.failBoot e.code.toNat else
    let d := { d with sys := { d.sys with ended := d.sys.ended ++ [s] } }
    let d := d.stageEffect e
    if d.bootFailed then { d with sys := { d.sys with stages := [] } } else
    let d := d.setStages ((d.sys.stages.filter fun x => x != s) ++ d.nextStages s)
    if d.sys.ended.contains 9 && d.sys.ended.contains 10 then d.becomeReady else d

/-- DEADLINE (R362): 990 ms after the release of PERST_N. -/
def execDeadline (st : State) : Host.Outcome State Fault Refusal :=
  st.act fun d => if d.flag rHqDevstat 31 || !d.sys.perstHigh || d.sys.stages.isEmpty then d else d.failBoot 0xA

/-! ## Warm reset (R353 to R357) -/

/-- A warm reset begins: the fetcher stops, doorbells are dropped and the link goes down. One that comes before its entry has
ended merges into it. -/
def Dev.beginWarm (d : Dev) (kind : Nat) : Dev :=
  if d.sys.warmPending.isSome then d else
  let d := { d with sys := { d.sys with warmPending := some kind, stages := [] } }
  (d.setFlag rHqDevstat 31 false).setReg rHqLink 0

/-- A cold boot has passed stage 0x6, or the boot is a warm one. -/
def Dev.pastStage6 (d : Dev) : Bool := !d.sys.coldBoot || d.sys.ended.contains 6

/-- The registers that a warm reset keeps (R356): the governor's, the boot profile's, those of custody and the references and PLLs
of the stages that do not run again; with their kept fields. -/
def keptRegs : List (Nat × Nat × Nat) :=
  [(rGovCap, 31, 0), (rGovRamp, 31, 0), (rGovBrake, 31, 0), (rGovTherm, 31, 0), (rClkTpll 0, 26, 16), (rClkTpll 1, 26, 16),
   (rBootCfg, 31, 0), (rGlbId, 31, 0), (rClkTbAdj, 31, 0), (rClkTbStat, 31, 31), (rClkTbStat, 29, 29), (rClkRef 0, 31, 31),
   (rClkRef 0, 29, 29), (rClkPll 11, 31, 30), (rClkPll 11, 15, 0), (rClkPll 12, 31, 30), (rClkPll 12, 15, 0),
   (rMemCfg, 20, 16), (rCusStatus, 63, 0), (rCusAtt, 63, 0), (rCusAuthfail, 31, 0), (rCusReplay, 31, 0), (rCusPrin 0, 127, 0),
   (rBootFw, 7, 0), (rBootFw, 15, 14), (rBootFw, 23, 22), (rBootFw, 31, 30), (rBootFw, 39, 38)] ++
  (List.range 8).map fun x => (rMemStk x, 63, 0)

/-- PC_OK of the stacks under test is what it was before the test. -/
def Dev.endTests (d : Dev) : Dev :=
  forL d.sys.testing (fun e (d : Dev) => d.setFld (rMemStk e.1) 31 0 (e.2 - 1)) { d with sys := { d.sys with testing := [] } }

/-- Global sectors whose partition a warm reset ends, or that were dirty. -/
def Dev.dirtyAfterWarm (d : Dev) : Nat :=
  forN 16 (fun p m => if d.partValid p then Nat.lor m (d.sectors p) else m) (d.fld rCusStatus 15 0)

/-- The device as boot resumes at stage 0x6 (R355, R356): partitions, key slots, sessions and everything in flight are gone; rim
contents, training, repairs, custody's other state and the time base stay. -/
def Dev.warmed (d : Dev) (kind : Nat) : Dev :=
  let d := d.endTests.applyHeld
  let z := Dev.reset
  let carve := d.fld rMemCfg 20 16
  let dirty := if carve = d.sys.carve then d.dirtyAfterWarm else 2 ^ 16 - 1
  let regs := (forL keptRegs (fun e (z : Dev) => z.setFld e.1 e.2.1 e.2.2 (d.fld e.1 e.2.1 e.2.2)) z).regs
  let z := { z with
    regs, fresh := d.fresh, rim := d.rim, hostMem := d.hostMem, nextReq := d.nextReq,
    istore := d.istore, fill := d.fill, ls := d.ls, vregs := d.vregs, pregs := d.pregs, aregs := d.aregs, accs := d.accs,
    pds := d.pds, pvs := d.pvs, wds := d.wds, cells := d.cells, dcnt := d.dcnt, rng := d.rng,
    mem := { z.mem with errs := d.mem.errs, repairs := d.mem.repairs, spares := d.mem.spares, flash := d.mem.flash },
    cus := { d.cus with
      principals := d.cus.principals.filter fun (x : Principal) => x.k == 0,
      reports := d.cus.reports.filter fun (r : Report) => decide (16 ≤ r.part),
      slotKeys := [], erasing := [], seals := [] },
    hq := { z.hq with nextSeq := d.hq.nextSeq },
    sys := { z.sys with
      tb := d.sys.tb, tbFrac := d.sys.tbFrac, negStep := d.sys.negStep, inputBad := d.sys.inputBad,
      pwrbrkHigh := d.sys.pwrbrkHigh, perstHigh := d.sys.perstHigh, stages := [6],
      coldBoot := false, bootProfile := d.sys.bootProfile, banks := d.sys.banks, ceilFlash := d.sys.ceilFlash,
      ownerFlash := d.sys.ownerFlash, attFlash := d.sys.attFlash, carve } }
  let z := (z.setFld rCusStatus 15 0 dirty).setFlag rGovStatus 24 d.sys.inputBad
  let z := (z.setFld rBootStatus 63 60 6).setFld rBootStatus 48 46 kind
  z.showStkPc

/-- WARM_RESET_ENTRY (R355): the entry has run its course, and boot resumes. -/
def execWarmResetEntry (st : State) : Host.Outcome State Fault Refusal :=
  st.act fun d =>
    match d.sys.warmPending with
    | none => d
    | some k => d.warmed k

/-- PERST_N_FALL (R354): PERST_N falls and stays low for 1 µs. Until a cold boot has passed stage 0x6 it only gates the PCI Express
controller. -/
def execPerstFall (st : State) : Host.Outcome State Fault Refusal :=
  st.act fun d =>
    let early := !d.pastStage6
    let d := { d with sys := { d.sys with perstHigh := false } }
    if early then ({ d with sys := { d.sys with stages := d.sys.stages.filter fun s => s != 10 } } : Dev) else d.beginWarm 1

/-- PERST_N_RELEASE (R354, R359): stage 0xA begins once stage 0x6 has ended, or boot has failed. -/
def execPerstRelease (st : State) : Host.Outcome State Fault Refusal :=
  st.act fun d =>
    let d := { d with sys := { d.sys with perstHigh := true } }
    if (d.sys.ended.contains 6 || d.bootFailed) && !d.sys.ended.contains 10 && !d.sys.stages.contains 10 &&
        d.sys.warmPending.isNone then
      if d.bootFailed then { d with sys := { d.sys with stages := d.sys.stages ++ [10] } } else d.setStages (d.sys.stages ++ [10])
    else d

/-- HOT_RESET (R353): PCI Express Hot Reset or Link Disable is received, over a link that is up. -/
def execHotReset (st : State) : Host.Outcome State Fault Refusal :=
  st.act fun d => if d.pastStage6 && d.sys.perstHigh && d.sys.ended.contains 10 then d.beginWarm 2 else d

/-- A write of BOOT_CTRL: it acts only with 0xA5 in bits [15:8] (R364). -/
def Dev.writeBootCtrl (d : Dev) (v : Nat) : Dev := if bits v 15 8 = 0xA5 ∧ bit v 0 then d.beginWarm 3 else d

/-- WARM (R364): a write of BOOT_CTRL. -/
def execWarm (v : BitVec 32) (st : State) : Host.Outcome State Fault Refusal :=
  st.act fun d => if d.hostUp then d.writeBootCtrl v.toNat else d

/-! ## The boot profile and the stack test (R361, R364) -/

/-- A write of BOOT_CFG: stored in the boot profile; STACK_TEST 3 keeps the old value. -/
def Dev.writeBootCfg (d : Dev) (v : Nat) : Dev :=
  if bits v 1 0 = 3 then d
  else ({ d with sys := { d.sys with bootProfile := bits v 1 0 } } : Dev).setReg rBootCfg (bits v 1 0)

/-- BOOT_CFG (R364). -/
def execBootCfg (v : BitVec 32) (st : State) : Host.Outcome State Fault Refusal :=
  st.act fun d => if d.hostUp then d.writeBootCfg v.toNat else d

/-- A failing row of stack x (pseudo-channel, die, bank, row) receives a soft repair and posts REPAIR_CAND; false where its bank has
no spare row left. -/
def Dev.softRepair (d : Dev) (x pc die bank row : Nat) : Dev × Bool :=
  let bk := bankKey x pc die bank
  let gidx := row * 2 ^ 11 + die * 2 ^ 8 + bank * 2 ^ 4
  let d := d.record { part := none, cls := clsCorrected, cause := 0x39, block := 9, unit := x,
                      det := detail (rimAddr x pc gidx) 0 0 0 (row * 128 + die * 16 + bank) }
  if 4 ≤ d.mem.spares.get bk then (d, false) else
  let d := d.setFld (rMemStk x) 47 32 (d.fld (rMemStk x) 47 32 - 1)
  ({ d with mem := { d.mem with spares := d.mem.spares.add bk 1, repairs := d.mem.repairs ++ [(bk * 2 ^ 15 + row, 0)] } }, true)

/-- STACK_TEST_END (R361): the test of stack x ends. A failing row is its pseudo-channel (bits 26 to 22), die, bank and row. -/
def execStackTestEnd (x : Fin 8) (failed : List (BitVec 27)) (st : State) : Host.Outcome State Fault Refusal :=
  st.act fun d =>
    let x := x.val
    let saved := d.sys.testing.get x
    if saved = 0 then d else
    let r := forL failed (fun f (y : Dev × Nat) =>
      let v := f.toNat
      let pc := v / 2 ^ 22
      if !bit (saved - 1) pc then y else
      let r := y.1.softRepair x pc (v / 2 ^ 19 % 8) (v / 2 ^ 15 % 16) (v % 2 ^ 15)
      (r.1, if r.2 then y.2 else setBits y.2 pc pc 0)) (d, saved - 1)
    let d := r.1
    let d := { d with sys := { d.sys with testing := d.sys.testing.set x 0 } }
    let d := d.setFld (rMemStk x) 31 0 r.2
    let d := if r.2 = saved - 1 then d else d.setFlag rBootDegr 1 true
    let d := forL [2 * x, 2 * x + 1] (fun g (d : Dev) => d.zeroRim (g * sectorBytes) ((g + 1) * sectorBytes - d.carveBytes)) d
    (d.setFlag rBootDegr 2 (!d.sys.testing.isEmpty)).showStkPc

/-! ## Recovery (R363) -/

/-- Size in KiB of a kind's bank (Table 20-3). -/
def bankKib (k : Nat) : Nat :=
  match k with
  | 1 => 65536
  | 3 => 4096
  | 4 => 4096
  | _ => 2048

/-- A write of BOOT_RCV_CTL: KIND and LEN within their ranges, then GO, which is ignored while BUSY = 1 or RECOVERY = 0. -/
def Dev.writeRcvCtl (d : Dev) (v : Nat) : Dev :=
  let kind := if bits v 26 24 ≤ 4 then bits v 26 24 else d.fld rBootRcvCtl 26 24
  let len := if 1 ≤ bits v 16 0 ∧ bits v 16 0 ≤ bankKib kind then bits v 16 0 else d.fld rBootRcvCtl 16 0
  let d := (d.setFld rBootRcvCtl 26 24 kind).setFld rBootRcvCtl 16 0 len
  if bit v 31 && !d.flag rBootRcvCtl 30 && d.flag rBootStatus 50 then d.setFld rBootRcvCtl 30 28 4 else d

/-- GO (R363). -/
def execGo (v : BitVec 32) (st : State) : Host.Outcome State Fault Refusal :=
  st.act fun d => if d.hostUp then d.writeRcvCtl v.toNat else d

/-- RECOVERY_LOAD_DONE (R363): the LEN KiB that host memory gave are verified and written to the inactive bank. -/
def execRecoveryLoadDone (image : List Byte) (flashOk : Bool) (st : State) : Host.Outcome State Fault Refusal :=
  st.act fun d =>
    if !d.flag rBootRcvCtl 30 then d else
    let k := d.fld rBootRcvCtl 26 24
    let image := image.take (d.fld rBootRcvCtl 16 0 * 1024)
    if !d.imageOk image then d.setFld rBootRcvCtl 30 28 2
    else if !flashOk then d.setFld rBootRcvCtl 30 28 3
    else ((d.setBank { (d.bank k).writeOther image with staged := false }).markNext k true).setFld rBootRcvCtl 30 28 1

end Sys2Proof.Machine
end

