-- ==== Sys2Proof/Machine/Validate.lean ====
section
/-! DEFINITION. Program validation: the image header, the checks of Table 02-8 on each bundle, on the paths through an
image and on its branch tables (02_scangathen_bundle.md, R51, R52, R388; 03_scangathen_operations.md, R81 and
Table 03-18; 04_hinges.md, R87). -/

namespace Sys2Proof.Machine

/-! ## Op fields -/

/-- An op field of a bundle: kind (0 prism, 1 lane, 2 load/store, 3 wedge/move, 4 Barrov, 5 transfer, 6 ingest), sector
slot, first bundle bit and word. -/
structure OpField where
  kind : Nat
  slot : Nat
  base : Nat
  word : Nat
deriving DecidableEq, Repr

/-- The opcode of an op field. -/
def OpField.opc (o : OpField) : Nat := o.word % 256

/-- Bits of an op field's operands. -/
def OpField.fld (o : OpField) (hi lo : Nat) : Nat := bits o.word hi lo

/-- Width in bits of an op field of a kind; the transfer slot's op field ends before qsect (Tables 02-3, 02-4). -/
def opWidth (kind : Nat) : Nat := [96, 128, 96, 64, 256, 192, 128].getD kind 0

/-- The highest opcode of a kind (Tables 03-3, 03-10, 03-13 to 03-17). -/
def opTop (kind : Nat) : Nat := [4, 0x1C, 0xA, 5, 5, 8, 3].getD kind 0

/-- The op fields of a bundle, in increasing bit order. -/
def opFields (b : Nat) : List OpField :=
  let f (kind slot base : Nat) : OpField := { kind, slot, base, word := bundleFld b base (opWidth kind) }
  ((List.range 8).flatMap fun i => [f 0 i (slotBase i), f 1 i (slotBase i + 96), f 2 i (slotBase i + 224), f 3 i (slotBase i + 320)]) ++
    [f 4 0 3392, f 5 0 3648, f 6 0 3904]

/-- The op fields that are not all zero. -/
def opsOf (b : Nat) : List OpField := (opFields b).filter fun o => o.word != 0

/-- Bit ranges (highest, lowest) that are reserved in an op (Tables 03-1, 03-4, 03-7, 03-9, 03-13 to 03-17); every bit
above the opcode in a NOP (R35). -/
def reservedBits (kind opc : Nat) : List (Nat × Nat) :=
  if opc = 0 then [(opWidth kind - 1, 8)] else
  match kind, opc with
  | 0, 1 => [(27, 27), (59, 56), (95, 88)]
  | 0, 2 => [(95, 12)]
  | 0, _ => [(95, 39)]
  | 1, _ => [(127, 100)]
  | 2, 4 => [(95, 61)]
  | 2, 5 => [(95, 61)]
  | 2, 6 => [(95, 34)]
  | 2, 7 => [(95, 33)]
  | 2, 8 => [(95, 37)]
  | 2, 9 => [(45, 42), (95, 69)]
  | 2, 0xA => [(45, 42), (95, 68)]
  | 2, _ => [(95, 58)]
  | 3, 1 => [(63, 25)]
  | 3, 2 => [(12, 8), (18, 18), (63, 52)]
  | 3, 3 => [(12, 11), (63, 18)]
  | 3, 4 => [(63, 17)]
  | 3, _ => [(63, 11)]
  | 4, _ => [(255, 196)]
  | 5, 1 => [(117, 66), (191, 151)]
  | 5, 2 => [(191, 176)]
  | 5, 3 => [(191, 179)]
  | 5, 4 => [(191, 179)]
  | 5, 5 => [(13, 8), (191, 92)]
  | 5, 6 => [(191, 39)]
  | 5, 7 => [(191, 59)]
  | 5, _ => [(13, 8), (117, 66), (191, 150)]
  | 6, 1 => [(127, 85)]
  | 6, 2 => [(13, 8), (67, 16), (127, 84)]
  | _, _ => [(15, 8), (84, 68), (95, 92)]

/-! ## What a context gives the checks -/

/-- What validation knows of the context an image is for: its range (first index, first beyond), the sector slots its
partition owns there, whether the partition has the hemisphere's box unit and owns sectors on both hemispheres. -/
structure ValCtx where
  lo : Nat
  top : Nat
  slots : List Nat
  box : Bool
  two : Bool
deriving DecidableEq, Repr

/-- What validation knows of context n of hemisphere h of partition p. -/
def Dev.valCtx (d : Dev) (p h n : Nat) : ValCtx :=
  let rg := d.isRange h n
  { lo := rg.1, top := rg.2, slots := (List.range 8).filter fun i => d.holds p (h * 8 + i),
    box := d.flag (rPrtCfg p) (52 + h), two := (d.ctxsOf p).length == 2 }

/-- An index lies in the context's range. -/
def ValCtx.has (x : ValCtx) (i : Nat) : Bool := decide (x.lo ≤ i ∧ i < x.top)

/-- The sequential successor of an index (R48). -/
def ValCtx.next (x : ValCtx) (i : Nat) : Nat := if i + 1 = x.top then x.lo else i + 1

/-! ## The checks on one bundle, each the lowest offending bundle bit -/

/-- The lowest bit of a number that is 1. -/
def lowBit (v : Nat) : Nat := ((List.range (v.log2 + 1)).find? fun i => v.testBit i).getD 0

/-- The least of some bundle bits. -/
def leastOf (l : List Nat) : Option Nat := l.foldl (fun m x => some (match m with | none => x | some y => min x y)) none

/-- The lowest 1 bit from lo to hi of a bundle. -/
def onesIn (b hi lo : Nat) : List Nat :=
  let v := bits b hi lo
  if v = 0 then [] else [lo + lowBit v]

/-- Reason 0x04 (R37). The spec names no bit for a mismatch of the check bits as a whole; the lowest of them that differs
from its computed value is reported (DESIGN CHOICE, log 96). -/
def checkBit (b : Nat) : Option Nat :=
  let v := Nat.xor (bundleCrc b) (b % 2 ^ 16)
  if v = 0 then none else some (lowBit v)

/-- Reason 0x05: a reserved bit is 1, or a NOP has another bit than its opcode's. -/
def reservedBit (b : Nat) : Option Nat :=
  let h := decHeader b
  leastOf (onesIn b 63 52 ++ (if h.lop != 1 && h.ldi != 0 then [34] else []) ++
    (match h.hsel with
      | 0 => onesIn b 4095 4032
      | 1 => onesIn b 4039 4037 ++ onesIn b 4095 4048
      | 2 => onesIn b 4095 4049
      | _ => []) ++
    onesIn b 3903 3896 ++
    ((List.range 8).flatMap fun i => onesIn b (slotBase i + 415) (slotBase i + 400)) ++
    ((opsOf b).flatMap fun o =>
      if opTop o.kind < o.opc then []
      else (reservedBits o.kind o.opc).flatMap fun r => onesIn b (o.base + r.1) (o.base + r.2)))

/-- Reason 0x06: an undefined opcode. -/
def opcodeBit (b : Nat) : Option Nat := leastOf ((opsOf b).filterMap fun o => if opTop o.kind < o.opc then some o.base else none)

/-- Reason 0x07: a reserved format code, or E8M0 outside CVT. -/
def formatBit (b : Nat) : Option Nat :=
  leastOf ((opsOf b).flatMap fun o =>
    match o.kind, o.opc with
    | 0, 1 => (if 0xB ≤ o.fld 11 8 then [o.base + 8] else []) ++ if 0xB ≤ o.fld 15 12 then [o.base + 12] else []
    | 1, 0x12 => if 0xC ≤ o.fld 85 82 then [o.base + 82] else []
    | 4, 0 => []
    | 4, _ => if 0xB ≤ o.fld 25 22 then [o.base + 22] else []
    | _, _ => [])

/-- The LA operands of an op: its first bit and the bytes it covers in one issue (R63, R76, Table 03-13). -/
def opLas (o : OpField) : List (Nat × Nat) :=
  match o.kind, o.opc with
  | 0, 1 =>
    let k := kps16 (o.fld 11 8) (o.fld 15 12) (bit o.word 18)
    let eb := fmtBits (o.fld 15 12) * k
    [(28, fmtBits (o.fld 11 8) * k), (60, if bit o.word 18 then eb / 2 else eb)]
  | 0, 3 => [(11, 64)]
  | 0, 4 => [(11, 256)]
  | 2, 1 => [(30, 2 ^ o.fld 20 19 * if o.fld 22 21 = 2 then 512 else 256)]
  | 2, 2 => [(30, 2 ^ o.fld 20 19 * if o.fld 22 21 = 2 then 512 else 256)]
  | 2, 3 => [(30, 2 ^ o.fld 20 19)]
  | 2, 8 => [(9, 1024)]
  | 2, 9 => [(14, if o.fld 61 46 = 0 then 65536 else o.fld 61 46)]
  | 2, 0xA => [(14, if o.fld 61 46 = 0 then 65536 else o.fld 61 46)]
  | _, _ => []

/-- The B operand of an MMA travels on the wedge/move path (R64). -/
def mmaWide (o : OpField) : Bool :=
  bit o.word 18 || decide (256 < ((opLas o).map Prod.snd).foldl (· + ·) 0)

/-- The highest sub-function a lane op defines (Tables 03-10, 03-11). -/
def subTop (opc : Nat) : Nat :=
  match opc with
  | 0x0E => 6
  | 0x0F => 3
  | 0x11 => 2
  | 0x12 => 1
  | 0x13 => 5
  | 0x14 => 3
  | 0x15 => 1
  | 0x1A => 1
  | 0x1B => 1
  | 0x1C => 1
  | _ => 7

/-- Formats that stochastic rounding serves (R67, R108). -/
def srFmt (f : Nat) : Bool := decide (1 ≤ f ∧ f ≤ 4)

/-- The offending fields of a lane op (Table 03-18, R108, R120), each its lowest relative bit. -/
def laneLimits (o : OpField) : List Nat :=
  let c (bad : Bool) (at_ : Nat) : List Nat := if bad then [at_] else []
  let opc := o.opc
  let vd := o.fld 18 13
  let lt := o.fld 48 47
  let rnd := o.fld 87 86
  let sub := o.fld 95 93
  let m := o.fld 98 96 + 1
  let e := o.fld 60 50
  let k := o.fld 76 61
  c (rnd == 3) 86 ++ c (decide (subTop opc < sub)) 93 ++
  (match opc with
    | 0x16 => c (decide (60 < vd)) 13
    | 0x17 => c (decide (64 < vd + 2 * m)) 13
    | 0x18 => c (decide (64 < o.fld 24 19 + m)) 19 ++ c (decide (64 < vd + sub + 1)) 13 ++ c (decide (m < sub + 1)) 93 ++
        c (e == 0 || decide (1024 < e) || k == 0) 50
    | 0x13 => c (lt != 0) 47 ++ c (rnd != 0) 86
    | 0x14 => c (lt == 1) 47 ++ c (sub == 0 && rnd == 1) 86
    | 0x0E => c (lt == 1) 47
    | 0x12 => c (lt == 1 && o.fld 85 82 == 0) 47 ++ c (rnd == 1 && !srFmt (o.fld 85 82)) 86
    | _ => c (decide (opc ≤ 4) && rnd == 1 && lt != 1) 86)

/-- The offending fields of an op that is no lane op (Table 03-18, R81), as bundle bits. The row headed Transfer, Barrov
names IROI, but not ITAKE: the dpi of an ITAKE whose dst has bv = 0 is not rejected, and does not act (DESIGN CHOICE, log
96). -/
def opLimits (b : Nat) (o : OpField) : List Nat :=
  let c (bad : Bool) (at_ : Nat) : List Nat := if bad then [at_] else []
  let at_ (l : List Nat) : List Nat := l.map fun x => o.base + x
  let rpt1 := (decHeader b).rpt + 1
  ((opLas o).flatMap fun la => if bit o.word (la.1 + 27) && !bit o.word (la.1 + 26) then [o.base + la.1] else []) ++
  (match o.kind, o.opc with
    | 0, 1 =>
      let fa := o.fld 11 8
      let fb := o.fld 15 12
      let sp := bit o.word 18
      let ok (f : Nat) : Bool := f == 1 || f == 3 || f == 4 || f == 7
      let mx (f : Nat) : Bool := decide (3 ≤ f ∧ f ≤ 7)
      let k := kps16 fa fb sp
      c (rpt1 * kps16 fa fb false % 16 != 0) 16 ++
      at_ (c (sp && (!ok fa || !ok fb || rpt1 * k % 64 != 0)) 18 ++ c (bit o.word 19 && (!mx fa || !mx fb || k == 64)) 19) ++
      c (mmaWide o && bundleFld b (o.base + 320) 64 != 0) (o.base + 320)
    | 0, 4 => at_ (c (o.fld 9 8 == 3) 8)
    | 1, 0 => []
    | 1, _ => at_ (laneLimits o)
    | 2, 1 => lsLimits o c at_
    | 2, 2 => lsLimits o c at_
    | 2, 3 => lsLimits o c at_
    | 4, 0 => []
    | 4, k =>
      at_ (c (o.fld 163 132 == 0) 132 ++ c (o.fld 27 26 == 3) 26 ++ c (decide (k ≤ 2) && decide (1 < o.fld 25 22)) 22 ++
        c (k == 5 && o.fld 181 166 == 0) 166 ++ c (bit o.word 164 && !bit o.word 79) 164 ++
        c (bit o.word 165 && !bit o.word 131) 165)
    | 5, 1 => at_ (c (o.fld 149 118 == 0) 118 ++ c (bit o.word 150 && !bit o.word 65) 150)
    | 5, 2 => at_ (xferLimits o c)
    | 5, 3 => at_ (xferLimits o c ++ c (o.fld 175 152 == 0 || o.fld 149 118 % o.fld 175 152 != 0) 152)
    | 5, 4 => at_ (xferLimits o c ++ c (o.fld 175 152 == 0 || o.fld 149 118 % o.fld 175 152 != 0) 152)
    | 5, 8 => at_ (c (o.fld 149 118 == 0) 118)
    | 6, 3 => at_ (c (decide (64 < o.fld 91 85)) 85)
    | _, _ => [])
where
  /-- LDV, STV and LDB. -/
  lsLimits (o : OpField) (c : Bool → Nat → List Nat) (at_ : List Nat → List Nat) : List Nat :=
    at_ (c (o.fld 20 19 == 3 || decide (1024 < 2 ^ o.fld 20 19 * if o.fld 22 21 = 2 then 512 else 256)) 19 ++
      c (o.fld 22 21 == 3) 21)
  /-- The len and post-increments of XFER, GATHER and SCATTER. -/
  xferLimits (o : OpField) (c : Bool → Nat → List Nat) : List Nat :=
    c (o.fld 149 118 == 0) 118 ++ c (bit o.word 150 && !bit o.word 65) 150 ++ c (bit o.word 151 && !bit o.word 117) 151

/-- The condition writes of a bundle that R75 refuses. -/
def condClash (os : List OpField) : List Nat :=
  let ws := os.filter fun o => o.kind == 1 && decide (0x1A ≤ o.opc)
  let same (a o : OpField) : Bool := a.fld 92 89 == o.fld 92 89
  ws.filterMap fun o =>
    let g := ws.filter (same o)
    let cs := g.filter fun a => a.opc == 0x1A && o.opc == 0x1A && a.fld 50 50 == o.fld 50 50
    if (decide (1 < g.length) && g.any fun a => a.opc == 0x1B) || cs.any (fun a => a.fld 95 93 != o.fld 95 93) then
      some (o.base + 89) else none

/-- Reason 0x08: a limit of Table 03-18, or a reserved value of an operand field (R81). -/
def limitBit (b : Nat) : Option Nat :=
  let os := (opsOf b).filter fun o => decide (o.opc ≤ opTop o.kind)
  let boxes := os.filter fun o => o.kind == 3 && o.opc == 5
  leastOf ((os.flatMap fun o => if o.opc = 0 then [] else opLimits b o) ++ (if 1 < boxes.length then boxes.map OpField.base else []) ++
    condClash os)

/-- Reason 0x09 (R47, R161, R386). -/
def unownedBit (x : ValCtx) (b : Nat) : Option Nat :=
  let out (i : Nat) : Bool := !x.slots.contains i
  leastOf (((List.range 8).flatMap fun i => if out i then onesIn b (slotBase i + 415) (slotBase i) else []) ++
    ((List.range 8).filterMap fun i => if b.testBit (3840 + i) && out i then some (3840 + i) else none) ++
    (if bundleFld b 3648 8 = 2 then
      (List.range 8).filterMap fun i => if b.testBit (3648 + 152 + i) && out i then some (3648 + 152 + i) else none
     else []) ++
    (if x.box then [] else (opsOf b).filterMap fun o => if o.kind == 3 && o.opc == 5 then some o.base else none))

/-- Reason 0x0A: an immediate address whose static extent reaches unbacked local store. -/
def unbackedBit (b : Nat) : Option Nat :=
  leastOf ((opsOf b).flatMap fun o => (opLas o).filterMap fun la =>
    if !bit o.word (la.1 + 26) && decide (lsTop < o.fld (la.1 + 20) la.1 + la.2) then some (o.base + la.1) else none)

/-- Reason 0x0D (R50). -/
def spanBit (x : ValCtx) (b : Nat) : Option Nat :=
  if x.two then none else if b.testBit 42 then some 42 else if b.testBit 47 then some 47 else none

/-- Reason 0x0E. -/
def streamBit (x : ValCtx) (b : Nat) : Option Nat :=
  let h := decHeader b
  if h.hsel ≠ 2 then none else
  let t := bits h.hinge 16 4
  match h.hinge % 16 with
  | 1 => if x.has t then none else some 4036
  | 2 => if t = 0 then none else some 4036
  | _ => some 4032

/-- The checks that a streamed bundle undergoes (R388): the reason of the first it fails. -/
def streamedReason (x : ValCtx) (b : Nat) : Option Nat :=
  ([(0x4, checkBit b), (0x5, reservedBit b), (0x6, opcodeBit b), (0x7, formatBit b), (0x8, limitBit b), (0x9, unownedBit x b),
    (0xA, unbackedBit b), (0xC, if (decHeader b).hsel = 3 then some 40 else none), (0xD, spanBit x b),
    (0xE, streamBit x b)].find? fun r => r.2.isSome).map Prod.fst

/-! ## Images (R51) -/

/-- A program image: its header fields and the parts it locates. -/
structure Image where
  sectors : Nat
  flags : Nat
  base : Nat
  count : Nat
  entry : Nat
  ldoff : Nat
  tboff : Nat
  ldescs : List Nat
  tabs : List Nat
  bundles : List Nat
deriving DecidableEq, Repr

/-- The offset of the header field by which an image fails reason 0x01. -/
def formatError (m : List Byte) : Option Nat :=
  let n := m.length
  let nloop := leAt m 0x0E 1
  let ntab := leAt m 0x10 2
  let count := leAt m 0x0A 2
  let bd := leAt m 0x28 8
  firstOf [(decide (n < 64), 0), (leAt m 0 4 != 0x53474E31, 0), (leAt m 4 2 != 1, 4), (leAt m 7 1 / 2 != 0, 7),
    (count == 0 || decide (8192 < count), 0x0A), (decide (64 < nloop), 0x0E), (leAt m 0x0F 1 != 0, 0x0F),
    (decide (256 < ntab), 0x10), (leAt m 0x12 6 != 0, 0x12),
    (nloop != 0 && decide (n < leAt m 0x18 8 + 8 * nloop), 0x18), (ntab != 0 && decide (n < leAt m 0x20 8 + 32 * ntab), 0x20),
    (bd % 512 != 0 || decide (n < bd + 512 * count), 0x28), (leAt m 0x30 16 != 0, 0x30)]
where
  /-- The first entry whose condition holds. -/
  firstOf (l : List (Bool × Nat)) : Option Nat := (l.find? fun x => x.1).map Prod.snd

/-- The parts of an image (Table 02-7). -/
def parseImage (m : List Byte) : Image :=
  let ld := leAt m 0x18 8
  let tb := leAt m 0x20 8
  let bd := leAt m 0x28 8
  { sectors := leAt m 6 1, flags := leAt m 7 1, base := leAt m 8 2, count := leAt m 0x0A 2, entry := leAt m 0x0C 2, ldoff := ld,
    tboff := tb, ldescs := (List.range (leAt m 0x0E 1)).map fun i => leAt m (ld + 8 * i) 8,
    tabs := (List.range (leAt m 0x10 2)).map fun i => leAt m (tb + 32 * i) 32,
    bundles := (List.range (leAt m 0x0A 2)).map fun i => leAt m (bd + 512 * i) 512 }

/-- The bundle an image loads at an index. -/
def Image.bundle (m : Image) (i : Nat) : Option Nat := if i < m.base then none else m.bundles[i - m.base]?

/-- Descriptor d, 0 beyond NLOOP. -/
def Image.desc (m : Image) (d : Nat) : Nat := m.ldescs.getD d 0

/-! ## Branch tables (Tables 04-1, 04-2) -/

/-- A successor field. -/
structure Succ where
  empty : Bool
  valid : Bool
  last : Nat
  first : Nat
  clean : Bool
deriving DecidableEq, Repr

/-- Successor v of a branch table. -/
def tabSucc (t v : Nat) : Succ :=
  let s := bits t (32 * v + 31) (32 * v)
  { empty := bit s 27, valid := bit s 26, last := bits s 25 13, first := bits s 12 0, clean := bits s 31 28 == 0 }

def tabJoin (t : Nat) : Nat := bits t 144 132
def tabLen (t : Nat) : Nat := bits t 191 160
def tabAlign (t : Nat) : Bool := bit t 145

/-- The valid successors of a table. -/
def tabSuccs (t : Nat) : List Succ := ((List.range 4).map (tabSucc t)).filter Succ.valid

/-! ## The counts of a branch (R87) -/

/-- Issues, tokens sent and fences waited on of each identifier: 33 numbers. -/
abbrev Counts := List Nat

def addCounts (a b : Counts) : Counts := (a.zip b).map fun x => x.1 + x.2

/-- `a` with `k` times what `a` adds to `b`. -/
def moreCounts (a b : Counts) (k : Nat) : Counts := (a.zip b).map fun x => x.1 + k * (x.1 - x.2)

def noCounts : Counts := List.replicate 33 0

/-- A loop as the count meets it: START, END, LEFT, the counts at its push, and whether its middle iterations are in. -/
structure CountLoop where
  first : Nat
  last : Nat
  left : Nat
  at_ : Counts
  multiplied : Bool
deriving DecidableEq, Repr

/-- The loop-end test of the count: the stack and counts after it, and where a loop sends the stream back. The iterations
between the first and the last repeat the first. -/
def countEnd (i : Nat) : List CountLoop → Counts → List CountLoop × Counts × Option Nat
  | [], v => ([], v, none)
  | e :: es, v =>
    if e.last ≠ i then (e :: es, v, none)
    else if 1 < e.left then
      let v := if e.multiplied then v else moreCounts v e.at_ (e.left - 2)
      let left := if e.multiplied then e.left - 1 else 1
      ({ e with left, multiplied := true } :: es, v, some e.first)
    else countEnd i es v

/-- One bundle of a branch: its own issue, tokens and fences. -/
def ownCounts (h : Header) (v : Counts) : Counts :=
  let v := v.set 0 (v.getD 0 0 + h.rpt + 1)
  let v := if h.tsv then v.set (1 + h.tsid) (v.getD (1 + h.tsid) 0 + 1) else v
  if h.tfv then v.set (17 + h.tfid) (v.getD (17 + h.tfid) 0 + 1) else v

/-- The counts of a branch from index i to its END; `sub` counts a nested branch. None where it leaves what the image
loads, or cannot be followed. -/
def countLoop (x : ValCtx) (m : Image) (sub : Nat → Nat → Option Counts) (last : Nat) :
    Nat → Nat → List CountLoop → Counts → Option Counts
  | 0, _, _, _ => none
  | k + 1, i, ls, v =>
    match m.bundle i with
    | none => none
    | some b =>
      let h := decHeader b
      let v := ownCounts h v
      if 2 ≤ h.hsel then none
      else if h.hsel = 1 then
        match m.tabs[bits h.hinge 15 8]? with
        | none => none
        | some t =>
          let s := tabSucc t 0
          match (if s.empty then some noCounts else sub s.first s.last) with
          | none => none
          | some w =>
            let v := addCounts v w
            let v := if bit h.hinge 4 then v else v.set 0 (v.getD 0 0 - w.getD 0 0 + tabLen t)
            countLoop x m sub last k (tabJoin t) ls v
      else
        let nxt := x.next i
        let st : Option (List CountLoop) :=
          if h.lop = 1 then
            let d := m.desc h.ldi
            some ({ first := nxt, last := d % 2 ^ 13, left := bits d 36 13 + 1, at_ := v, multiplied := false } :: ls)
          else if h.lop = 2 then (match ls with | [] => none | _ :: r => some r)
          else some ls
        match st with
        | none => none
        | some ls =>
          let r := countEnd i ls v
          match r.2.2 with
          | some j => countLoop x m sub last k j r.1 r.2.1
          | none => if i = last then some r.2.1 else countLoop x m sub last k nxt r.1 r.2.1

/-- The counts of a branch with at most `k` hinges nested in it. No path that has passed the checks before this one holds
more than 8 loops, each of which takes its body twice here, so that a branch that can be followed to its END is followed
in fewer than 2^22 bundles. -/
def branchCounts (x : ValCtx) (m : Image) : Nat → Nat → Nat → Option Counts
  | 0, _, _ => none
  | k + 1, first, last => countLoop x m (branchCounts x m k) last (2 ^ 22) first [] noCounts

/-! ## The paths of an image (reasons 0x0B and 0x0C) -/

/-- A branch a path stands in: its bounds, JOIN, kind and the loop depth at its hinge. -/
structure PathHinge where
  first : Nat
  last : Nat
  join : Nat
  isOpen : Bool
  depth : Nat
deriving DecidableEq, Repr

/-- A place on a path: index, loop stack (START, END), hinge stack, innermost first. -/
structure Place where
  idx : Nat
  loops : List (Nat × Nat)
  hinges : List PathHinge
deriving DecidableEq, Repr

/-- An offence: reason, bundle index, bundle bit. -/
abbrev Offence := Nat × Nat × Nat

/-- Where the loop-end test of index i may send a path: back to START with the stack as it is, or on (R43). -/
def pathEnds (i nxt : Nat) : List (Nat × Nat) → List (Nat × List (Nat × Nat))
  | [] => [(nxt, [])]
  | e :: es => if e.2 = i then (e.1, e :: es) :: pathEnds i nxt es else [(nxt, e :: es)]

/-- What follows a place: the offences met there and the next places, with loop stacks of at most `lim` entries. A hinge
that nests too deep or wrongly is reported at the first bit of its hinge slot, 4032 (DESIGN CHOICE, log 96). -/
def pathStep (x : ValCtx) (m : Image) (lim : Nat) (s : Place) : List Offence × List Place :=
  match m.bundle s.idx with
  | none => ([], [])
  | some b =>
    let h := decHeader b
    let nxt := x.next s.idx
    if h.hsel = 3 then ([], []) else
    let st : Option (List (Nat × Nat)) :=
      if h.lop = 1 then (if lim ≤ s.loops.length then none else some ((nxt, m.desc h.ldi % 2 ^ 13) :: s.loops))
      else if h.lop = 2 then (match s.loops with | [] => none | _ :: r => some r)
      else some s.loops
    match st with
    | none => ([(0xB, s.idx, 32)], [])
    | some ls =>
      if h.hsel = 1 then
        match m.tabs[bits h.hinge 15 8]? with
        | none => ([], [])
        | some t =>
          let opened := bit h.hinge 4
          if !x.has (tabJoin t) then ([], [])
          else if 4 ≤ s.hinges.length || (opened && s.hinges.any fun e => !e.isOpen) ||
              (match s.hinges with | [] => false | e :: _ => decide (tabJoin t < e.first) || decide (e.last < tabJoin t)) then
            ([(0xC, s.idx, 4032)], [])
          else
            ([], (tabSuccs t).filterMap fun v =>
              if v.empty then some { s with idx := tabJoin t, loops := ls }
              else if x.has v.first then
                some { idx := v.first, loops := ls,
                       hinges := { first := v.first, last := v.last, join := tabJoin t, isOpen := opened, depth := ls.length } :: s.hinges }
              else none)
      else if h.hsel = 2 then
        if !s.hinges.isEmpty && (h.hinge % 16 == 1 || h.hinge % 16 == 2) then ([(0xC, s.idx, 4032)], [])
        else if h.hinge % 16 = 1 then ([], [{ s with idx := bits h.hinge 16 4, loops := ls }])
        else ([], [])
      else
        let rs := (pathEnds s.idx nxt ls).map fun o =>
          match s.hinges with
          | [] => (([] : List Offence), ({ idx := o.1, loops := o.2, hinges := [] } : Place))
          | e :: es =>
            if e.last = s.idx ∧ o.1 = nxt then
              (if o.2.length = e.depth then [] else [(0xC, s.idx, 32)], { idx := e.join, loops := o.2, hinges := es })
            else ([], { idx := o.1, loops := o.2, hinges := e :: es })
        (rs.flatMap Prod.fst, rs.map Prod.snd)

/-- Follows every path from the places given; the fuel is beyond the number of places there are. -/
def walkPaths (x : ValCtx) (m : Image) (lim : Nat) : Nat → List Place → List Place → List Offence → List Offence
  | 0, _, _, es => es
  | _ + 1, [], _, es => es
  | k + 1, s :: todo, seen, es =>
    if seen.contains s then walkPaths x m lim k todo seen es
    else
      let r := pathStep x m lim s
      walkPaths x m lim k (r.2 ++ todo) (s :: seen) (es ++ r.1)

/-- The offences on the paths from ENTRY. -/
def pathOffences (x : ValCtx) (m : Image) : List Offence :=
  walkPaths x m 8 (2 ^ 300) [{ idx := m.entry, loops := [], hinges := [] }] [] []

/-- The offences of reason 0x0C on the paths from each hinge bundle, whether or not a path from ENTRY reaches it (R87);
eight loops that end nowhere stand for those it may be met in. -/
def hingeOffences (x : ValCtx) (m : Image) : List Offence :=
  let starts := ((List.range m.bundles.length).zip m.bundles).filterMap fun e =>
    if (decHeader e.2).hsel = 1 then some ({ idx := m.base + e.1, loops := List.replicate 8 (0, 2 ^ 13), hinges := [] } : Place)
    else none
  (starts.flatMap fun s => walkPaths x m 16 (2 ^ 300) [s] [] []).filter fun e => e.1 == 0xC

/-- The offence of a reason at the lowest bundle index. -/
def firstOffence (r : Nat) (es : List Offence) : Option (Nat × Nat) :=
  (es.filter fun e => e.1 == r).foldl (fun o e => match o with
    | none => some e.2
    | some y => if e.2.1 < y.1 then some e.2 else some y) none

/-- A reserved bit of a branch table is 1 (Tables 04-1, 04-2). -/
def tabReserved (t : Nat) : Bool :=
  bits t 255 193 != 0 || bits t 159 146 != 0 || bits t 131 128 != 0 || (List.range 4).any fun v => !(tabSucc t v).clean

/-- The first loaded branch table with a reserved bit that is 1 (reason 0x05), as its place in the image. -/
def tabReservedAt (m : Image) : Option (Nat × Nat) :=
  ((List.range m.tabs.length).zip m.tabs).findSome? fun e => if tabReserved e.2 then some (0, m.tboff + 32 * e.1) else none

/-- The first loaded branch table with an entry that leaves the range (reason 0x0C), whether or not a hinge names it: of
one with a successor, a valid successor's START or END, or JOIN (DEDUCED, log 51). -/
def tabRangeAt (x : ValCtx) (m : Image) : Option (Nat × Nat) :=
  ((List.range m.tabs.length).zip m.tabs).findSome? fun e =>
    let ss := tabSuccs e.2
    if !ss.isEmpty && (!x.has (tabJoin e.2) || ss.any fun s => !s.empty && !(x.has s.first && x.has s.last)) then
      some (0, m.tboff + 32 * e.1) else none

/-- A branch table breaks a rule of R87 for a hinge of the given kind. -/
def tabBad (x : ValCtx) (m : Image) (t : Nat) (opened : Bool) : Bool :=
  let ss := tabSuccs t
  let inside (s : Succ) : Bool := x.has s.first && x.has s.last && decide (s.first ≤ s.last)
  let cs := ss.filterMap fun s => if s.empty then some noCounts else branchCounts x m 4 s.first s.last
  !(tabSucc t 0).valid || !x.has (tabJoin t) || tabLen t == 0 || (!opened && tabAlign t) ||
    (ss.any fun s => if s.empty then s.first != 0 || s.last != 0 else
      !inside s || (match m.bundle s.last with | some b => (decHeader b).hsel != 0 | none => false)) ||
    (!opened && cs.any fun c => decide (tabLen t < c.getD 0 0)) ||
    (match cs with | [] => false | c :: _ => cs.any fun e => e.tail != c.tail)

/-- The first offence of a hinge bundle and its table: the bundle index (0 for an offence in the table) and bit or byte
offset. `kinds` holds the tables named so far with their kinds (R85). -/
def tabOffence (x : ValCtx) (m : Image) : List (Nat × Nat) → List (Nat × Bool) → Option (Nat × Nat)
  | [], _ => none
  | (i, b) :: l, kinds =>
    let h := decHeader b
    if h.hsel = 3 then some (i, 40)
    else if h.hsel ≠ 1 then tabOffence x m l kinds
    else
      let k := bits h.hinge 15 8
      let opened := bit h.hinge 4
      match m.tabs[k]? with
      | none => some (i, 4040)
      | some t =>
        if kinds.any fun y => y.1 == k && y.2 != opened then some (i, 4036)
        else if tabBad x m t opened then some (0, m.tboff + 32 * k)
        else tabOffence x m l ((k, opened) :: kinds)

/-! ## The order of the checks (R52) -/

/-- The first bundle that fails a check, in increasing index. -/
def firstBundle (m : Image) (check : Nat → Nat → Option Nat) : Option (Nat × Nat) :=
  ((List.range m.bundles.length).zip m.bundles).findSome? fun e => (check (m.base + e.1) e.2).map fun z => (m.base + e.1, z)

/-- Reason 0x0B of one bundle (R44). -/
def loopBit (m : Image) (i b : Nat) : Option Nat :=
  let h := decHeader b
  if h.lop = 3 then some 32
  else if h.hsel != 0 && (h.lop != 0 || m.ldescs.any fun v => v % 2 ^ 13 == i) then some 40
  else none

/-- Reason 0x0B of the loaded descriptors: their place. -/
def descOffence (x : ValCtx) (m : Image) : Option (Nat × Nat) :=
  ((List.range m.ldescs.length).zip m.ldescs).findSome? fun e =>
    if bits e.2 63 37 != 0 || !x.has (e.2 % 2 ^ 13) then some (0, m.ldoff + 8 * e.1) else none

/-- The first check of Table 02-8 that an image fails: reason, bundle index, and bit or byte offset. -/
def validateImage (x : ValCtx) (bytes : List Byte) : Option (Nat × Nat × Nat) :=
  match formatError bytes with
  | some o => some (0x1, 0, o)
  | none =>
    let m := parseImage bytes
    let each (check : Nat → Option Nat) : Option (Nat × Nat) := firstBundle m fun _ b => check b
    let first (l : List (Nat × Option (Nat × Nat))) : Option (Nat × Nat × Nat) :=
      l.findSome? fun e => e.2.map fun z => (e.1, z)
    if m.sectors ≠ (x.slots.foldl (fun n i => n + 2 ^ i) 0) then some (0x2, 0, 6)
    else if m.flags % 2 ≠ b2n x.two then some (0x2, 0, 7)
    else if !x.has m.base || decide (x.top < m.base + m.count) then some (0x3, 0, 8)
    else if !x.has m.entry then some (0x3, 0, 0xC)
    else match first [(0x4, each checkBit), (0x5, each reservedBit), (0x5, tabReservedAt m), (0x6, each opcodeBit), (0x7, each formatBit),
        (0x8, each limitBit), (0x9, each (unownedBit x)), (0xA, each unbackedBit), (0xB, firstBundle m (loopBit m)),
        (0xB, descOffence x m)] with
      | some r => some r
      | none =>
        let es := pathOffences x m ++ hingeOffences x m
        first [(0xB, firstOffence 0xB es), (0xC, tabRangeAt x m), (0xC, tabOffence x m (((List.range m.bundles.length).map (m.base + ·)).zip m.bundles) []),
          (0xC, firstOffence 0xC es), (0xD, each (spanBit x)), (0xE, each (streamBit x))]

end Sys2Proof.Machine
end

