-- ==== Sys2Proof/Machine/Program.lean ====
section
/-! DEFINITION. Loading, streaming and starting programs, kernel profiles, and the numeric-event commands
(02_scangathen_bundle.md, R49, R51 to R55, R388; 06_accumulation_rounding.md, R121 to R125, R130; 13_host_queues.md,
R276). -/

namespace Sys2Proof.Machine

/-! ## Loading (R51, R52, Table 02-10) -/

/-- The defined bits of a branch table (Table 04-1). -/
def tabFields (t : Nat) : Nat :=
  bits t 192 160 * 2 ^ 160 + bits t 145 132 * 2 ^ 132 + ((List.range 4).foldl (fun n v => n + bits t (32 * v + 27) (32 * v) * 2 ^ (32 * v)) 0)

/-- The image of context n of hemisphere h is written: entries with their fill bits, loop descriptors, branch tables
and ENTRY. -/
def Dev.writeImage (d : Dev) (h n : Nat) (m : Image) : Dev :=
  let d := forL ((List.range m.bundles.length).zip m.bundles) (fun e (d : Dev) => { d with istore := d.istore.set (isKey h (m.base + e.1)) e.2, fill := d.fill.set (isKey h (m.base + e.1)) 1 }) d
  let d := forN 64 (fun k (d : Dev) => d.setReg (rCtxLdesc h n k) (m.desc k)) d
  let d := forN 256 (fun t (d : Dev) => d.setReg (rCtxBtab h n t) (tabFields (m.tabs.getD t 0))) d
  d.setReg (rCtxEntry h n) m.entry

/-- The first context of p that is not idle or halted. -/
def Dev.busyCtx (d : Dev) (p : Nat) : Option Nat :=
  ((d.ctxsOf p).find? fun y => let s := (d.ctxFor p y.1 y.2).state; s != .idle && s != .halted).map Prod.snd

/-- The first failure of R52's checks on the images of p, in increasing hemisphere order: context, reason, bundle index,
bit or offset. -/
def Dev.checkImages (d : Dev) (p : Nat) (images : List (List Byte)) : Option (Nat × Nat × Nat × Nat) :=
  ((d.ctxsOf p).zip images).findSome? fun e =>
    (validateImage (d.valCtx p e.1.1 e.1.2) e.2).map fun z => (e.1.2, z)

/-- R52 for a command c with the images of its partition: it ends with BUSY or VALIDATION, or they are loaded and `next`
follows. -/
def Dev.load (d : Dev) (c : FetchedCmd) (images : List (List Byte)) (next : Dev → Dev) : Dev :=
  let p := c.part
  match d.busyCtx p with
  | some n => d.fail c 0x4 (detail 0 0 n 0 0xF)
  | none =>
    match d.checkImages p images with
    | some (n, reason, bidx, at_) => d.fail c 0x5 (detail at_ bidx n 0 reason)
    | none =>
      let d := d.withImage p fun d => forL ((d.ctxsOf p).zip images) (fun e (d : Dev) => d.writeImage e.1.1 e.1.2 (parseImage e.2)) d
      next (d.setPsv p { d.psvOf p with programs := images.map Config.sha256 })

/-- The programs of p start: every context by START, and the command waits for them (R54). -/
def Dev.startProgram (d : Dev) (c : FetchedCmd) (leaves : List (Nat × Byte) := []) (counters : List (Nat × Nat) := []) : Dev :=
  let p := c.part
  if !d.quiet p then d.fail c 0x4 else
  let d := d.withImage p fun d => forL (d.ctxsOf p) (fun y (d : Dev) => d.startCtx y.1 y.2) d
  let d := { d with hq := { d.hq with programs := d.hq.programs ++ [({ seq := c.seq, p, leaves, counters } : ProgramWait)] } }
  d.claimFacets p

/-- LOAD_PROGRAM (R52). `images` are the bytes at the addresses it names, in increasing hemisphere order. -/
def execLoadProgram (q : QueueN) (images : List (List Byte)) (st : State) : Host.Outcome State Fault Refusal :=
  st.act fun d => d.cmd q 0x101 [.list [8]] noBad fun c ps d => d.onPart c fun d =>
    if (ps.lst 0).length ≠ (d.ctxsOf c.part).length ∨ images.length ≠ (d.ctxsOf c.part).length then d.param c 0
    else d.load c images fun d => d.done c

/-- START_PROGRAM (R54). -/
def execStartProgram (q : QueueN) (st : State) : Host.Outcome State Fault Refusal :=
  st.act fun d => d.cmd q 0x102 [] noBad fun c _ d => d.onPart c fun d => d.startProgram c

/-- CLEAR_TFAULT (R55, Table 02-10): hemisphere. -/
def execClearTfault (q : QueueN) (st : State) : Host.Outcome State Fault Refusal :=
  st.act fun d => d.cmd q 0x103 [.num 1] (fun ps => firstBad [(decide (1 < ps.at 0), 0)]) fun c ps d =>
    let h := ps.at 0
    (((d.setFlag (rSeqTfaultCap h) 63 false).setFlag (rSeqTfault h) 31 false).setFlag (rSeqCollide h) 31 false).done c

/-! ## Program stream-in (R49, R388) -/

/-- The next bundle of a context's oldest stream-in lands and is checked. One that cannot be read ends the stream-in, with
its remaining entries unfilled (R49, R174). -/
def Dev.landStreamed (d : Dev) (h n : Nat) : Dev :=
  let x := d.ctx h n
  match x.streams with
  | [] => d
  | j :: js =>
    if d.chanHeld j.src 512 then d.hold (.stream h n) else
    let y := d.readRim 0 j.src 512
    let d := y.1
    match y.2 with
    | g :: _ => ((d.setCtx h n { x with streams := js }).countCtx h n 0xA noSub 1).record (ueRec (some x.part) g.1 0 j.next n 0 g.2)
    | [] =>
      let b := leNat (d.gread x.part j.src 512)
      let d := { d with istore := d.istore.set (isKey h j.next) b }
      match streamedReason (d.valCtx x.part h n) b with
      | some r => (d.setCtx h n { x with streams := js }).seqFatal h n 0x4A j.next r
      | none =>
        let d := { d with fill := d.fill.set (isKey h j.next) 1 }
        let js := if j.left ≤ 1 then js else { src := j.src + 512, next := j.next + 1, left := j.left - 1 } :: js
        d.setCtx h n { x with streams := js }

/-- STREAM_BUNDLE_LAND (R49, R388). -/
def execStreamBundleLand (c : CtxId) (st : State) : Host.Outcome State Fault Refusal :=
  st.act fun d => d.landStreamed c.h.val c.n.val

/-! ## Numeric events (R121 to R125, Table 06-9) -/

/-- A write of PRT_p_NEV_RBASE: ignored while EN = 1. -/
def Dev.writeNevBase (d : Dev) (p v : Nat) : Dev :=
  if d.flag (rNevRcfg p) 31 then d else d.setReg (rNevRbase p) (bits v 47 12 * 4096)

/-- A write of PRT_p_NEV_RCFG: LOG2N keeps its value while EN = 1, and EN goes to 1 only with LOG2N 4 to 20. -/
def Dev.writeNevCfg (d : Dev) (p v : Nat) : Dev :=
  let old := d.reg (rNevRcfg p)
  let log2n := if bit old 31 then bits old 4 0 else bits v 4 0
  let on := bit v 31 && (bit old 31 || decide (4 ≤ log2n ∧ log2n ≤ 20))
  d.setReg (rNevRcfg p) (b2n on * 2 ^ 31 + bits v 23 16 * 2 ^ 16 + bits v 15 15 * 2 ^ 15 + log2n)

/-- NEV_CONFIG: enable, kind mask, hinge records, ring address, log2 entries. A ring base that is not a multiple of 4 KiB
leaves EN at 0. -/
def execNevConfig (q : QueueN) (st : State) : Host.Outcome State Fault Refusal :=
  st.act fun d => d.cmd q 0x201 [.num 1, .num 1, .num 1, .num 8, .num 1]
    (fun ps => firstBad [(decide (1 < ps.at 0), 0), (decide (1 < ps.at 2), 2), (decide (2 ^ 48 ≤ ps.at 3), 3)])
    fun c ps d => d.onPart c fun d =>
      let p := c.part
      let d := d.writeNevBase p (ps.at 3)
      let d := if d.flag (rNevRcfg p) 31 then d else (d.setReg (rNevRhead p) 0).setReg (rNevRtail p) 0
      let on := ps.at 0 == 1 && (d.flag (rNevRcfg p) 31 || ps.at 3 % 4096 == 0)
      let log2n := if ps.at 4 < 32 then ps.at 4 else 0
      (d.writeNevCfg p (b2n on * 2 ^ 31 + ps.at 1 * 2 ^ 16 + ps.at 2 * 2 ^ 15 + log2n)).done c

/-- NEV_CLEAR. -/
def execNevClear (q : QueueN) (st : State) : Host.Outcome State Fault Refusal :=
  st.act fun d => d.cmd q 0x202 [] noBad fun c _ d => d.onPart c fun d =>
    let p := c.part
    let d := forN 6 (fun k (d : Dev) => (d.setFlag (rNevCap p k) 127 false).setFlag (rNevCnt p k) 63 false) d
    (d.withImage p fun d => forL (d.facetsOf p) (fun f (d : Dev) => d.setFld (rFctNev f) 5 0 0) d).done c

/-- RNG_SEED: seed, stream. It needs every context of the partition idle or halted (R130). -/
def execRngSeed (q : QueueN) (st : State) : Host.Outcome State Fault Refusal :=
  st.act fun d => d.cmd q 0x203 [.num 8, .num 4] noBad fun c ps d => d.onPart c fun d =>
    let p := c.part
    if !d.quiet p then d.fail c 0x4 else
    let gen (k : Nat) : Nat := (ps.at 1 * 2 ^ 96 + k * 2 ^ 64) * 2 ^ 64 + ps.at 0
    (d.withImage p fun d => forL (d.facetsOf p) (fun f (d : Dev) =>
      let rng := forN 512 (fun l (m : NatMap) => m.set (f * 512 + l) (gen (f * 512 + l))) d.rng
      { d with rng }) d).done c

/-- NEV_RING_RECORD_LAND (R124, R125): the oldest record of p's ring that has not landed lands, or is dropped when the
ring is full. -/
def execNevRingRecordLand (p : PartN) (st : State) : Host.Outcome State Fault Refusal :=
  st.act fun d =>
    let p := p.val
    match alGet [] d.nevRing p with
    | [] => d
    | rec :: rs =>
      let d := { d with nevRing := alSet [] d.nevRing p rs }
      let head := d.reg (rNevRhead p)
      let n := 2 ^ d.fld (rNevRcfg p) 4 0
      if diff32 head (d.reg (rNevRtail p)) = n then d.bump (rNevRdrop p)
      else
        (d.rimPut (placeBytes (d.reg (rNevRbase p) + head % n * 32) rec)).setReg (rNevRhead p) ((head + 1) % 2 ^ 32)

end Sys2Proof.Machine
end

