-- ==== Sys2Proof/Machine/Resilience.lean ====
section
/-! DEFINITION. Surviving failures in training: the reserve, save points, saves and their tiers, the adaptive interval and
restores (15_resilience.md, R291 to R305). -/

namespace Sys2Proof.Machine

/-! ## Records (R304) -/

/-- The first record since it was last cleared is captured in PSV_p_EVCAP (Table 15-11). -/
def Dev.psvCapture (d : Dev) (p kind srcB srcA oid timeB timeA : Nat) : Dev :=
  let off := rPsvEvcap p
  if d.flag off 255 then d
  else d.setReg off (2 ^ 255 + kind * 2 ^ 252 + srcB % 2 ^ 16 * 2 ^ 208 + srcA % 2 ^ 16 * 2 ^ 192 + oid % 2 ^ 64 * 2 ^ 128 +
    timeB % 2 ^ 64 * 2 ^ 64 + timeA % 2 ^ 64)

/-- A corrected record of block PSV. -/
def Dev.psvRecord (d : Dev) (p cause value : Nat) : Dev :=
  d.record { part := some p, cls := clsCorrected, cause, block := 14, det := detail 0 0 0 0 value }

/-- A DIVERGED record: the shard and the tiers of two sources. -/
def Dev.diverged (d : Dev) (p oid tierA tierB : Nat) : Dev :=
  let rank := (d.psvOf p).rank
  ((d.bump64 (rPsvCnt p 2)).psvCapture p 3 (tierB * 2 ^ 14 + rank) (tierA * 2 ^ 14 + rank) oid 0 d.now).psvRecord p 0x203 (oid % 2 ^ 40)

/-! ## Configuration and plan (R292, R293) -/

/-- PHASE is 1 to 5 (R305). -/
def Dev.psvBusy (d : Dev) (p : Nat) : Bool := decide (1 ≤ d.psvPhase p ∧ d.psvPhase p ≤ 5) || d.flag (rPsvSave p) 40

/-- A bundle lies within START to END of a valid successor of a branch table of p's context on h (R295). -/
def Dev.inBranch (d : Dev) (p h spt : Nat) : Bool :=
  match d.ctxNum p h with
  | none => false
  | some n => (List.range 256).any fun t => (List.range 4).any fun v =>
      let s := d.fld (rCtxBtab h n t) (32 * v + 31) (32 * v)
      bit s 26 && !bit s 27 && decide (bits s 12 0 ≤ spt ∧ spt ≤ bits s 25 13)

/-- Serve window 3 of p in reserve mode over the reserves that RSV gives (R292). -/
def Dev.serveReserve (d : Dev) (p : Nat) : Dev :=
  let n := (d.heldSectors p).length * d.rsvBytes p
  let k := ((List.range 44).find? fun k => decide (12 ≤ k ∧ n ≤ 2 ^ k)).getD 43
  d.setReg (rBrvServe p 3) (if n = 0 then 0 else 2 ^ 80 + k * 2 ^ 74)

/-- PSV_CONFIG: reserve units, SHARD_LOG2, STATE slot, SPT and SCOND of H0 and of H1 (SPT 0xFFFF for none), STEPW, TMIN, TMAX, ALPHA,
MTBF, FLASH_EVERY, SHARED_EVERY, and whether the shared store is a QP, with its window or QP. -/
def execPsvConfig (q : QueueN) (st : State) : Host.Outcome State Fault Refusal :=
  st.act fun d => d.cmd q 0x801
    [.num 2, .num 1, .num 2, .num 2, .num 1, .num 2, .num 1, .num 8, .num 2, .num 2, .num 1, .num 8, .num 1, .num 1, .num 1, .num 4]
    (fun ps => firstBad [
      (ps.at 0 % 2 != 0, 0), (decide (ps.at 1 < 20 ∨ 32 < ps.at 1), 1), (decide (4095 < ps.at 2) && ps.at 2 != 0xFFFF, 2),
      (decide (8191 < ps.at 3) && ps.at 3 != 0xFFFF, 3), (decide (15 < ps.at 4), 4),
      (decide (8191 < ps.at 5) && ps.at 5 != 0xFFFF, 5), (decide (15 < ps.at 6), 6),
      (ps.at 7 % 64 != 0 || decide (2 ^ 48 ≤ ps.at 7), 7), (decide (ps.at 8 < 30 ∨ 21600 < ps.at 8), 8),
      (decide (ps.at 9 < ps.at 8 ∨ 21600 < ps.at 9), 9), (ps.at 10 == 0, 10), (decide (1 < ps.at 14), 14),
      (decide ((if ps.at 14 = 0 then 15 else 65535) < ps.at 15), 15)])
    fun c ps d => d.onPart c fun d =>
      let p := c.part
      let on (k : Nat) : Bool := ps.at k != 0xFFFF
      if d.psvBusy p then d.fail c 0x4
      else if d.fld (rPrtCfg p) 51 44 < ps.at 0 then d.param c 0
      else if on 3 && d.inBranch p 0 (ps.at 3) then d.param c 3
      else if on 5 && d.inBranch p 1 (ps.at 5) then d.param c 5
      else
        let d := d.setReg (rPsvCfg p) (2 ^ 63 + ps.at 14 * 2 ^ 52 + ps.at 15 % 16 * 2 ^ 48 + ps.at 2 * 2 ^ 32 + ps.at 10 * 2 ^ 24 +
          ps.at 13 * 2 ^ 16 + ps.at 12 * 2 ^ 8 + ps.at 1)
        let d := (d.setReg (rPsvRsv p) (ps.at 0)).setReg (rPsvSpt p)
          (b2n (on 5) * 2 ^ 63 + ps.at 6 * 2 ^ 48 + ps.at 5 % 2 ^ 13 * 2 ^ 32 + b2n (on 3) * 2 ^ 31 + ps.at 4 * 2 ^ 16 + ps.at 3 % 2 ^ 13)
        let d := ((d.setReg (rPsvStepw p) (ps.at 7)).setReg (rPsvClamp p) (ps.at 9 * 2 ^ 16 + ps.at 8)).setReg (rPsvMtbf p) (ps.at 11)
        (d.serveReserve p).done c

/-- Bytes of one save slot of p over all its sectors (R292). -/
def Dev.slotBytes (d : Dev) (p : Nat) : Nat := (d.heldSectors p).length * (d.rsvBytes p / 2)

/-- Byte o of save slot s of p. -/
def Dev.slotAddr (d : Dev) (p s o : Nat) : Nat :=
  let half := d.rsvBytes p / 2
  if half = 0 then 0 else
  match (d.heldSectors p)[o / half]? with
  | some g => d.reserveLo p g + s * half + o % half
  | none => 0

/-- The shards of region k: index, address, length. -/
def shardsOf (log2 : Nat) (r : Region) : List (Nat × Nat × Nat) :=
  (List.range (ceilDiv r.len (2 ^ log2))).map fun i => (i, r.addr + i * 2 ^ log2, min (2 ^ log2) (r.len - i * 2 ^ log2))

/-- Bytes that the sealed shards of a plan take in a slot. -/
def planBytes (log2 : Nat) (plan : List Region) : Nat :=
  plan.foldl (fun n r => (shardsOf log2 r).foldl (fun n s => n + roundUp (s.2.2 + 48) 64) n) 0

/-- A region as PSV_PLAN lists it. -/
def regionOf (l : List Nat) : Region :=
  { addr := l.getD 0 0, len := l.getD 1 0, prot := l.getD 2 0, grp := l.getD 3 0, rank := l.getD 4 0, n := l.getD 5 0, r := l.getD 6 0 }

/-- The manifest record of one shard of a region (Table 15-2). -/
def manifestRecord (save oid len tiers : Nat) (r : Region) (digest : BitVec 256) : List Byte :=
  leBytes 8 save ++ leBytes 8 oid ++ leBytes 4 len ++ leBytes 1 (r.prot + tiers % 8 * 4) ++ leBytes 1 r.rank ++
    leBytes 1 r.grp ++ leBytes 1 ((r.r - 1) % 4 * 16 + (r.n - 1) % 16) ++ leBytes 8 0 ++ beBytes 32 digest.toNat

/-- The manifest record of a shard before its save: SAVE_ID, the digest and the tiers are 0. -/
def templateRecord (rank k : Nat) (r : Region) (s : Nat × Nat × Nat) : List Byte :=
  manifestRecord 0 (rank % 2 ^ 16 * 2 ^ 24 + k * 2 ^ 12 + s.1) s.2.2 0 r 0

/-- A region without protection, for a shard outside every region of a plan. -/
def Region.bare : Region := { addr := 0, len := 0, prot := 0, grp := 0, rank := 0, n := 1, r := 1 }

/-- The protection of region k of a plan; the context shard and the sidecar have that of the plan's first region: no command
names a default group (R297; DESIGN CHOICE, log 103). -/
def protOf (plan : List Region) (k : Nat) : Region := (plan[if 0xFFE ≤ k then 0 else k]?).getD Region.bare

/-- The manifest of a save (R293). -/
def SaveSlot.manifest (s : SaveSlot) : List Byte :=
  let recs := (s.shards.zip s.digests).flatMap fun e =>
    manifestRecord s.saveId e.1.1 (e.1.2.length - 48) s.tiers (protOf s.plan (bits e.1.1 23 12)) e.2.2
  (Config.manifestHead s.saveId (s.side.get 1) (s.side.get 2) s.made s.shards.length (Config.sha256 recs) ++ List.replicate 64 0).take 64 ++
    recs

/-- The manifest template of a plan: its header of 64 B, whose fields have no stated places (log 103), and one record per shard, in region order and then shard order. -/
def manifestTemplate (rank log2 : Nat) (plan : List Region) : List Byte :=
  let rs := ((List.range plan.length).zip plan).flatMap fun k => (shardsOf log2 k.2).map fun s => templateRecord rank k.1 k.2 s
  let body := rs.flatten
  (Config.templateHead body ++ List.replicate 64 0).take 64 ++ body

/-- The template goes into the reserve; where it stands there, beside the shards, is not stated and is a free value (log 103). -/
def Dev.putTemplate (d : Dev) (p need : Nat) (bs : List Byte) : Dev :=
  if d.slotBytes p < need + bs.length then d else
  let o := need + Config.templateAt p % (d.slotBytes p - need - bs.length + 1)
  d.rimPut ((placeBytes 0 bs).map fun b => (d.slotAddr p 0 (o + b.1), b.2))

/-- PSV_PLAN (R293, R294): job rank, regions. -/
def execPsvPlan (q : QueueN) (st : State) : Host.Outcome State Fault Refusal :=
  st.act fun d => d.cmd q 0x802 [.num 2, .list [8, 8, 1, 1, 1, 1, 1]] (fun ps => firstBad [(decide (2 ^ 14 ≤ ps.at 0), 0)])
    fun c ps d => d.onPart c fun d =>
      let p := c.part
      let plan := (ps.lst 0).map regionOf
      let log2 := d.fld (rPsvCfg p) 5 0
      if d.psvPhase p ≠ 0 ∧ d.psvPhase p ≤ 3 then d.fail c 0x4
      else if 4094 < plan.length ∨ (plan.any fun r => r.len == 0 || decide (4096 < ceilDiv r.len (2 ^ log2)) || decide (2 < r.prot) ||
          (r.prot == 1 && decide (r.n = 0 ∨ 16 < r.n ∨ r.r = 0 ∨ 4 < r.r)) || (r.prot == 2 && decide (r.n < 2))) then d.param c 1
      else match plan.findSome? fun r => if decide (rimTop < r.addr + r.len) then some (max r.addr rimTop) else d.firstBad p r.addr r.len with
        | some a => d.fail c 0x6 (detail a 0 0 0 0)
        | none =>
          let need := planBytes log2 plan
          if d.slotBytes p < need then d.fail c 0x207 (detail 0 0 0 0 (ceilDiv (need - d.slotBytes p) (256 * MiB)))
          else ((d.setPsv p { d.psvOf p with rank := ps.at 0, plan }).putTemplate p need (manifestTemplate (ps.at 0) log2 plan)).done c

/-! ## The save (R295, R296) -/

/-- PSV_SAVE: SAVE_ID, target step, time-out in s. -/
def execPsvSave (q : QueueN) (st : State) : Host.Outcome State Fault Refusal :=
  st.act fun d => d.cmd q 0x803 [.num 4, .num 8, .num 2]
    (fun ps => firstBad [(decide (ps.at 0 = 0 ∨ 2 ^ 24 ≤ ps.at 0), 0), (decide (ps.at 2 = 0 ∨ 600 < ps.at 2), 2)])
    fun c ps d => d.onPart c fun d =>
      let p := c.part
      let x := d.psvOf p
      let id := ps.at 0
      if 1 ≤ d.psvPhase p ∧ d.psvPhase p ≤ 3 then d.fail c 0x4
      else if id ≤ x.maxId then d.param c 0
      else if !d.flag (rPsvCfg p) 63 then d.fail c 0x4
      else
        let d := d.interim c
        let s : SaveSlot := { saveId := id, shards := [], digests := [], tiers := 0, divergent := [], image := none, side := [], logs := [],
                              programs := x.programs, cost := 0, plan := x.plan, made := 0 }
        let d := d.setPsv p { x with current := some s, cmd := some c.seq, target := ps.at 1, maxId := id }
        let v := id * 2 ^ 64 + 2 ^ 45 + id % 2 * 2 ^ 41 + d.fld (rPsvSave p) 39 0
        (d.setReg (rPsvSave p) v).writeStepWord p (ps.at 1)

/-- SAVE_POINT_REACHED (R295). -/
def execSavePointReached (c : CtxId) (st : State) : Host.Outcome State Fault Refusal :=
  st.act fun d =>
    if d.moves c && d.atSavePoint c.h.val c.n.val then d.modCtx c.h.val c.n.val fun x => { x with saveStop := true } else d

/-- SAVE_POINT (R296): SAVE_TMO has passed and both contexts have not stopped. -/
def execSavePointTimeout (p : PartN) (st : State) : Host.Outcome State Fault Refusal :=
  st.act fun d =>
    let p := p.val
    if d.psvPhase p = 1 && !d.atSave p then d.abandonSave p clsRequest 0x200 (d.fld (rPsvSave p) 127 64 % 2 ^ 40) else d

/-- The OID of a shard (R293). -/
def oidOf (save rank region idx : Nat) : Nat := save % 2 ^ 24 * 2 ^ 40 + rank % 2 ^ 16 * 2 ^ 24 + region % 2 ^ 12 * 2 ^ 12 + idx % 2 ^ 12

/-- Bytes of a slot from byte o on: what would lie beyond the slot is nowhere. -/
def Dev.putSlot (d : Dev) (p slot o : Nat) (bs : List Byte) : Dev :=
  d.rimPut (((placeBytes o bs).filter fun b => decide (b.1 < d.slotBytes p)).map fun b => (d.slotAddr p slot b.1, b.2))

/-- One shard is sealed under the STATE key into the slot at byte `o`, and its digest taken. -/
def Dev.sealShard (d : Dev) (p slot : Nat) (key : BitVec 256) (s : SaveSlot) (o oid : Nat) (plain : List Byte) : Dev × SaveSlot :=
  let iv := d.draw
  let e := envelope key oid (BitVec.ofNat 96 iv.1.toNat) plain
  let d := iv.2.setFld (rCusSlot slot) 32 0 (iv.2.fld (rCusSlot slot) 32 0 + 1)
  (d.putSlot p (s.saveId % 2) o e, { s with shards := s.shards ++ [(oid, e)], digests := s.digests ++ [(oid, Config.sha256 plain)] })

/-- The sidecar's register values (Table 15-3): step words, ingest cursors of the enabled rings, numeric-event position. -/
def Dev.sidecar (d : Dev) (p : Nat) : NatMap :=
  let a := d.fld (rPsvStepw p) 47 6 * 64
  let m : NatMap := NatMap.setAll [] [(1, leNat (d.rim.read a 8)), (2, leNat (d.rim.read (a + 8) 8))]
  let m := m.setAll (((List.range 4).filter fun r => d.ringOn p r).map fun r => (rIngCur p r, d.reg (rIngCur p r)))
  m.setAll ([rNevRhead p, rNevRtail p] ++ ((List.range 6).flatMap fun k => [rNevCnt p k, rNevCap p k]) |>.map fun o => (o, d.reg o))

/-- The log buffers of the active shards of p, up to COUNT (Table 15-3). -/
def Dev.activeLogs (d : Dev) (p : Nat) : List (Nat × List Byte) :=
  ((List.range 4).filter fun r => d.ringBusy p r).map fun r => let s := (d.ring p r).shard; (r, d.rim.read s.log (64 + 16 * s.logged))

/-- The runtime reads what a snapshot seals: the ranges of its shards, the step words and the log buffers. What it cannot
read is recorded (R174), and the answer says whether it read all. -/
def Dev.readSaved (d : Dev) (p : Nat) (shards : List (Nat × Nat)) : Dev × Bool :=
  let logs := ((List.range 4).filter fun r => d.ringBusy p r).map fun r =>
    let s := (d.ring p r).shard
    (s.log, 64 + 16 * s.logged)
  forL ((d.fld (rPsvStepw p) 47 6 * 64, 16) :: shards ++ logs) (fun a (x : Dev × Bool) =>
    let y := x.1.readAgent a.1 a.2
    (y.1, x.2 && y.2)) (d, true)

/-- The OIDs and plaintexts that a snapshot seals: every shard of the plan, then the context shard and the sidecar (R297). -/
def Dev.snapshotShards (d : Dev) (p rank : Nat) (s : SaveSlot) : List (Nat × List Byte) :=
  let log2 := d.fld (rPsvCfg p) 5 0
  (((List.range s.plan.length).zip s.plan).flatMap fun k => (shardsOf log2 k.2).map fun h =>
    (oidOf s.saveId rank k.1 h.1, d.rim.read h.2.1 h.2.2)) ++
  [(oidOf s.saveId rank 0xFFE 0, (s.image.map Config.contextShard).getD []),
   (oidOf s.saveId rank 0xFFF 0, Config.sidecarShard s.side s.logs s.programs)]

/-- Every shard is sealed into the slot, one after the other at multiples of 64 B. -/
def Dev.sealAll (d : Dev) (p slot : Nat) (key : BitVec 256) (s : SaveSlot) (l : List (Nat × List Byte)) : Dev × SaveSlot :=
  (l.foldl (fun (w : (Dev × SaveSlot) × Nat) t =>
    (w.1.1.sealShard p slot key w.1.2 w.2 t.1 t.2, w.2 + roundUp (t.2.length + 48) 64)) ((d, s), 0)).1

/-- A partition-fatal or device-fatal error of p stands: no phase of its saves succeeds (R299). -/
def Dev.saveHit (d : Dev) (p : Nat) : Bool := d.partFatal p || d.flag rHqDevstat 30

/-- SNAPSHOT_DONE (R296 phase 2): the context shard, the sidecar and every region are
sealed, and the contexts resume. A range that cannot be read abandons the save with MEM_UE (DEDUCED from R299, log 102). -/
def execSnapshotDone (p : PartN) (costUs : Nat) (st : State) : Host.Outcome State Fault Refusal :=
  st.act fun d =>
    let p := p.val
    let x := d.psvOf p
    match d.psvPhase p, x.current with
    | 2, some s =>
      if d.saveHit p then d.dropSave p else
      let slot := d.fld (rPsvCfg p) 47 32
      match d.slotFor slot p 3 with
      | none => d.abandonSave p clsRequest 0x14 slot
      | some key =>
        let y := d.readSaved p (s.plan.map fun r => (r.addr, r.len))
        let d := y.1
        if !y.2 then d.abandonSave p clsRequest 0x38 (d.fld (rPsvSave p) 127 64 % 2 ^ 40) else
        let image := if d.live p then some (d.takeImage p 0) else d.image p
        let s := { s with image, side := d.sidecar p, logs := d.activeLogs p, cost := costUs, made := d.now - costUs * 1000 }
        let r := d.sealAll p slot key s (d.snapshotShards p x.rank s)
        let d := r.1.setPsv p { x with current := some r.2 }
        ((d.setFld (rPsvSave p) 47 45 3).writeStepWord p (2 ^ 64 - 1)).leaveSavePoint p
    | _, _ => d

/-! ## The adaptive interval (R298) -/

/-- (1 − a) old + a new, with a = ALPHA / 256. -/
def Dev.smooth (d : Dev) (p old new : Nat) : Nat :=
  let a := d.fld (rPsvCfg p) 31 24
  ((256 - a) * old + a * new) / 256

/-- τ in s from c in µs and m in ms, between TMIN and TMAX. -/
def Dev.showTau (d : Dev) (p : Nat) : Dev :=
  let m := d.reg (rPsvMtbf p)
  let me := match (d.psvOf p).lastFail with | none => m | some t => max m ((d.now - t) / 1000000)
  let tau := isqrt (2 * d.reg (rPsvCost p) * me / 10 ^ 9)
  d.setReg (rPsvTau p) (min (max tau (d.fld (rPsvClamp p) 15 0)) (d.fld (rPsvClamp p) 31 16))

/-- A committed save's cost in µs. -/
def Dev.noteCost (d : Dev) (p cost : Nat) : Dev :=
  let x := d.psvOf p
  let c := if x.firstSave then cost else d.smooth p (d.reg (rPsvCost p)) cost
  ((d.setPsv p { x with firstSave := false }).setReg (rPsvCost p) (c % 2 ^ 32)).showTau p

/-- PSV_FAIL_NOTE: failure time in ns. -/
def execPsvFailNote (q : QueueN) (st : State) : Host.Outcome State Fault Refusal :=
  st.act fun d => d.cmd q 0x804 [.num 8] noBad fun c ps d => d.onPart c fun d =>
    let p := c.part
    let x := d.psvOf p
    let t := ps.at 0
    let d := match x.lastFail with
      | none => d
      | some l => d.setReg (rPsvMtbf p) (d.smooth p (d.reg (rPsvMtbf p)) ((t - l) / 1000000))
    let d := (d.setPsv p { x with lastFail := some t }).setReg (rPsvLastfail p) t
    (d.showTau p).done c

/-! ## Commit and the deeper tiers (R296, R299) -/

/-- Whether save `id` is written to a tier every `n`-th save. -/
def everyNth (id n : Nat) : Bool := n != 0 && id % n == 0

/-- PARTNER_PHASE_DONE (R296 phase 3): the save commits; `divergent` are the OIDs whose replicas differ (R301). -/
def execPartnerPhaseDone (p : PartN) (divergent : List Nat) (st : State) : Host.Outcome State Fault Refusal :=
  st.act fun d =>
    let p := p.val
    let x := d.psvOf p
    match d.psvPhase p, x.current with
    | 3, some s =>
      if d.saveHit p then d.dropSave p else
      let s := { s with tiers := 1, divergent }
      let mask := b2n (everyNth s.saveId (d.fld (rPsvCfg p) 15 8)) + b2n (everyNth s.saveId (d.fld (rPsvCfg p) 23 16)) * 2
      let background := if mask = 0 then x.background else x.background ++ [(s.saveId, mask)]
      let saves := (x.saves.filter fun y => y.saveId % 2 != s.saveId % 2) ++ [s]
      let d := d.setPsv p { x with current := none, cmd := none, saves, background }
      let d := ((d.setFld (rPsvSave p) 44 42 1).setFld (rPsvSave p) 39 0 s.saveId).bump64 (rPsvCnt p 0)
      let d := (d.noteCost p s.cost).showPhase p
      let d := forL divergent (fun o (d : Dev) => d.diverged p o 0 0) d
      match x.cmd with
      | some c => d.finishSeq c none 0 s.cost
      | none => d
    | _, _ => d

/-- FLASH_PHASE_DONE (R296 phase 4). -/
def execFlashPhaseDone (p : PartN) (st : State) : Host.Outcome State Fault Refusal :=
  st.act fun d => d.tierEnds p.val 0 (!d.saveHit p.val)

/-- SHARED_PHASE_DONE (R296 phase 5). -/
def execSharedPhaseDone (p : PartN) (st : State) : Host.Outcome State Fault Refusal :=
  st.act fun d => d.tierEnds p.val 1 (!d.saveHit p.val)

/-- SAVE_ABANDONED (R299): a failure in phases 1 to 3 abandons the save, one in phase 4 or 5 loses that tier. -/
def execSaveAbandoned (p : PartN) (st : State) : Host.Outcome State Fault Refusal :=
  st.act fun d => d.dropSave p.val

/-! ## Restore (R300 to R303) -/

/-- DEEP_TIER (R302): with a failure noted before, a further one at time t sends a group to the flash tier. -/
def execDeepTier (p : PartN) (grp : BitVec 8) (t : BitVec 64) (st : State) : Host.Outcome State Fault Refusal :=
  st.act fun d =>
    let p := p.val
    match (d.psvOf p).lastFail with
    | none => d
    | some t0 =>
      ((d.bump64 (rPsvCnt p 3)).psvCapture p 4 0 0 grp.toNat t.toNat t0).psvRecord p 0x204 grp.toNat

/-- The tier of a source of Table 15-1: partner memory, flash, shared store. -/
def tierOf (i : Nat) : Nat := i - 1

/-- What a source gave of a shard: its index in Table 15-1, and the plaintext if it verifies: its envelope opens under the STATE
key with the OID, and the plaintext has the manifest's digest (R300). -/
def checkSource (key : BitVec 256) (oid : Nat) (digest : Option (BitVec 256)) (i : Nat) (env : Option (List Byte)) :
    Option (Nat × Option (List Byte)) :=
  env.map fun e => (i, (openEnvelope key oid e).filter fun b => digest == some (Config.sha256 b))

/-- The place in its slot and the length of the shard with an OID. -/
def SaveSlot.shardAt (s : SaveSlot) (oid : Nat) : Option (Nat × Nat) :=
  let r := s.shards.foldl (fun (w : Nat × Option (Nat × Nat)) e =>
    (w.1 + roundUp e.2.length 64, if w.2.isNone && e.1 == oid then some (w.1, e.2.length) else w.2)) (0, none)
  r.2

/-- The holder's own copy: the envelope that its reserve holds, none where a granule of it cannot be read. -/
def Dev.ownCopy (d : Dev) (p : Nat) (s : SaveSlot) (oid : Nat) : Dev × Option (List Byte) :=
  match s.shardAt oid with
  | none => (d, none)
  | some (o, n) =>
    let at_ (i : Nat) : Nat := d.slotAddr p (s.saveId % 2) (o + i)
    let x := forN (ceilDiv n 64) (fun k (x : Dev × Bool) =>
      let y := x.1.readAgent (at_ (64 * k)) 64
      (y.1, x.2 && y.2)) (d, decide (o + n ≤ d.slotBytes p))
    (x.1, if x.2 then some ((List.range n).map fun i => d.rim.byte (at_ i)) else none)

/-- What the sources of a shard gave, in the order of Table 15-1; `mine` is the save in the module's own reserve, where that is
intact. -/
def Dev.askSources (d : Dev) (p : Nat) (key : BitVec 256) (mine : Option SaveSlot) (saved : SavedShape) (s : Sys2Proof.ShardSource) :
    Dev × List (Nat × Option (List Byte)) :=
  let oid := s.oid.toNat
  let digest := (saved.digests.find? fun e => e.1 == s.oid).map Prod.snd
  let own := match mine with | some x => d.ownCopy p x oid | none => (d, none)
  (own.1, ([own.2, s.rebuilt, s.flash, s.shared].zip (List.range 4)).filterMap fun e => checkSource key oid digest e.2 e.1)

/-- What is taken of a shard, its bytes if a source can be trusted, and the tiers of two sources that differ (R291, R301); a divergent
one goes straight to the deeper tiers. -/
def chooseShard (prot : Nat) (given : List (Nat × Option (List Byte))) (divergent : Bool) : Option (List Byte) × Option (Nat × Nat) :=
  let all : List (Nat × List Byte) := given.filterMap fun e => e.2.map fun b => (e.1, b)
  let deep := (all.find? fun e => decide (2 ≤ e.1)).map Prod.snd
  if divergent then (deep, none) else
  match all with
  | [] => (none, none)
  | e :: es =>
    match es.find? fun f => f.2 != e.2 with
    | none => (some e.2, none)
    | some f =>
      let two := some (tierOf e.1, tierOf f.1)
      match prot, all.find? fun g => g.1 == 1 with
      | 1, some r => if (all.filter fun g => g.1 != 1).any fun g => g.2 == r.2 then (some r.2, two) else (deep, two)
      | _, _ => (deep, two)

/-- One shard of a restore: DIGEST records of the sources that fail, a DIVERGED record of two that differ, and what is taken. -/
def Dev.fetchShard (d : Dev) (p : Nat) (key : BitVec 256) (mine : Option SaveSlot) (saved : SavedShape) (s : Sys2Proof.ShardSource) :
    Dev × Option (List Byte) :=
  let oid := s.oid.toNat
  let x := d.askSources p key mine saved s
  let bad := (x.2.filter fun e => e.2.isNone).map Prod.fst
  let d := forL bad (fun i (d : Dev) =>
    (d.psvCapture p 2 0 (tierOf i * 2 ^ 14 + (d.psvOf p).rank) oid 0 d.now).psvRecord p 0x202 (oid % 2 ^ 40)) x.1
  let div := match mine with | some m => m.divergent.contains oid | none => false
  let c := chooseShard s.prot.toNat x.2 div
  (match c.2 with | some w => d.diverged p oid w.1 w.2 | none => d, c.1)

/-- Every shard of a restore, by OID. -/
def Dev.fetchShards (p : Nat) (key : BitVec 256) (mine : Option SaveSlot) (saved : SavedShape) :
    List Sys2Proof.ShardSource → Dev → Dev × List (Nat × Option (List Byte))
  | [], d => (d, [])
  | s :: ss, d =>
    let x := d.fetchShard p key mine saved s
    let y := Dev.fetchShards p key mine saved ss x.1
    (y.1, (s.oid.toNat, x.2) :: y.2)

/-- The context shard that a plaintext spells: the module's own save's where it is that one's. -/
def contextIn (mine : Option SaveSlot) (b : List Byte) : Option SavedImage :=
  match mine.bind SaveSlot.image with
  | some i => if Config.contextShard i = b then some i else Config.contextOf b
  | none => Config.contextOf b

/-- The sidecar's registers and logs that a plaintext spells. -/
def sidecarIn (mine : Option SaveSlot) (b : List Byte) : NatMap × List (Nat × List Byte) :=
  match mine with
  | some s => if Config.sidecarShard s.side s.logs s.programs = b then (s.side, s.logs) else Config.sidecarOf b
  | none => Config.sidecarOf b

/-- Facet index f of a partition whose sectors were `old`, as it stands in the sectors `new` (R303: the same positions). -/
def movedFacet (old new : List Nat) (f : Nat) : Nat := 16 * (new.getD (old.idxOf (f / 16)) (f / 16)) + f % 16

/-- The keys of an array with `per` entries to a facet, moved. -/
def movedKeys {α : Type} (old new : List Nat) (per : Nat) (m : List (Nat × α)) : List (Nat × α) :=
  m.map fun e => (movedFacet old new (e.1 / per) * per + e.1 % per, e.2)

/-- An image as p's sectors load it at a restore: its facets at the same positions, every context at SPT with C[SCOND] = 0 (R303).
The instruction store and the context registers are those that LOAD_PROGRAM has written. -/
def Dev.restoredImage (d : Dev) (p : Nat) (i : SavedImage) (resume : Bool) : SavedImage :=
  let new := d.heldSectors p
  let old := (List.range 16).filter fun g => bit i.sectors g
  let mv {α : Type} (per : Nat) (m : List (Nat × α)) : List (Nat × α) := movedKeys old new per m
  let cs := (d.ctxsOf p).map fun y =>
    let c := ((i.ctxs.find? fun e => e.1 / 8 == y.1).map Prod.snd).getD Ctx.absent
    let v := d.fld (rPsvSpt p) (32 * y.1 + 31) (32 * y.1)
    (y.1 * 8 + y.2, { c with
      state := if resume then CtxState.running else CtxState.idle, part := p, phase := CtxPhase.boundary, saveStop := false,
      bidx := if bit v 31 then bits v 12 0 else c.bidx, conds := c.conds.set (bits v 19 16) 0 })
  { i with
    p, ctxs := cs, ls := mv 0x200000 i.ls, vregs := mv 524288 i.vregs, pregs := mv 131072 i.pregs, aregs := mv 32 i.aregs,
    accs := mv 2 i.accs, pds := mv 8 i.pds, pvs := mv 384 i.pvs, wds := mv 8 i.wds, cells := mv 1 i.cells, dcnt := mv 1024 i.dcnt,
    rng := mv 512 i.rng, istore := [], fill := [],
    regs := (i.regs.filter fun e => (List.range 256).any fun f => decide (rFct f ≤ e.1 ∧ e.1 < rFct f + 0x10000)).map fun e =>
      let f := ((List.range 256).find? fun f => decide (rFct f ≤ e.1 ∧ e.1 < rFct f + 0x10000)).getD 0
      (rFct (movedFacet old new f) + (e.1 - rFct f), e.2) }

/-- R303 steps 2 to 5. -/
def Dev.putBack (d : Dev) (p : Nat) (image : Option SavedImage) (side : NatMap) (logs : List (Nat × List Byte)) (resume : Bool) : Dev :=
  let d := match image with
    | none => d
    | some i =>
      let i := d.restoredImage p i resume
      if d.live p then d.loadImage i (d.heldSectors p) else d.setImage p (some i)
  let a := d.fld (rPsvStepw p) 47 6 * 64
  let d := if d.inShare p a 16 then d.gwrite a (leBytes 8 (side.get 1) ++ leBytes 8 (side.get 2)) else d
  let d := forL ([rNevRhead p, rNevRtail p] ++ (List.range 6).flatMap fun k => [rNevCnt p k, rNevCap p k]) (fun o (d : Dev) =>
    d.setReg o (side.get o)) d
  let d := d.writeStepWord p (2 ^ 64 - 1)
  let d := forL ((List.range 4).filter fun r => d.ringOn p r && side.get (rIngCur p r) != 0) (fun r (d : Dev) =>
    let cur := side.get (rIngCur p r)
    let buf := d.fld (rIngLog p r) 47 0
    let d := d.stopRing p r 0x8
    let d := match logs.find? fun l => l.1 == r with
      | some l => if d.inShare p buf l.2.length then d.gwrite buf l.2 else d
      | none => d
    let d := d.setRing p r { Ring.none with rseq := bits cur 511 448, ftag := bits cur 255 226, rois := (d.ring p r).rois,
                                             posted := (d.ring p r).posted }
    (d.setReg (rIngRingPtr p r) 0).setReg (rIngCur p r) cur) d
  forL (d.groupsOn p) (fun g (d : Dev) => d.resetGroup g) d

/-- The verified shards are put in place: those of the plan's regions, at their addresses. -/
def Dev.placeShards (d : Dev) (p : Nat) (l : List (Nat × List Byte)) : Dev :=
  let x := d.psvOf p
  let log2 := d.fld (rPsvCfg p) 5 0
  forL l (fun e (d : Dev) =>
    match x.plan[bits e.1 23 12]? with
    | none => d
    | some r => d.gwrite (r.addr + bits e.1 11 0 * 2 ^ log2) (e.2.take (r.len - bits e.1 11 0 * 2 ^ log2))) d

/-- PSV_p_SAVE after a restore of save `id`: the save that the partition stands at, with its tiers as far as this module holds
it; a later save has a greater SAVE_ID (R296, Table 15-6; DESIGN CHOICE, log 104). -/
def Dev.showRestored (d : Dev) (p id : Nat) (mine : Option SaveSlot) : Dev :=
  let tiers := match mine with | some s => s.tiers | none => 0
  let x := d.psvOf p
  (d.setPsv p { x with maxId := max x.maxId id }).setReg (rPsvSave p)
    (id * 2 ^ 64 + 6 * 2 ^ 45 + tiers % 8 * 2 ^ 42 + id % 2 * 2 ^ 41 + max id (d.fld (rPsvSave p) 39 0) % 2 ^ 40)

/-- PSV_RESTORE (R300, R303): SAVE_ID, role (0 SURVIVOR, 1 REPLACEMENT), failed ranks with their times, program images, RESUME.
`images` are the images at the addresses given, `saved` what the verified manifest says and `sources` what the sources outside
the module's reserve gave of each shard. -/
def execPsvRestore (q : QueueN) (images : List (List Byte)) (saved : SavedShape) (sources : List ShardSource) (st : State) :
    Host.Outcome State Fault Refusal :=
  st.act fun d => d.cmd q 0x805 [.num 4, .num 1, .list [2, 8], .list [8], .num 1]
    (fun ps => firstBad [(decide (1 < ps.at 1), 1), (decide (1 < ps.at 2), 4)])
    fun c ps d => d.onPart c fun d =>
      let p := c.part
      let id := ps.at 0
      let n0 := sectorsOn (d.sectors p) 0
      let n1 := sectorsOn (d.sectors p) 1
      let slot := d.fld (rPsvCfg p) 47 32
      if d.psvPhase p ≠ 0 ∧ d.psvPhase p ≤ 3 then d.fail c 0x4
      else if saved.sectors0 ≠ n0 ∨ saved.sectors1 ≠ n1 ∨ images.map Config.sha256 ≠ saved.programs ∨
          images.length ≠ (d.ctxsOf p).length then d.fail c 0x206 (detail 0 0 0 0 (n0 + n1 * 256))
      else match d.slotFor slot p 3 with
      | none => d.fail c 0x14 (detail 0 0 0 0 slot)
      | some key =>
        let held := (d.psvOf p).saves.find? fun s => s.saveId == id
        let mine := if ps.at 1 = 0 then held else none
        let x := Dev.fetchShards p key mine saved sources d
        let d := x.1
        match x.2.find? fun g => g.2.isNone with
        | some g => d.fail c 0x205 (detail 0 0 0 0 (g.1 % 2 ^ 40))
        | none =>
          d.load c images fun d =>
            let shards := x.2.filterMap fun g => g.2.map fun b => (g.1, b)
            let d := d.placeShards p shards
            let plain (k : Nat) : List Byte := ((shards.find? fun e => bits e.1 23 12 == k).map Prod.snd).getD []
            let side := sidecarIn mine (plain 0xFFF)
            ((d.putBack p (contextIn mine (plain 0xFFE)) side.1 side.2 (ps.at 2 == 1)).showRestored p id held).done c

end Sys2Proof.Machine
end

