-- ==== Sys2Proof/Machine/Registers.lean ====
section
/-! DEFINITION. Host accesses to BAR 0 (00_scope.md, R5; 22_address_map.md, R381, R382): writes by access type and lock,
with the registers whose writes do more, and the value a read answers with. -/

namespace Sys2Proof.Machine

/-! ## Access types (Table 00-6) -/

/-- The bits of a field that a mask covers. -/
def Fld.mask (f : Fld) (m : Nat) : Nat := ((2 ^ (f.hi + 1 - f.lo) - 1) * 2 ^ f.lo) &&& m

/-- One field of a register under a write of `raw` to the bits of `m`. -/
def Fld.apply (locked : Bool) (m raw : Nat) (f : Fld) (v : Nat) : Nat :=
  let k := f.mask m
  match f.acc with
  | .ro => v
  | .wo => v
  | .rw => mixBits v k raw
  | .w1c => mixBits v (k &&& raw) 0
  | .w1s => v ||| (k &&& raw)
  | .rwl => if locked then v else mixBits v k raw

/-- The lock bit of a register's block is set. -/
def Dev.lockedBy (d : Dev) (r : RegDesc) : Bool := r.lock != 0 && d.flag r.lock 0

/-- The value a register takes by its access types alone. -/
def Dev.merged (d : Dev) (r : RegDesc) (m raw : Nat) : Nat :=
  forL r.flds (fun f v => f.apply (d.lockedBy r) m raw v) (d.reg r.base)

/-- The bits written to the WO fields. -/
def woBits (r : RegDesc) (m raw : Nat) : Nat :=
  forL r.flds (fun f v => if f.acc = .wo then v ||| (raw &&& f.mask m) else v) 0

/-! ## Reach of a function (R258, R278, R290, R307) -/

/-- The counter slot that holds BAR 0 offset `off`. -/
def slotAt (off : Nat) : Option PmuSlot :=
  if off < 0x3100000 then none else
  let o := off - 0x3100000
  if o < 0x10000 then slotOf 0 (o / 0x100) (o % 0x100 / 0x20)
  else if o < 0x20000 then slotOf 1 ((o - 0x10000) / 0x80) (o % 0x80 / 0x20)
  else if o < 0x30000 then slotOf 2 ((o - 0x20000) / 0x40) (o % 0x40 / 0x20)
  else if o < 0x40000 then slotOf 3 ((o - 0x30000) / 0x80) (o % 0x80 / 0x20)
  else if o < 0x50000 then slotOf 4 ((o - 0x40000) / 0x80) (o % 0x80 / 0x20)
  else none

/-- Whether function fn may write a register. -/
def Dev.reaches (d : Dev) (fn : Nat) (r : RegDesc) : Bool :=
  if fn = 0 then true else
  match d.vfPart fn with
  | none => false
  | some p =>
    match slotAt r.base with
    | some s => d.mayWriteSlot fn s
    | none => match r.reach with
      | .pf => false
      | .part q => q == p
      | .ctx h n => d.resident p && d.ctxNum p h == some n
      | .facet f => d.resident p && d.holds p (sectorOf f)
      | .port n => d.portPart n == some p
      | .queue _ => false
      | .peer i => d.fld (rBrvPeer i) 253 250 == p

/-! ## Registers whose writes do more -/

/-- `v` within its bounds, else the old field. -/
def keepUnless (ok : Bool) (v old : Nat) : Nat := if ok then v else old

/-- A write to a register of GOV, CLK or BOOT: `v` the register with its WO fields as written, `m` the bits written. -/
def Dev.writeLow (d : Dev) (r : RegDesc) (v raw : Nat) : Dev :=
  let b := r.base
  if b = rGovCap then d.govWrite 0 (bits v 10 0)
  else if b = rGovRamp then d.writeRamp v
  else if b = rGovBrake then d.writeBrake v
  else if b = rGovTherm then d.writeTherm v
  else if b = rGovStatus then (d.setReg b v).setFlag b 24 (bit v 24 || (d.flag b 24 && d.sys.inputBad))
  else if b = rClkTpll 0 then (if d.lockedBy r then d else d.writeFmax 0 (bits v 26 16))
  else if b = rClkTpll 1 then (if d.lockedBy r then d else d.writeFmax 1 (bits v 26 16))
  else if b = rClkGateOn then d.gatesOn raw
  else if b = rClkGateOff then d.gatesOff raw
  else if b = rClkTbAdj then d.writeAdj v
  else if b = rClkTbStep then d.writeStep v
  else if b = rClkPtpCfg then d.writePtp v
  else if b = rBootCfg then d.writeBootCfg v
  else if b = rBootCtrl then d.writeBootCtrl v
  else if b = rBootRcvCtl then d.writeRcvCtl v
  else d.setReg b v

/-- A write of a register of queue q: held while a QUEUE_DELETE of it has not completed (R9). -/
def Dev.writeQueueReg (d : Dev) (r : RegDesc) (q k v m raw : Nat) : Dev :=
  if (d.queue q).closing.isSome then
    d.setQueue q { d.queue q with held := (d.queue q).held ++ [(k, r.flds.foldl (fun n f => n ||| f.mask m) 0, raw)] }
  else if k = 0 then d.writeSq q v else if k = 1 then d.writeCq q v else d.writeVec q v

/-- A write to a register of HQ. -/
def Dev.writeHq (d : Dev) (r : RegDesc) (v m raw : Nat) : Dev :=
  let b := r.base
  match arrAt b 0x90000 4 16384, arrAt b 0xC0000 0x10 16384, arrAt b 0xA0000 0x10 64 with
  | some (q, _), _, _ => d.writeQueueReg r q 2 v m raw
  | _, some (q, k), _ => d.writeQueueReg r q (if k = 0 then 0 else 1) v m raw
  | _, _, some _ => d.setReg b (if d.flag b 31 then setBits v 23 20 (d.fld b 23 20) else v)
  | _, _, _ => if b = rHqArb then d.writeArb v else d.setReg b v

/-- A write to a register of PRT, numeric events among them. -/
def Dev.writePrt (d : Dev) (r : RegDesc) (v : Nat) : Dev :=
  let b := r.base
  match arrAt b 0x110000 0x100 16, arrAt b 0x180000 0x1000 16 with
  | some (_, k), _ =>
    if k = 0x14 then d.setReg b (keepUnless (decide (2000 ≤ bits v 19 0 ∧ bits v 19 0 ≤ 1000000)) v (d.reg b))
    else d.setReg b v
  | _, some (p, k) => if k = 0 then d.writeNevBase p v else if k = 8 then d.writeNevCfg p v else d.setReg b v
  | _, _ => d.setReg b v

/-- ING_p_BUDGET with each field inside its range. -/
def budgetOf (v old : Nat) : Nat :=
  keepUnless (decide (1 ≤ bits v 13 8 ∧ bits v 13 8 ≤ 50)) (bits v 13 8) (bits old 13 8) * 2 ^ 8 +
    keepUnless (decide (2 ≤ bits v 6 0 ∧ bits v 6 0 ≤ 64)) (bits v 6 0) (bits old 6 0)

/-- A write to a register of ING. -/
def Dev.writeIng (d : Dev) (r : RegDesc) (v : Nat) : Dev :=
  let b := r.base
  match arrAt b 0x210000 0x1000 16 with
  | none => d.setReg b v
  | some (p, k) =>
    match arrAt k 0x20 8 6, arrAt k 0x200 0x40 4, arrAt k 0x400 0x40 4 with
    | some (c, _), _, _ => d.writeQuota p c v
    | _, some (i, j), _ =>
      if j = 0 then d.writeRingBase p i v else if j = 8 then d.writeRingCfg p i v else d.writeRingMel p i v
    | _, _, some (i, _) => if d.ringBusy p i then d else d.setReg b v
    | _, _, _ => if k = 0x10 then d.setReg b (budgetOf v (d.reg b)) else d.setReg b v

/-- A write to a register of BRV. -/
def Dev.writeBrv (d : Dev) (r : RegDesc) (v : Nat) : Dev :=
  let b := r.base
  match arrAt b 0x400000 0x10000 48, arrAt b 0x720000 4 4096, arrAt b 0x740000 0x40 4096 with
  | some (n, k), _, _ => if k = 0 then (if d.ganged n then d else d.writePortCfg n v) else d.setReg b v
  | _, some (g, _), _ => if d.grpOn g then d else d.setReg b v
  | _, _, some (g, _) => d.writeGroup g v
  | _, _, _ =>
    if b = rBrvPfcwd then d.setReg b (keepUnless (decide (1 ≤ bits v 15 0 ∧ bits v 15 0 ≤ 10000)) v (d.reg b))
    else d.setReg b v

/-- A write to a register of MEM. -/
def Dev.writeMem (d : Dev) (r : RegDesc) (v : Nat) : Dev :=
  let b := r.base
  match arrAt b 0x840000 0x100 16 with
  | some (p, k) => if k % 16 = 0 then d.writeFwCfg p (k / 16) v else d.writeFwTgt p (k / 16) v
  | none => if b = rMemCfg then d.writeMemCfg v else d.setReg b v

/-- A write of SEQ_CTX_n_CTRL (Table 02-13): the bits act from the lowest up. -/
def Dev.writeCtrl (d : Dev) (h : Fin 2) (n : Fin 8) (v : Nat) : Dev :=
  let d := if bit v 0 then d.startCtx h.val n.val else d
  if !d.debugOpen then d else
  let d := if bit v 1 then d.resumeCtxs (d.ctx h.val n.val).part else d
  let d := if bit v 2 then d.debugHalt h.val n.val else d
  if bit v 3 then d.stepCtx { h, n } else d

/-- A context is idle or halted (R58, R96). -/
def Dev.ctxQuiet (d : Dev) (h n : Nat) : Bool :=
  let s := (d.ctx h n).state
  s == .idle || s == .halted

/-- A write to a register of SEQ of hemisphere h (R58, R96, R130) or of a facet window: `w` is the value of a generator
state, and `m`, `raw` the bits written. -/
def Dev.writeHemi (d : Dev) (r : RegDesc) (v m raw : Nat) : Dev :=
  let b := r.base
  match r.reach with
  | .ctx h n =>
    let k := b - rCtx h n
    if b < rHemi h + 0x20000 ∧ k = 0 then d.writeCtrl (Fin.ofNat 2 h) (Fin.ofNat 8 n) v
    else if b < rHemi h + 0x20000 ∧ k = 0x20 then (if d.debugOpen then d.setReg b v else d)
    else if b < rHemi h + 0x20000 ∧ k = 0x30 then d.setReg b v
    else if d.ctxQuiet h n then d.setReg b v else d
  | .facet f =>
    if r.bytes = 32 then
      let l := (b - rFct f - 0x4000) / 0x20
      let quiet := (List.range 16).all fun p => !(d.partValid p && d.holds p (sectorOf f)) || d.quiet p
      if quiet then { d with rng := d.rng.set (f * 512 + l) (mixBits (d.rng.get (f * 512 + l)) (m &&& (2 ^ 192 - 1)) raw) } else d
    else d.setReg b v
  | _ => d.setReg b v

/-- A write of PMU_p_SR_BASE or _CFG, with the rules of the numeric-event ring (R312, R125). -/
def Dev.writeSmpRing (d : Dev) (p k v : Nat) : Dev :=
  let old := d.reg (rPmuSrCfg p)
  if k = 0 then (if bit old 31 then d else d.setReg (rPmuSrBase p) v)
  else if k = 8 then
    let log2n := if bit old 31 then bits old 4 0 else bits v 4 0
    let on := bit v 31 && (bit old 31 || decide (4 ≤ log2n ∧ log2n ≤ 20))
    d.setReg (rPmuSrCfg p) (b2n on * 2 ^ 31 + bits v 30 20 * 2 ^ 20 + log2n)
  else d.setReg (rPmuSrBase p + k) v

/-- A write to a register of PMU. -/
def Dev.writePmu (d : Dev) (r : RegDesc) (v : Nat) : Dev :=
  let b := r.base
  match arrAt b 0x3020000 0x40 16, arrAt b 0x3160000 0x40 49 with
  | some (p, k), _ => d.writeSmpRing p k v
  | _, some (n, _) => d.writeBw n v
  | _, _ =>
    if b = rPmuCtrl then
      let d := d.setFlag b 31 (bit v 31)
      if bit v 0 then d.clearSlots else d
    else if b = rPmuSnapAt then d.writeSnapAt v
    else d.setReg b v

/-- A write to a register of PSV (R305). -/
def Dev.writePsv (d : Dev) (r : RegDesc) (v : Nat) : Dev :=
  match r.reach with
  | .part p => if d.psvBusy p then d else d.setReg r.base v
  | _ => d

/-- A write of `raw` to the bits `m` of a register. -/
def Dev.writeReg (d : Dev) (r : RegDesc) (m raw : Nat) : Dev :=
  let v := d.merged r m raw ||| woBits r m raw
  let b := r.base
  if r.flds.isEmpty then d
  else if b < 0x40000 then d.writeLow r v (raw &&& m)
  else if b < 0x80000 then d.setReg b v
  else if b < 0x100000 then d.writeHq r v m raw
  else if b < 0x200000 then d.writePrt r v
  else if b < 0x400000 then d.writeIng r v
  else if b < 0x800000 then d.writeBrv r v
  else if b < 0x1000000 then d.writeMem r v
  else if b < 0x3000000 then d.writeHemi r v m raw
  else if b < 0x3400000 then d.writePmu r v
  else if b < 0x3600000 then d.writePsv r v
  else if b = rFlfWdog then d.writeWdog v
  else d.setReg b v

/-- After a device-fatal error only management and reset are accepted: the registers of BOOT (Table 00-8; DEDUCED, log 100). -/
def Dev.accepts (d : Dev) (r : RegDesc) : Bool :=
  !d.flag rHqDevstat 30 || decide (0x30000 ≤ r.base ∧ r.base < 0x40000)

/-- A write of `n` bytes at offset `off` that lies in one register. -/
def Dev.writePiece (d : Dev) (fn off n v : Nat) : Dev :=
  match regAt off with
  | none => d
  | some r =>
    let sh := 8 * (off - r.base)
    if d.accepts r && d.reaches fn r then d.writeReg r ((2 ^ (8 * n) - 1) * 2 ^ sh) (v % 2 ^ (8 * n) * 2 ^ sh) else d

/-- A host write to BAR 0 (R382): naturally aligned, of 4 or 8 bytes; 8 bytes over two 32-bit registers act on both. -/
def Dev.hostWrite (d : Dev) (fn off n v : Nat) : Dev :=
  if off % n ≠ 0 then d
  else if n = 4 then d.writePiece fn off 4 v
  else if n = 8 then
    match regAt off with
    | some r => if 8 ≤ r.bytes then d.writePiece fn off 8 v else (d.writePiece fn off 4 v).writePiece fn (off + 4) 4 (v / 2 ^ 32)
    | none => d.writePiece fn (off + 4) 4 (v / 2 ^ 32)
  else d

/-! ## Reads -/

/-- A loop-stack entry as SEQ_CTX_n_LSTK_k shows it (Table 02-16). -/
def LoopEntry.view (e : LoopEntry) : Nat := 2 ^ 63 + e.left % 2 ^ 25 * 2 ^ 38 + e.last * 2 ^ 25 + e.first * 2 ^ 12

/-- A hinge-stack entry as SEQ_CTX_n_HSTK_k shows it (Table 04-9). -/
def HingeEntry.view (e : HingeEntry) : Nat :=
  2 ^ 127 + b2n e.isOpen * 2 ^ 126 + b2n e.align16 * 2 ^ 125 + b2n e.bflt * 2 ^ 124 + b2n e.inbr * 2 ^ 123 +
    e.sel * 2 ^ 121 + e.phase * 2 ^ 117 + e.last * 2 ^ 104 + e.join * 2 ^ 91 + e.htab * 2 ^ 83 + e.len % 2 ^ 32 * 2 ^ 32 +
    e.elapsed % 2 ^ 32

/-- STATE of SEQ_CTX_n_STATUS. -/
def CtxState.code : CtxState → Nat
  | .absent => 0
  | .idle => 1
  | .running => 2
  | .halted => 3
  | .debugHalted => 4
  | .stopped => 5
  | .preempted => 6

/-- Whether a context stands at, or within, a bundle of its program. -/
def Ctx.inBundle (x : Ctx) : Bool :=
  !(x.state == .absent || x.state == .idle || x.state == .halted) &&
    (x.phase == .boundary || x.phase == .issuing || x.phase == .fenceWait || x.phase == .dfenceWait)

/-- RPTLEFT and ICOUNT at the last bundle boundary, from the rpt of the bundle at the context's index: all of its issues
remained, and none was counted (R56). -/
def Ctx.atBoundary (x : Ctx) (rpt : Nat) : Nat × Nat :=
  if !x.inBundle then (0, x.icount)
  else if x.phase = .issuing then (rpt, x.icount - (rpt - x.rptLeft)) else (rpt, x.icount)

/-- SEQ_CTX_n_STATUS (Table 02-14). -/
def Ctx.status (x : Ctx) (rpt : Nat) : Nat :=
  (x.atBoundary rpt).1 * 2 ^ 48 + x.bidx * 2 ^ 35 + x.loops.length * 2 ^ 31 + x.state.code * 2 ^ 28 +
    b2n (x.phase == .fillWait) * 2 ^ 27 + b2n (x.phase == .fenceWait) * 2 ^ 26

/-- SEQ_CTX_n_COND (Table 04-8). -/
def Ctx.condView (x : Ctx) : Nat := forN 16 (fun i v => v + x.conds.get i % 4 * 4 ^ i) 0

/-- The entry of a stack held innermost first that stands k places from the outermost. -/
def fromOuter {α : Type} (l : List α) (k : Nat) : Option α := if k < l.length then l[l.length - 1 - k]? else none

/-- Context n of hemisphere h as its registers show it, with the instruction store its index counts in: where none is in
the sequencer, that of the lowest partition whose saved image holds one, pre-empted (R58, log 97). -/
def Dev.shownCtx (d : Dev) (h n : Nat) : Ctx × NatMap :=
  let x := d.ctx h n
  if x.state ≠ .absent then (x, d.istore) else
  let here (p : Nat) : Option SavedImage := (d.image p).filter fun i => i.ctxs.any fun e => e.1 == h * 8 + n
  match (List.range 16).findSome? here with
  | some i => ({ alGet Ctx.absent i.ctxs (h * 8 + n) with state := .preempted }, i.istore)
  | none => (x, d.istore)

/-- A register of a context as its context holds it. -/
def Dev.readCtx (d : Dev) (h n b : Nat) : Nat :=
  let y := d.shownCtx h n
  let x := y.1
  let rpt := (decHeader (y.2.get (isKey h x.bidx))).rpt
  let k := b - rCtx h n
  if rHemi h + 0x20000 ≤ b then d.reg b
  else if k = 0x8 then x.status rpt
  else if k = 0x10 then (x.atBoundary rpt).2
  else if k = 0x28 then x.condView
  else if 0x40 ≤ k ∧ k < 0x80 then ((fromOuter x.hinges ((k - 0x40) / 0x10)).map HingeEntry.view).getD 0
  else if 0x100 ≤ k ∧ k < 0x140 then ((fromOuter x.loops ((k - 0x100) / 8)).map LoopEntry.view).getD 0
  else d.reg b

/-- A drain of an accumulator set is reading rows: row 127 is read 40 cycles before it is written (R22). -/
def Dev.drainBusy (d : Dev) (f : Nat) (set : Bool) : Bool :=
  d.ctxs.any fun e => e.2.inflight.any fun x => match x.eff with
    | .drainRow j r => j.facet == f && j.set == set && decide (e.2.cyc + 40 + r ≤ x.due + 127)
    | _ => false

/-- FCT_PSTAT (Table 03-22). -/
def Dev.pstat (d : Dev) (f : Nat) : Nat :=
  let a := d.acc f false
  let b := d.acc f true
  b2n (d.drainBusy f true) * 2 ^ 61 + b2n (d.drainBusy f false) * 2 ^ 60 + b2n b.intMode * 2 ^ 59 + b2n a.intMode * 2 ^ 58 +
    b.kcnt % 2 ^ 29 * 2 ^ 29 + a.kcnt % 2 ^ 29

/-- The 8 B word at offset k of a facet window's read-only arrays (Table 22-3). -/
def Dev.facetWord (d : Dev) (f k : Nat) : Nat :=
  if 0x100 ≤ k ∧ k < 0x300 then d.pds.get (f * 8 + (k - 0x100) / 0x40) / 2 ^ (8 * (k % 0x40 / 8 * 8)) % 2 ^ 64
  else if 0x400 ≤ k ∧ k < 0xA00 then
    let i := (k - 0x400) / 8 * 2
    d.pvs.get (f * 384 + i) + d.pvs.get (f * 384 + i + 1) * 2 ^ 32
  else if 0xA00 ≤ k ∧ k < 0xB00 then d.aregs.get (f * 32 + (k - 0xA00) / 8)
  else if 0xC00 ≤ k ∧ k < 0x1400 then
    forN 4 (fun j v => v + d.dcnt.get (f * 1024 + (k - 0xC00) / 8 * 4 + j) * 2 ^ (16 * j)) 0
  else if 0x1400 ≤ k ∧ k < 0x1600 then d.wds.get (f * 8 + (k - 0x1400) / 0x40) / 2 ^ (8 * (k % 0x40 / 8 * 8)) % 2 ^ 64
  else 0

/-- The value of a register, whole, as a read returns it: WO fields read 0. -/
def Dev.regValue (d : Dev) (r : RegDesc) : Nat :=
  let b := r.base
  let v := match r.reach with
    | .ctx h n => d.readCtx h n b
    | .facet f =>
      if b = rFctPstat f then d.pstat f
      else if r.bytes = 32 then d.rng.get (f * 512 + (b - rFct f - 0x4000) / 0x20)
      else d.reg b
    | _ => if b = rClkTb ∨ b = rPmuTime then d.sys.tb else if b = rGlbSig then d.glbSig
      else match arrAt b (rFlfCore 0) 8 16 with
        | some (c, _) => setBits (d.reg b) 39 32 (d.wdRecent c)
        | none => d.reg b
  forL r.flds (fun f v => if f.acc = .wo then mixBits v (f.mask (2 ^ 512 - 1)) 0 else v) v

/-- The facet and window offset of a BAR 0 offset in a facet window. -/
def facetAt (off : Nat) : Option (Nat × Nat) :=
  if off < 0x1000000 ∨ 0x3000000 ≤ off then none else
  let h := off / 0x1000000 - 1
  let o := off % 0x1000000
  if 0x100000 ≤ o ∧ o < 0x900000 then some (h * 128 + (o - 0x100000) / 0x10000, o % 0x10000) else none

/-- The 8 B word of BAR 0 that stands at an 8 B-aligned offset, as the PF reads it with each register captured at once
(R382): two 32-bit registers side by side, or a word of a wider one. -/
def Dev.readWord (d : Dev) (off : Nat) : Nat :=
  let piece (o : Nat) : Nat := match regAt o with
    | some r => d.regValue r / 2 ^ (8 * (o - r.base)) % 2 ^ (if 8 ≤ r.bytes then 64 else 32)
    | none => 0
  match facetAt off, regAt off with
  | some (f, k), none => if k = 4 then 0 else d.facetWord f k
  | _, some r => if 8 ≤ r.bytes then piece off else piece off + piece (off + 4) * 2 ^ 32
  | none, none => piece (off + 4) * 2 ^ 32

end Sys2Proof.Machine
end

