-- ==== Sys2Proof/Machine/Sideband.lean ====
section
/-! DEFINITION. The management paths: FRU data and its EEPROM, PLDM, and the JTAG TAP (00_scope.md, R2; 12_custody.md, R252;
17_flifin_cluster.md, R322, R323; 21_module_signals.md, R373, R374, R376). -/

namespace Sys2Proof.Machine

/-! ## FRU data (R376) -/

/-- The FRU fields of Table 21-7; the part number is that of the part as shipped (R2). -/
def Dev.fruFields (d : Dev) : List (List Byte) :=
  [ascii "Cathiong Microsystems", ascii "Ezora EZ48", ascii (if d.sys.variant = 1 then "CTH-EZ48-768S" else "CTH-EZ48-768"),
   (Config.fruSerial ++ List.replicate 16 0x20).take 16, ascii "B0", (Config.fruRevision ++ List.replicate 2 0x20).take 2,
   (Config.fruDate ++ List.replicate 13 0).take 13, (Config.devId ++ List.replicate 16 0).take 16,
   (Config.fruMac ++ List.replicate 6 0).take 6 ++ leBytes 2 64, ascii "1,200 W",
   ascii "PG25, minimum flow 1.5 L/min, maximum inlet 40 C", ascii "46 to 58 V, 54 V nominal"]

/-- The FRU record set. -/
def Dev.fruRecord (d : Dev) : List Byte := Config.fruRecords d.fruFields

/-- One bit of CRC-16-CCITT, polynomial 0x1021. -/
def crc16Bit (c : Nat) : Nat := if 0x8000 ≤ c then Nat.xor (c * 2 % 2 ^ 16) 0x1021 else c * 2

/-- CRC-16-CCITT of bytes, from 0xFFFF. -/
def crc16 (bs : List Byte) : Nat :=
  bs.foldl (fun c b => forN 8 (fun _ c => crc16Bit c) (Nat.xor c (b.toNat * 256))) 0xFFFF

/-- The 2 KiB of the EEPROM: MAGIC, length and CRC of the record set, then the record set; the rest reads 0xFF (log 114). -/
def Dev.eeprom (d : Dev) : List Byte :=
  let body := d.fruRecord
  ((leBytes 4 0x46525531 ++ leBytes 2 body.length ++ leBytes 2 (crc16 body) ++ body) ++ List.replicate 2048 0xFF).take 2048

/-! ## PLDM (R322, R323) -/

/-- The sensors of Table 17-5 with SLOT_ID (R374), numbered in its order: input power (1 ms average, 0.1 W), input voltage (mV), die
temperatures (H0, H1, annulus), stack temperatures, TCLK of H0 and H1 (MHz), SLOT_ID, READY, FATAL, brake (log 114). -/
def Dev.sensor (d : Dev) (k : Nat) : Option Nat :=
  if k = 0 then some (d.fld rGovPwr 31 16)
  else if k = 1 then some (d.fld rGovVin 15 0)
  else if k < 5 then some (bits (d.reg rGovTemp) (8 * (k - 2) + 7) (8 * (k - 2)))
  else if k < 13 then some (d.reg (rMemTemp (k - 5)))
  else if k < 15 then some (d.fld (rClkPll (k - 13)) 15 0)
  else match k with
    | 15 => some d.sys.slotId
    | 16 => some (b2n (d.flag rHqDevstat 31))
    | 17 => some (b2n (d.flag rHqDevstat 30))
    | 18 => some (b2n d.braked)
    | _ => none

/-- The device answers a management request. -/
def Dev.sendReply (d : Dev) (r : Reply) : Dev := { d with sys := { d.sys with reply := some r } }

/-- A PLDM request, which the runtime answers: of a firmware update (type 5), code 0 begins the transfer of a component and code 1
stages its image in the inactive bank. -/
def Dev.pldm (d : Dev) (r : PldmReq) : Dev :=
  if !d.rtUp then d else
  match r.ptype, r.code with
  | 0, 4 => d.sendReply (.data (leBytes 8 0x35))
  | 0, k => d.sendReply (if k = 2 ∨ k = 3 ∨ k = 5 then .data (Config.pldmBase k) else .error)
  | 2, k => d.sendReply (match d.sensor k with | some v => .data (leBytes 4 v) | none => .error)
  | 4, _ => d.sendReply (.data d.fruRecord)
  | 5, 0 =>
    if d.sys.pldm.isSome then d.sendReply .error
    else ({ d with sys := { d.sys with pldm := some r.kind } } : Dev).sendReply (.data [])
  | 5, 1 =>
    if d.sys.pldm ≠ some r.kind then d.sendReply .error else
    let b := (d.bank r.kind.val).writeOther r.image
    let d := { d with sys := { d.sys with pldm := none } }
    ((d.setBank { b with staged := true }).markNext r.kind.val false).sendReply (.data [])
  | _, _ => d.sendReply .error

/-- PLDM_REQUEST (R322, R376): PLDM, or the FRU EEPROM, which answers while the input is on, with the core rails down too, and
acknowledges no write. -/
def execPldmRequest (r : MgmtReq) (st : State) : Host.Outcome State Fault Refusal :=
  match r with
  | .pldm r => st.act fun d => d.pldm r
  | .eepromRead off len =>
    .next { st with dev := if st.dev.sys.inputOn then st.dev.sendReply (.data (slice st.dev.eeprom off.toNat len)) else st.dev }
  | .eepromWrite _ _ => .next { st with dev := if st.dev.sys.inputOn then st.dev.sendReply .nack else st.dev }

/-! ## The TAP (R373) -/

/-- The next state of the TAP controller by TMS (IEEE 1149.1). -/
def TapSt.next (tms : Bool) : TapSt → TapSt
  | .testLogicReset => if tms then .testLogicReset else .runTestIdle
  | .runTestIdle => if tms then .selectDr else .runTestIdle
  | .selectDr => if tms then .selectIr else .captureDr
  | .captureDr => if tms then .exit1Dr else .shiftDr
  | .shiftDr => if tms then .exit1Dr else .shiftDr
  | .exit1Dr => if tms then .updateDr else .pauseDr
  | .pauseDr => if tms then .exit2Dr else .pauseDr
  | .exit2Dr => if tms then .updateDr else .shiftDr
  | .updateDr => if tms then .selectDr else .runTestIdle
  | .selectIr => if tms then .testLogicReset else .captureIr
  | .captureIr => if tms then .exit1Ir else .shiftIr
  | .shiftIr => if tms then .exit1Ir else .shiftIr
  | .exit1Ir => if tms then .updateIr else .pauseIr
  | .pauseIr => if tms then .exit2Ir else .pauseIr
  | .exit2Ir => if tms then .updateIr else .shiftIr
  | .updateIr => if tms then .selectDr else .runTestIdle

/-- The instruction in force. -/
def Tap.instruction (t : Tap) : List Bool := t.ir.getD Config.tapReset

/-- One cycle of TCK (IEEE 1149.1): on its rising edge the register of the state captures or shifts and the controller moves; on its
falling edge an update takes effect, and TDO is driven while the controller shifts. BYPASS, an instruction of ones, is one bit
that captures 0. -/
def Tap.cycle (t : Tap) (tms tdi : Bool) : Tap :=
  let ins := t.instruction
  let shift := match t.st with
    | .captureIr => ([true, false] ++ Config.tapCaptureIr).take (max 2 Config.tapReset.length)
    | .captureDr => if ins.all (· == true) then [false] else Config.tapCaptureDr ins
    | .shiftIr => t.shift.drop 1 ++ [tdi]
    | .shiftDr => t.shift.drop 1 ++ [tdi]
    | _ => t.shift
  let st := t.st.next tms
  match st with
  | .testLogicReset => Tap.inReset
  | .shiftIr => { t with st, shift, tdo := some (shift.headD false) }
  | .shiftDr => { t with st, shift, tdo := some (shift.headD false) }
  | .updateIr => { t with st, shift, ir := some shift, tdo := none }
  | .updateDr => { t with st, shift, held := shift, tdo := none }
  | _ => { t with st, shift, tdo := none }

/-- A cycle of TCK at the module: ignored while debug access is locked, and TRST_N low resets the TAP. -/
def Dev.tapCycle (d : Dev) (trstN tms tdi : Bool) : Dev :=
  if !d.debugOpen then d
  else { d with sys := { d.sys with tap := if trstN then d.sys.tap.cycle tms tdi else Tap.inReset } }

end Sys2Proof.Machine
end

