-- ==== Sys2Proof/Machine/Debug.lean ====
section
/-! DEFINITION. Register writes, by a function of the host or through the Scangathen debug port, and what the port
reaches while contexts are debug-halted (02_scangathen_bundle.md, R56, R57; 03, R82; 04, R96; 08, R166). -/

namespace Sys2Proof.Machine

/-! ## The debug port -/

/-- The facet is held by a partition all of whose contexts are debug-halted (R57, R82). -/
def Dev.facetHalted (d : Dev) (f : Nat) : Bool :=
  match d.residentOf (sectorOf f) with
  | none => false
  | some p => (d.ctxsOf p).all fun y => (d.ctx y.1 y.2).state == .debugHalted

/-- `v` with the 8 bytes at byte offset `o` of a wider value replaced as far as `m` says. -/
def mixAt (old o m raw : Nat) : Nat := mixBits old (m * 2 ^ (8 * o)) (raw * 2 ^ (8 * o))

/-- A write of `raw` to the bits `m` of the 8 B word at offset k of a facet window's arrays (Tables 03-21, 08-8, 22-3). -/
def Dev.writeFacetWord (d : Dev) (f k m raw : Nat) : Dev :=
  let put (a : NatMap) (i o : Nat) : NatMap := a.set i (mixAt (a.get i) o m raw)
  if 0x100 ≤ k ∧ k < 0x300 then { d with pds := put d.pds (f * 8 + (k - 0x100) / 0x40) (k % 0x40 / 8 * 8) }
  else if 0x400 ≤ k ∧ k < 0xA00 then
    let i := f * 384 + (k - 0x400) / 8 * 2
    let v := mixBits (d.pvs.get i + d.pvs.get (i + 1) * 2 ^ 32) m raw
    { d with pvs := (d.pvs.set i (v % 2 ^ 32)).set (i + 1) (v / 2 ^ 32) }
  else if 0xA00 ≤ k ∧ k < 0xB00 then
    let i := f * 32 + (k - 0xA00) / 8
    { d with aregs := d.aregs.set i (mixBits (d.aregs.get i) m raw % 2 ^ 48) }
  else if 0xC00 ≤ k ∧ k < 0x1400 then
    let i := f * 1024 + (k - 0xC00) / 8 * 4
    let v := mixBits (d.facetWord f k) m raw
    { d with dcnt := forN 4 (fun j a => a.set (i + j) (v / 2 ^ (16 * j) % 2 ^ 16)) d.dcnt }
  else if 0x1400 ≤ k ∧ k < 0x1600 then { d with wds := put d.wds (f * 8 + (k - 0x1400) / 0x40) (k % 0x40 / 8 * 8) }
  else d

/-- A write of FCT_PSTAT: the mode and the K-step count of both sets; DRN_A and DRN_B say what drains do. -/
def Dev.writePstat (d : Dev) (f m raw : Nat) : Dev :=
  let v := mixBits (d.pstat f) m raw
  (d.setAcc f false { d.acc f false with intMode := bit v 58, kcnt := bits v 28 0 }).setAcc f true
    { d.acc f true with intMode := bit v 59, kcnt := bits v 57 29 }

/-- The hinge-stack entry that a written SEQ_CTX_n_HSTK_k spells; what the register does not show stays as it was in
`old` (log 97). -/
def HingeEntry.ofView (old : HingeEntry) (v : Nat) : HingeEntry :=
  { old with isOpen := bit v 126, align16 := bit v 125, bflt := bit v 124, inbr := bit v 123, sel := bits v 122 121,
             phase := bits v 120 117, last := bits v 116 104, join := bits v 103 91, htab := bits v 90 83,
             len := bits v 63 32, elapsed := bits v 31 0 }

/-- A hinge-stack entry that shows 0. -/
def HingeEntry.none : HingeEntry where
  isOpen := false
  align16 := false
  bflt := false
  inbr := false
  sel := 0
  phase := 0
  last := 0
  join := 0
  htab := 0
  len := 0
  elapsed := 0
  bidx := 0
  begun := true

/-- Entry k from the outermost of a hinge stack is written: with VALID it is changed, or added as the innermost; without
it, it leaves the stack. -/
def putHinge (l : List HingeEntry) (k v : Nat) : List HingeEntry :=
  let r := l.reverse
  let e := HingeEntry.ofView (r.getD k HingeEntry.none) v
  (if bit v 127 then (if k < r.length then r.set k e else r ++ [e]) else r.eraseIdx k).reverse

/-- A write of SEQ_CTX_n_COND or of half of SEQ_CTX_n_HSTK_k through the debug port, of a debug-halted context (R96). -/
def Dev.writeHalted (d : Dev) (h n k m raw : Nat) : Dev :=
  let x := d.ctx h n
  if x.state ≠ .debugHalted then d
  else if k < 0x40 then
    let v := mixBits x.condView m raw
    d.setCtx h n { x with conds := forN 16 (fun i c => c.set i (v / 4 ^ i % 4)) x.conds }
  else
    let j := (k - 0x40) / 0x10
    let old := ((fromOuter x.hinges j).map HingeEntry.view).getD 0
    d.setCtx h n { x with hinges := putHinge x.hinges j (mixAt old (k % 0x10) m raw) }

/-- A write of `raw` to the bits `m` of the 8 B word at offset `off` of the SEQ registers or the facet windows, through
the debug port: what is read-only to the host, while its contexts are debug-halted, and else as the host's. -/
def Dev.debugWord (d : Dev) (off m raw : Nat) : Dev :=
  match facetAt off with
  | some (f, k) =>
    if !d.facetHalted f then d
    else if k = 0x10 then d.writePstat f m raw
    else match regAt off with
      | some _ => (d.writePiece 0 off 4 (raw % 2 ^ 32)).writePiece 0 (off + 4) 4 (raw / 2 ^ 32)
      | none => d.writeFacetWord f k m raw
  | none =>
    match (regAt off).map RegDesc.reach with
    | some (.ctx h n) =>
      let k := off - rCtx h n
      if k = 0x28 ∨ (0x40 ≤ k ∧ k < 0x80) then d.writeHalted h n k m raw else d.hostWrite 0 off 8 raw
    | _ => d

/-- A write of `n` bytes through the debug port. -/
def Dev.debugRegWrite (d : Dev) (off n v : Nat) : Dev :=
  if off < 0x1000000 ∨ 0x3000000 ≤ off ∨ off % n ≠ 0 then d
  else if n = 8 then d.debugWord off (2 ^ 64 - 1) v
  else if n = 4 then
    let special := match facetAt off, regAt off with
      | some _, _ => true
      | none, some r => (match r.reach with
          | .ctx h n => let k := off - rCtx h n; k == 0x28 || decide (0x40 ≤ k ∧ k < 0x80)
          | _ => false)
      | none, none => false
    let sh := 32 * (off / 4 % 2)
    if special then d.debugWord (off / 8 * 8) ((2 ^ 32 - 1) * 2 ^ sh) (v % 2 ^ 32 * 2 ^ sh) else d.hostWrite 0 off 4 v
  else d

/-- A write through the debug port, which must be usable (R56, R57). -/
def Dev.debugWrite (d : Dev) (t : DebugTarget) (n v : Nat) : Dev :=
  if !d.debugOpen then d else
  match t with
  | .reg off => d.debugRegWrite off.toNat n v
  | .vreg f k r l =>
    if d.facetHalted f.val then { d with vregs := d.vregs.set (vIdx f.val k.val r.val l.val) (v % 2 ^ 32) } else d
  | .preg f k p l =>
    if d.facetHalted f.val then { d with pregs := d.pregs.set (pIdx f.val k.val p.val l.val) (v % 2) } else d
  | .acc f set r c =>
    let a := d.acc f.val set
    if d.facetHalted f.val then d.setAcc f.val set { a with totals := alSet a.base a.totals (totIdx r.val c.val) v } else d
  | .store f a =>
    if d.facetHalted f.val && decide (a.toNat % n = 0) then d.lsWrite f.val (placeBytes a.toNat (leBytes n v)) else d

/-- What a read through the debug port answers (R56, R57): registers at any time it is usable, the rest while the
partition's contexts are debug-halted. -/
def Dev.debugRead (d : Dev) (t : DebugTarget) (n : Nat) : Option Nat :=
  if !d.debugOpen then none else
  let halted (f : FacetN) (v : Nat) : Option Nat := if d.facetHalted f.val then some v else none
  match t with
  | .reg off =>
    if off.toNat < 0x1000000 ∨ 0x3000000 ≤ off.toNat then none
    else some (d.readWord (off.toNat / 8 * 8) / 2 ^ (8 * (off.toNat % 8)) % 2 ^ (8 * n))
  | .vreg f k r l => halted f (d.vreg f.val k.val r.val l.val)
  | .preg f k p l => halted f (b2n (d.preg f.val k.val p.val l.val))
  | .acc f set r c => halted f ((d.acc f.val set).total r.val c.val)
  | .store f a => halted f (leNat ((List.range n).map fun i => d.lsByte f.val (a.toNat + i)))

/-! ## The row -/

/-- REGISTER_WRITE (R5, R57, R373, R381, R382): who writes, where, how many bytes, and the value. -/
def execRegisterWrite (by_ : Writer) (size : Nat) (v : BitVec 64) (st : State) : Host.Outcome State Fault Refusal :=
  st.act fun d =>
    match by_ with
    | .host fn off => if d.hostUp then (d.addBytes pcieUnit size 0).hostWrite fn.val off.toNat size v.toNat else d
    | .debug t => d.debugWrite t size v.toNat
    | .tap trstN tms tdi => d.tapCycle trstN tms tdi

end Sys2Proof.Machine
end

