-- ==== Sys2Proof/Machine/Held.lean ====
section
/-! DEFINITION. What a repair of a pseudo-channel held, and its end (09_memory_tiers.md, R184). -/

namespace Sys2Proof.Machine

/-- An access that a repair held comes about; one that meets another channel under repair is held again. -/
def Dev.replay (d : Dev) (x : HeldAccess) : Dev :=
  match x with
  | .request h n id =>
    (match (d.ctx h n).requests.find? fun r => r.id == id with
    | none => d
    | some r =>
      let x : Owned := { h, n, r }
      if d.requestHeld r then d.hold (.request h n id) else if d.canComplete x then d.completeRequest x else d)
  | .bar4 base o => d.bar4 base o
  | .stream h n => d.landStreamed h n
  | .barrov g epoch => d.opComplete g epoch
  | .granule a errs => d.rimRead a errs
  | .part a bytes errs => d.rimPartialWrite a bytes errs

/-- What was held comes about in the order in which it arrived. -/
def Dev.replayHeld (d : Dev) : Dev :=
  forL d.mem.held (fun x d => d.replay x) { d with mem := { d.mem with held := [] } }

/-- STACK_REPAIR_DONE (R184): the command completes, and the channel's requests go on. -/
def execStackRepairDone (x : Fin 8) (pc : Fin 32) (st : State) : Host.Outcome State Fault Refusal :=
  st.act fun d =>
    match d.mem.repairing.find? fun r => r.1 == chanKey x.val pc.val with
    | none => d
    | some r =>
      let d := { d with mem := { d.mem with repairing := d.mem.repairing.erase r } }
      d.replayHeld.finishSeq r.2.1 none 0 0

end Sys2Proof.Machine
end

