-- ==== Sys2Proof/Machine/KernelMath.lean ====
section
/-! DEFINITION. The arithmetic of the kernel profiles on elements, blocks and windows, as the rules fix it bit for bit
(05_number_formats.md, R111; 06, R126, R133; 07, R138 to R149; 08, R151 to R155). Every function takes and gives element
codes. -/

namespace Sys2Proof.Machine

/-! ## FP32 steps, each rounded to nearest-even -/

def kAdd (a b : Nat) : Nat := (arithEl .add 0 .even a b 0).1
def kSub (a b : Nat) : Nat := (arithEl .sub 0 .even a b 0).1
def kMul (a b : Nat) : Nat := (arithEl .mul 0 .even a b 0).1
def kFma (a b c : Nat) : Nat := (arithEl .fma 0 .even a b c).1
def kRcp (a : Nat) : Nat := (sfuLane 2 a).1
def kExp2 (a : Nat) : Nat := (sfuLane 0 a).1

/-- An element widened to FP32, which is exact for the formats of a load (R104, R108). -/
def widen (fmt code : Nat) : Nat := (toF32 .even (readElem fmt code).1).code

/-- An FP32 value converted to an output format with nearest-even rounding and SAT = 1. -/
def narrow (fmt code : Nat) : Nat := (convert fmt .even true (readF32 code).1).code

/-- A chord over contributions in chain order (R126). -/
def chord (cs : List Nat) : Nat :=
  match cs with
  | [] => 0
  | c :: cs => cs.foldl kAdd c

/-! ## Conversions (R111, R112) -/

/-- One element of CAST: CVT sub 0 from FP32 or BF16, sub 1 to them, or one after the other. -/
def castEl (src dst : Nat) (r : Rnd) (sat : Bool) (code : Nat) : Nat :=
  if src ≤ 1 then (cvtEl 0 src dst r sat code).1
  else if dst ≤ 1 then (cvtEl 1 dst src r sat code).1
  else (cvtEl 0 0 dst r sat (cvtEl 1 0 src .even false code).1).1

/-- Exponent of the largest finite value of a target of QUANT_MX. -/
def mxEmax (fmt : Nat) : Int := if fmt = 3 then 8 else if fmt = 4 then 15 else if fmt = 5 then 4 else 2

/-- `quant_mx`: the scale and the elements of a block of FP32 values. -/
def quantMx (fmt : Nat) (xs : List Nat) : Nat × List Nat :=
  let es := xs.map fun x => (readF32 x).1
  if es.any fun e => e.isNan || e.isInf then (0xFF, xs.map fun _ => 0)
  else
    let s : Nat := match (es.filter fun e => !e.isZero).map Elem.log2 with
      | [] => 0
      | l :: ls => (min (max (ls.foldl max l - mxEmax fmt + 127) 0) 254).toNat
    (s, es.map fun e => narrow fmt (toF32 .even (eMul e (Elem.fin false 1 (127 - Int.ofNat s))).1).code)

/-! ## 2:4 pruning (R138) -/

/-- Whether a code ranks above another: NaN, then infinity, then magnitude. -/
def ranksAbove (fmt a b : Nat) : Bool :=
  let x := (readElem fmt a).1
  let y := (readElem fmt b).1
  if y.isNan then false else if x.isNan then true
  else decide (0 < eCmp { x with neg := false } { y with neg := false })

/-- The two positions of a group of four that are kept, in increasing order. -/
def keptPair (fmt : Nat) (l : List Nat) : Nat × Nat :=
  let kept := (List.range 4).filter fun i =>
    decide (countIf (fun j => j != i && (ranksAbove fmt (nth l j) (nth l i) ||
      (decide (j < i) && !ranksAbove fmt (nth l i) (nth l j)))) (List.range 4) < 2)
  (nth kept 0, nth kept 1)

/-- The value codes and the metadata entries of a dense K × N weight, `w k n` its codes: tiles of 128 columns, and in each its
groups; columns beyond N are stored as zeros. -/
def prune24 (fmt kLen n : Nat) (w : Nat → Nat → Nat) : List Nat × List Nat :=
  let group (t g : Nat) : List (List Nat) := (List.range 128).map fun c =>
    (List.range 4).map fun i => if 128 * t + c < n then w (4 * g + i) (128 * t + c) else 0
  let parts := (List.range (ceilDiv n 128)).flatMap fun t => (List.range (kLen / 4)).map fun g =>
    (group t g).map fun l => (l, keptPair fmt l)
  (parts.flatMap fun g => (g.map fun x => nth x.1 x.2.1) ++ g.map fun x => nth x.1 x.2.2,
   parts.flatMap fun g => g.map fun x => x.2.2 * 4 + x.2.1)

/-! ## Block masks (R139) -/

/-- Block (kb, nb) of a mask of a weight with N columns is kept. -/
def maskKept (mask : Nat → Byte) (n kb nb : Nat) : Bool :=
  let i := kb * (n / 32) + nb
  decide (nb < n / 32) && (mask (i / 8)).getLsbD (i % 8)

/-- The K-blocks that are issued for column tile t, in increasing order. -/
def issuedBlocks (mask : Nat → Byte) (kLen n t : Nat) : List Nat :=
  (List.range (kLen / 32)).filter fun kb => (List.range 4).any fun j => maskKept mask n kb (4 * t + j)

/-- Adjacent K-blocks form one run: its first K-block and how many. -/
def blockRuns : List Nat → List (Nat × Nat)
  | [] => []
  | k :: ks =>
    match blockRuns ks with
    | (f, c) :: rs => if f = k + 1 then (k, c + 1) :: rs else (k, 1) :: (f, c) :: rs
    | [] => [(k, 1)]

/-- B of column tile t as it is packed: the issued K-blocks only, with +0 in their masked blocks. -/
def packedB (mask : Nat → Byte) (kLen n t : Nat) (w : Nat → Nat → Nat) : List Nat :=
  (issuedBlocks mask kLen n t).flatMap fun kb => (List.range 32).flatMap fun k => (List.range 128).map fun c =>
    if maskKept mask n kb (4 * t + c / 32) then w (32 * kb + k) (128 * t + c) else 0

/-! ## Gates and combine (R144, R149) -/

/-- `gates`. -/
def gates (v : List Nat) : List Nat :=
  let e := v.map fun x => kExp2 (kMul (kSub x (nth v 0)) 0x3FB8AA3B)
  let r := kRcp (chord e)
  e.map fun x => kMul x r

/-- RENORM: a token's weights over their sum in assignment order; the lanes divide by RCP and MUL (DESIGN CHOICE, log 105). -/
def renorm (ws : List Nat) : List Nat :=
  let r := kRcp (chord ws)
  ws.map fun w => kMul w r

/-- The ranked list of a token from its logits: m entries (value, index), as TOPK leaves it (R72, R143). -/
def routeList (m : Nat) (logits : List Nat) : List (Nat × Nat) :=
  ((List.range logits.length).zip logits).foldl (fun l x => (rankIn (asRead 0 x.2, x.1) l).take m)
    (List.replicate m (0xFF800000, 0xFFFFFFFF))

/-- One element of an output row: the fused multiply-adds in order of position. -/
def combineEl (start : Nat) (l : List (Nat × Nat)) : Nat := l.foldl (fun y x => kFma x.1 x.2 y) start

/-! ## Windows (R151 to R155) -/

/-- The geometry of a sliding-window operator. -/
structure Window where
  h : Nat
  w : Nat
  kh : Nat
  kw : Nat
  sh : Nat
  sw : Nat
  dh : Nat
  dw : Nat
  pt : Nat
  pb : Nat
  pl : Nat
  pr : Nat
deriving DecidableEq, Repr

/-- Ho and Wo; 0 where the window does not fit (R151). -/
def windowOut (size pads dil k stride : Nat) : Nat :=
  if size + pads < dil * (k - 1) + 1 then 0 else (size + pads - dil * (k - 1) - 1) / stride + 1

def Window.ho (g : Window) : Nat := windowOut g.h (g.pt + g.pb) g.dh g.kh g.sh
def Window.wo (g : Window) : Nat := windowOut g.w (g.pl + g.pr) g.dw g.kw g.sw

/-- The input row and column of a tap, where it lies in the input. -/
def Window.tap (g : Window) (ho wo kh kw : Nat) : Option (Nat × Nat) :=
  let r := tapAt ho g.sh g.pt kh g.dh
  let c := tapAt wo g.sw g.pl kw g.dw
  if 0 ≤ r ∧ r < g.h ∧ 0 ≤ c ∧ c < g.w then some (r.toNat, c.toNat) else none

/-- The taps in (kh, kw) order. -/
def Window.taps (g : Window) : List (Nat × Nat) := (List.range g.kh).flatMap fun a => (List.range g.kw).map fun b => (a, b)

/-- The taps in the K order of the prism path: sub-filters of at most 16 × 16 taps in row-major order, each in its own
(kh, kw) order (R153). -/
def Window.prismTaps (g : Window) : List (Nat × Nat) :=
  (List.range (ceilDiv g.kh 16)).flatMap fun a => (List.range (ceilDiv g.kw 16)).flatMap fun b =>
    g.taps.filter fun t => t.1 / 16 == a && t.2 / 16 == b

/-- Scale, then bias, of an accumulated FP32 value, and its conversion (steps 2 and 3 of R68). -/
def finishEl (fout : Nat) (cs bi : Option Nat) (x : Nat) : Nat :=
  let x := match cs with | some s => (drainOp true x s).code | none => x
  let x := match bi with | some b => (drainOp false x b).code | none => x
  narrow fout x

/-- The FP32 value of an accumulated total: step 1 of R68 in integer mode. -/
def totalF32 (fa fb t : Nat) : Nat :=
  if intPair fa fb then
    let z := toSigned 64 t
    (toF32 .even (Elem.fin (decide (z < 0)) z.natAbs 0)).code
  else t

/-- The prism's or the wedge engine's accumulation of operand pairs in K order with CHLEN = 0 (R113 to R118, R153, R158);
`toK` pads K with zero elements up to a multiple. -/
def accumulate (fa fb toK : Nat) (ps : List (Nat × Nat)) : Nat :=
  totalF32 fa fb (wedgeTotal fa fb 0 (ps ++ List.replicate (roundUp ps.length toK - ps.length) (0, 0))).1

/-- The lane path's accumulation from +0, FP32 or BF16 (R154). -/
def laneAccumulate (bf16 : Bool) (fa fb : Nat) (ps : List (Nat × Nat)) : Nat :=
  if bf16 then
    let bf (f x : Nat) : Nat := (convert 1 .even false (readElem f x).1).code
    ps.foldl (fun y p => (arithEl .fma 1 .even (bf fa p.1) (bf fb p.2) y).1) 0 * 2 ^ 16
  else ps.foldl (fun y p => kFma (widen fa p.1) (widen fb p.2) y) 0

/-- One element of POOL: MAX (true) or average over the taps, none where one lies outside the input (R155). -/
def poolEl (isMax countPad : Bool) (fin fout : Nat) (xs : List (Option Nat)) : Nat :=
  let seen := xs.filterMap id
  if isMax then
    let v := (seen.map (widen fin)).foldl (fun y x => (maxEl true 0 y x).1) 0xFF800000
    -- an empty window gives −∞ and no event, so the conversion keeps it where the format has an infinity (log 105)
    if seen.isEmpty && ((floatFmt fout).bind FloatFmt.inf).isSome then (convert fout .even false (readF32 v).1).code else narrow fout v
  else
    let n := if countPad then xs.length else seen.length
    if n = 0 then narrow fout 0 else
    let counted := if countPad then xs.map fun x => x.map (widen fin) |>.getD 0 else seen.map (widen fin)
    narrow fout (kMul (counted.foldl kAdd 0) (toF32 .even (eRcp (Elem.fin false n 0))).code)

end Sys2Proof.Machine
end

