-- ==== Sys2Proof/Machine/Kernel.lean ====
section
/-! DEFINITION. The kernel profiles of KERNEL_RUN: their parameters, the steps their programs are built from with the fields
they set, what they leave in memory, and the parameters they refuse (03, Table 03-20; 04, Table 04-6; 05, R111, R112; 06, R126,
R133; 07, R138 to R149; 08, R151 to R155, R165; 09, R182; 10, R204; 13, R276).

A profile's parameters stand in the parameter buffer, encoded under R263 in the order of its table; what the tables leave out
of a shape, and the layout of tensors in memory, are the model's (DESIGN CHOICE, log 105). -/

namespace Sys2Proof.Machine

/-- A kernel as its profile builds it: the steps of its program, the bytes it leaves, and the dispatch counters it leaves. -/
structure Kernel where
  steps : List KernelStep
  leaves : List (Nat × Byte) := []
  counters : List (Nat × Nat) := []
deriving DecidableEq, Repr

/-- The kernel, or the parameter that the profile refuses. -/
abbrev Built := Except Nat Kernel

/-- A kernel whose parameters pass their checks: the first that holds names its parameter. -/
def built (bad : List (Bool × Nat)) (k : Kernel) : Built :=
  match firstBad bad with
  | some i => .error i
  | none => .ok k

/-- The parameters of a profile. -/
def profileParams (buf : List Byte) (spec : List PKind) : Params := getParams [] buf 0 0 0 spec

/-! ## Elements of tensors in memory -/

/-- Element i of a packed run of codes at global address `a` (R98). -/
def Dev.code (d : Dev) (p fmt a i : Nat) : Nat :=
  let w := fmtBits fmt
  leNat (d.gread p (a + w * i / 8) (w / 8 + 1)) >>> (w * i % 8) % 2 ^ w

/-- A packed run of codes at an address. -/
def putCodes (fmt a : Nat) (cs : List Nat) : List (Nat × Byte) := placeBytes a (packBytes (fmtBits fmt) cs)

/-- UINT32 or FP32 words at an address. -/
def putWords (a : Nat) (ws : List Nat) : List (Nat × Byte) := placeBytes a (ws.flatMap fun w => leBytes 4 w)

/-- Two ranges overlap. -/
def overlap (a n b m : Nat) : Bool := decide (0 < n ∧ 0 < m ∧ a < b + m ∧ b < a + n)

/-! ## Ops with the fields that a profile sets; the others are 0 -/

def kCtx : CtxId := { h := 0, n := 0 }
def kSite : Site := { c := kCtx, slot := 0, fmask := 0xFFFF }
def kLA : LA := { off := 0, ar := 0, rm := true, pi := true }
def kGA (a : Nat) : GA := { off := BitVec.ofNat 48 a, br := 0, bv := false }

def kLane : LaneOp where
  pin := false
  pctx := 0
  vd := 0
  va := 0
  vb := 0
  vc := 0
  ge := false
  gn := false
  pg := 0
  pd := 0
  lt := 0
  bi := false
  imm := 0
  fo := 0
  rnd := 0
  sat := false
  cn := 0
  sub := 0
  m1 := 0
  pol := false

def kLs (fmt : Nat) : LsOp where
  pin := false
  pctx := 0
  vr := 0
  esz := if fmtBits fmt = 32 then 2 else if fmtBits fmt = 16 then 1 else 0
  lg := 0
  hi := false
  ge := false
  gn := false
  pg := 0
  la := kLA

def kGather (src dst len rsz tag : Nat) : GatherOp where
  tag := BitVec.ofNat 6 tag
  src := kGA src
  dst := kGA dst
  len := BitVec.ofNat 32 len
  spi := false
  dpi := false
  rsz := BitVec.ofNat 24 rsz
  ib := 0

def kXfer (src dst len tag : Nat) : XferOp where
  tag := BitVec.ofNat 6 tag
  src := kGA src
  dst := kGA dst
  len := BitVec.ofNat 32 len
  spi := false
  dpi := false
  bsect := 0
  bfmask := 0

def kBarrov (g tag dtype rop src dst len slot root : Nat) : BarrovOp where
  tag := BitVec.ofNat 6 tag
  grp := BitVec.ofNat 8 g
  dtype := BitVec.ofNat 4 dtype
  rop := BitVec.ofNat 2 rop
  src := kGA src
  dst := kGA dst
  len := BitVec.ofNat 32 len
  spi := false
  dpi := false
  slot := BitVec.ofNat 16 slot
  root := BitVec.ofNat 14 root

/-- One issue of an op. -/
def once (i : Instr) : KernelStep := .op i 0

/-- A fence on a tag. -/
def fenceStep (tag bound cn : Nat) (cv : Bool) : KernelStep :=
  once (.dfence kCtx { tag := BitVec.ofNat 6 tag, bound := BitVec.ofNat 20 bound, cn := BitVec.ofNat 4 cn, cv })

/-- The tag on which the library's own requests run, and the condition register of its options. -/
abbrev kTag : Nat := 0
abbrev kCond : Nat := 13

/-! ## GEMM, GEMM_S24 (Tables 03-20, 04-6, R112) -/

/-- The open hinge of a FALLBACK or late-prefetch branch on a condition register (Table 04-5). -/
def fallbackHinge (cn bound : Nat) : KernelStep :=
  .hinge { cn, isOpen := true, log := false, align16 := true, len := max 1 bound,
           branches := [some true, some false, some false, none] }

/-- The hinges of REPLAY: one per widening from a class of operand up to the widest format, 1 FP8, 2 BF16, 3 FP32. The
replay's static length is that of the tiles at the width replayed, plus 12.5 %. -/
def replaySteps (width widest issues : Nat) : List KernelStep :=
  let cls := if width ≤ 6 then 0 else if width = 8 then 1 else if width = 16 then 2 else 3
  ((List.range (widest + 1)).filter fun k => decide (cls < k)).flatMap fun k =>
    let n := issues * (if k = 1 then 2 else if k = 2 then 4 else 32)
    [once (.cflag kSite { kLane with sub := 1, cn := BitVec.ofNat 4 kCond, imm := 2 }),
     .hinge { cn := kCond, isOpen := true, log := true, align16 := true, len := n + n / 8,
              branches := [some true, some false, none, none] }]

/-- The prism descriptor of a profile: CHLEN = 0, PITCH, OFMT, and DFLAGS with RND = 00 and SAT = 1. -/
def gemmDesc (pitch ofmt vecs : Nat) : Nat := pitch * 2 ^ 128 + ofmt * 2 ^ 160 + (vecs + 8) * 2 ^ 168

/-- GEMM, and with `sp` GEMM_S24: fa, fb, M, N, K, OFMT, addresses of A, B, the result, the block scales of A and B, RS, CS and
BI, scale flags (bit 0 block scales, 1 RSE, 2 CSE, 3 BIE), REPLAY, FALLBACK (alternate address or 0, bound), and META. -/
def gemm (sp : Bool) (buf : List Byte) : Built :=
  let ps := profileParams buf ([.num 1, .num 1, .num 4, .num 4, .num 4, .num 1, .num 8, .num 8, .num 8, .num 8, .num 8, .num 8,
    .num 8, .num 8, .num 1, .num 1, .num 8, .num 4] ++ if sp then [.num 8] else [])
  let fa := ps.at 0
  let fb := ps.at 1
  let k := ps.at 4
  let tiles := ceilDiv (ps.at 2) 128 * ceilDiv (ps.at 3) 128
  let issues := ceilDiv (16 * k) (max 1 (kps16 fa fb sp))
  let bs := bit (ps.at 14) 0
  let vecs := ps.at 14 / 2 % 8
  let mma (t : Nat) : KernelStep := .op (.mma kSite
    { fa := BitVec.ofNat 4 fa, fb := BitVec.ofNat 4 fb, acc := t % 2 == 1, clr := true, sp, bs, pdi := 0, drn := t != 0, ddi := 0,
      laA := kLA, laB := kLA }) (issues - 1)
  let pvld := ((List.range 3).filter fun v => bit vecs v).flatMap fun v => [false, true].map fun half =>
    once (.pvld kSite { v := BitVec.ofNat 2 v, half, la := kLA })
  let fall := if ps.at 16 = 0 then [] else [fenceStep kTag (ps.at 17) kCond true, fallbackHinge kCond (ps.at 17)]
  built [(!ps.ok, 0), (decide (10 < fa), 0),
      (decide (10 < fb) || (sp && !(fb == 1 || fb == 3 || fb == 4 || fb == 7)), 1), (ps.at 2 == 0, 2), (ps.at 3 == 0, 3),
      (k == 0 || (sp && k % 4 != 0), 4), (decide (10 < ps.at 5), 5), (decide (15 < ps.at 14), 14), (decide (3 < ps.at 15), 15),
      (decide (2 ^ 20 ≤ ps.at 17), 17)]
    { steps := .prismDesc (gemmDesc 0 (ps.at 5) vecs) :: once (.pcfg kSite { d := 0, la := kLA }) :: fall ++ pvld ++
        (List.range tiles).map mma ++ [once (.drain kSite { acc := tiles % 2 == 0, ddi := 0 })] ++
        replaySteps (max (fmtBits fa) (fmtBits fb)) (ps.at 15) (tiles * issues) }

/-! ## COLLECTIVE (Table 03-20) -/

/-- COLLECTIVE: kind (1 RSCAT to 5 A2A), group, dtype, rop, slot, root, len, source, destination. -/
def collective (buf : List Byte) : Built :=
  let ps := profileParams buf [.num 1, .num 1, .num 1, .num 1, .num 2, .num 2, .num 4, .num 8, .num 8]
  let o := kBarrov (ps.at 1) kTag (ps.at 2) (ps.at 3) (ps.at 7) (ps.at 8) (ps.at 6) (ps.at 4) (ps.at 5)
  let op : Instr := match ps.at 0 with
    | 1 => .rscat kCtx o
    | 2 => .ared kCtx o
    | 3 => .agath kCtx o
    | 4 => .bcast kCtx o
    | _ => .a2a kCtx o
  built [(!ps.ok, 0), (decide (ps.at 0 = 0 ∨ 5 < ps.at 0), 0), (decide (1 < ps.at 2), 2), (decide (2 < ps.at 3), 3),
      (decide (2 ^ 14 ≤ ps.at 5), 5)]
    { steps := [once op, fenceStep kTag 1048575 0 false] }

/-! ## CAST, QUANT_MX, OPT_UPDATE (R111, R112, R133) -/

/-- A draw of 16 bits for element i: which lane's generator converts it is the library's (log 105). -/
def Dev.kernelDraw (d : Dev) (i : Nat) : Nat := (Config.free (d.fresh + i)).toNat % 2 ^ 16

/-- CAST: source format, target format, element count, source, destination, rounding (0 nearest-even, 1 stochastic), saturate. -/
def cast (d : Dev) (p : Nat) (buf : List Byte) : Built :=
  let ps := profileParams buf [.num 1, .num 1, .num 4, .num 8, .num 8, .num 1, .num 1]
  let src := ps.at 0
  let dst := ps.at 1
  let sat := ps.at 6 != 0
  let rnd (i : Nat) : Rnd := if ps.at 5 = 1 then .sto (d.kernelDraw i) else .even
  let cvt (sub : Nat) (fo rnd : Nat) (lt : Nat) : KernelStep :=
    once (.cvt kSite { kLane with sub := BitVec.ofNat 3 sub, lt := BitVec.ofNat 2 lt, fo := BitVec.ofNat 4 fo, rnd := BitVec.ofNat 2 rnd, sat })
  built [(!ps.ok, 0), (decide (10 < src), 0),
      (decide (10 < dst) || (ps.at 5 == 1 && !(dst == 1 || dst == 2 || dst == 3 || dst == 4)), 1), (decide (1 < ps.at 5), 5),
      (decide (1 < ps.at 6), 6)]
    { steps := once (.ldv kSite (kLs src)) ::
        (if src ≤ 1 then [cvt 0 dst (ps.at 5) src] else if dst ≤ 1 then [cvt 1 src (ps.at 5) dst]
          else [cvt 1 src 0 0, cvt 0 dst (ps.at 5) 0]) ++ [once (.stv kSite (kLs dst))]
      leaves := putCodes dst (ps.at 4) ((List.range (ps.at 2)).map fun i => castEl src dst (rnd i) sat (d.code p src (ps.at 3) i)) }

/-- QUANT_MX: source format, target, K, addresses of the elements, the scales and the output. The tensor is an operand tile:
element (k, i) is number k × 128 + i, and block j's scale of i is byte j × 128 + i, as R103 reads them. -/
def quantMxTile (d : Dev) (p : Nat) (buf : List Byte) : Built :=
  let ps := profileParams buf [.num 1, .num 1, .num 4, .num 8, .num 8, .num 8]
  let src := ps.at 0
  let fmt := ps.at 1
  let blocks := ps.at 2 / 32
  let x (k i : Nat) : Nat := let c := d.code p src (ps.at 3) (128 * k + i); if src = 1 then (widenBf16 c).1 else c
  let q (j i : Nat) : Nat × List Nat := quantMx fmt ((List.range 32).map fun k => x (32 * j + k) i)
  let tile := (List.range blocks).map fun j => (List.range 128).map fun i => q j i
  let lane (f : LaneOp) : LaneOp := f
  built [(!ps.ok, 0), (decide (1 < src), 0), (decide (fmt < 3 ∨ 7 < fmt), 1), (ps.at 2 == 0 || ps.at 2 % 32 != 0, 2)]
    { steps := [once (.ldv kSite (kLs src)), once (.laneAnd kSite { kLane with bi := true, imm := 0x7FFFFFFF })] ++
        ([1, 2, 4, 8, 16].flatMap fun n =>
          [once (.shuf kSite { kLane with sub := 1, imm := BitVec.ofNat 32 n }), once (.laneMax kSite (lane kLane))]) ++
        [once (.cvt kSite { kLane with fo := 0xB }),
         once (.sub kSite { kLane with lt := 2, bi := true, imm := BitVec.ofInt 32 (mxEmax fmt) }),
         once (.laneMax kSite { kLane with lt := 2, bi := true }), once (.cvt kSite { kLane with sub := 1, fo := 0xB }),
         once (.mul kSite kLane), once (.cvt kSite { kLane with fo := BitVec.ofNat 4 fmt, sat := true }),
         once (.stv kSite (kLs fmt)), once (.stv kSite (kLs 8))]
      leaves := putCodes fmt (ps.at 5) (tile.flatMap fun b => (List.range 32).flatMap fun k => b.map fun e => nth e.2 k) ++
        placeBytes (ps.at 4) (tile.flatMap fun b => b.map fun e => BitVec.ofNat 8 e.1) }

/-- OPT_UPDATE: addresses of the weights, the BF16 operand copy, the gradients and the two states, WEIGHTS (0 FP32, 1 BF16_SR),
count, optimiser constants. The update itself is not given (log 7). -/
def optUpdate (d : Dev) (p : Nat) (buf : List Byte) : Built :=
  let ps := profileParams buf [.num 8, .num 8, .num 8, .num 8, .num 8, .num 1, .num 4, .list [4]]
  let sr := ps.at 5 == 1
  let cs := (ps.lst 0).map fun e => e.getD 0 0
  let upd (i : Nat) : Nat × Nat × Nat :=
    let w := if sr then (widenBf16 (d.code p 1 (ps.at 0) i)).1 else d.code p 0 (ps.at 0) i
    Config.optStep cs w (d.code p 0 (ps.at 2) i) (d.code p 0 (ps.at 3) i) (d.code p 0 (ps.at 4) i)
  let us := (List.range (ps.at 6)).map upd
  let bf (i w : Nat) : Nat := (cvtEl 0 0 1 (if sr then .sto (d.kernelDraw i) else .even) sr w).1
  let w16 := ((List.range us.length).zip us).map fun e => bf e.1 e.2.1
  built [(!ps.ok, 0), (decide (1 < ps.at 5), 5)]
    { steps := [once (.ldv kSite (kLs (b2n sr))), once (.fma kSite kLane), once (.mul kSite kLane),
        once (.sfu kSite { kLane with sub := 3 }),
        once (.cvt kSite { kLane with fo := 1, rnd := BitVec.ofNat 2 (b2n sr), sat := sr }), once (.stv kSite (kLs (b2n sr)))]
      leaves := (if sr then putCodes 1 (ps.at 0) w16 else putCodes 0 (ps.at 0) (us.map fun u => u.1) ++ putCodes 1 (ps.at 1) w16) ++
        putCodes 0 (ps.at 3) (us.map fun u => u.2.1) ++ putCodes 0 (ps.at 4) (us.map fun u => u.2.2) }

/-! ## PRUNE_24, MASK_EPOCH (R138, R139, R141) -/

/-- PRUNE_24: dense weight address, format, K, N, value and metadata addresses. Element (k, n) of a weight is number k × N + n. -/
def pruneWeights (d : Dev) (p : Nat) (buf : List Byte) : Built :=
  let ps := profileParams buf [.num 8, .num 1, .num 4, .num 4, .num 8, .num 8]
  let fmt := ps.at 1
  let r := prune24 fmt (ps.at 2) (ps.at 3) fun k n => d.code p fmt (ps.at 0) (k * ps.at 3 + n)
  built [(!ps.ok, 0), (!(fmt == 1 || fmt == 3 || fmt == 4 || fmt == 7), 1), (ps.at 2 == 0 || ps.at 2 % 4 != 0, 2), (ps.at 3 == 0, 3)]
    { steps := [once (.ldv kSite (kLs fmt)), once (.cmp kSite { kLane with sub := 4 }), once (.sel kSite kLane),
        once (.laneMax kSite kLane), once (.stv kSite (kLs fmt)), once (.stv kSite (kLs 8))]
      leaves := putCodes fmt (ps.at 4) r.1 ++ placeBytes (ps.at 5) (packBytes 4 r.2) }

/-- The MMA runs of a column tile: a first MMA with clr = 1, and la_a offset past the K-blocks that are not issued. -/
def maskRuns (fa fb : Nat) (blocks : List Nat) : List KernelStep :=
  (((blockRuns blocks).foldl (fun (x : List KernelStep × Nat) r =>
    let off := (r.1 - x.2) * 32 * 128 * fmtBits fa / 8
    (x.1 ++ [.op (.mma kSite
      { fa := BitVec.ofNat 4 fa, fb := BitVec.ofNat 4 fb, acc := false, clr := x.2 == 0, sp := false, bs := false, pdi := 0,
        drn := false, ddi := 0, laA := { kLA with off := BitVec.ofNat 21 off, ar := 1 }, laB := kLA })
      (ceilDiv (32 * r.2 * 16) (max 1 (kps16 fa fb false)) - 1)], x.2 + r.2)) ([], 0))).1

/-- MASK_EPOCH: mask, weights and epoch word; then K, N, formats of A and B, the buffer for the packed B, the block scales of the
weights and of the packed B (0 for none), the address of the schedule's bundles, and first index and count of the inactive
region. -/
def maskEpoch (d : Dev) (p : Nat) (buf : List Byte) : Built :=
  let ps := profileParams buf [.num 8, .num 8, .num 8, .num 4, .num 4, .num 1, .num 1, .num 8, .num 8, .num 8, .num 8, .num 2, .num 2]
  let k := ps.at 3
  let n := ps.at 4
  let fb := ps.at 6
  let mask (i : Nat) : Byte := d.gbyte p (ps.at 0 + i)
  let ts := List.range (ceilDiv n 128)
  let b := ts.flatMap fun t => packedB mask k n t fun kk c => if c < n then d.code p fb (ps.at 1) (kk * n + c) else 0
  let scales := ts.flatMap fun t => (issuedBlocks mask k n t).flatMap fun kb => (List.range 128).map fun c =>
    if 128 * t + c < n then d.gbyte p (ps.at 8 + kb * n + 128 * t + c) else 0
  let epoch := leNat (d.gread p (ps.at 2) 4)
  built [(!ps.ok, 0), (k == 0 || k % 32 != 0, 3), (n == 0 || n % 32 != 0, 4), (decide (10 < ps.at 5), 5), (decide (10 < fb), 6),
      (overlap (ps.at 1) (k * n * fmtBits fb / 8) (ps.at 7) (b.length * fmtBits fb / 8), 7), (decide (8192 ≤ ps.at 11), 11),
      (decide (8192 ≤ ps.at 12), 12)]
    { steps := (ts.flatMap fun t => maskRuns (ps.at 5) fb (issuedBlocks mask k n t)) ++
        [once (.stream kCtx { src := kGA (ps.at 10), tidx := BitVec.ofNat 13 (ps.at 11), count := BitVec.ofNat 13 (ps.at 12) }),
         fenceStep kTag 1048575 0 false,
         once (.cidx kSite { kLane with cn := BitVec.ofNat 4 kCond }),
         .hinge { cn := kCond, isOpen := true, log := false, align16 := true, len := 0xFFFFFFFF,
                  branches := [some false, some false, none, none] }]
      leaves := putCodes fb (ps.at 7) b ++ (if ps.at 8 = 0 ∨ ps.at 9 = 0 then [] else placeBytes (ps.at 9) scales) ++
        putWords (ps.at 2) [1 - epoch % 2] }

/-! ## ROUTE, DISPATCH, EXCHANGE, COMBINE (R143 to R149, R204) -/

/-- The facets of a partition in chain order (R126): by index within a sector, by sector, H0 before H1. -/
def Dev.chain (d : Dev) (p : Nat) : List Nat := (d.heldSectors p).flatMap fun g => (List.range 16).map fun j => 16 * g + j

/-- The facet and context of a token (R143). -/
def tokenFacet (chain : List Nat) (bf t : Nat) : Nat := nth chain (t / bf)
def tokenContext (bf t : Nat) : Nat := t % bf / 512

/-- What ROUTE finds for one token: its codes and the weights of its assignments. -/
structure Routed where
  codes : List Nat
  weights : List Nat
deriving DecidableEq, Repr

/-- Routes a token on its facet: its list, its slots, and the gate weight of the rank that each assignment came from. -/
def Dev.routeToken (d : Dev) (f e c k m : Nat) (pol gate renormOn : Bool) (logits : List Nat) : Dev × Routed :=
  let l := routeList m logits
  let ranks := l.map Prod.snd
  let y := dispRanks f e c k (if pol then ranks else ranks.take k) d
  let g := gates (l.map Prod.fst)
  let ws := y.1.map fun code => if gate then nth g (ranks.idxOf (code / c)) else 0x3F800000
  let ws := if renormOn then renorm ws else ws
  (y.2, { codes := (List.range k).map fun j => y.1.getD j 0xFFFFFFFF, weights := (List.range k).map fun j => nth ws j })

/-- ROUTE: E, k, m, C_loc, policy, F, GATE, RENORM, SKIP_EMPTY, address of the logits; then T, B_f and the route list (Table 07-5,
with local codes until DISPATCH). Tokens are taken in the order in which DISP visits them: by facet, context and lane. -/
def route (d : Dev) (p : Nat) (buf : List Byte) : Built :=
  let ps := profileParams buf [.num 2, .num 1, .num 1, .num 2, .num 1, .num 2, .num 1, .num 1, .num 1, .num 8, .num 4, .num 2, .num 8]
  let e := ps.at 0
  let k := ps.at 1
  let m := ps.at 2
  let c := ps.at 3
  let t := ps.at 10
  let bf := ps.at 11
  let chain := (d.chain p).take (ps.at 5)
  let d0 : Dev := { d with dcnt := chain.foldl (fun a f => (List.range 1024).foldl (fun a i => a.set (f * 1024 + i) 0) a) d.dcnt }
  let r := (List.range t).foldl (fun (x : Dev × List Routed) i =>
    let y := x.1.routeToken (tokenFacet chain bf i) e c k m (ps.at 4 == 1) (ps.at 6 == 1) (ps.at 7 == 1)
      ((List.range e).map fun j => d.code p 0 (ps.at 9) (i * e + j))
    (y.1, x.2 ++ [y.2])) (d0, [])
  let lane (i : Instr) : KernelStep := once i
  let imm := BitVec.ofNat 32 (c * 2048 + e)
  let ctxs := ceilDiv bf 512
  built [(!ps.ok, 0), (decide (e = 0 ∨ 1024 < e), 0), (decide (k = 0 ∨ m < k), 1), (decide (m = 0 ∨ 8 < m), 2), (c == 0, 3),
      (decide (1 < ps.at 4), 4), (decide (ps.at 5 = 0 ∨ (d.chain p).length < ps.at 5), 5), (decide (1 < ps.at 6), 6),
      (decide (1 < ps.at 7), 7), (decide (1 < ps.at 8), 8), (decide (ps.at 5 * bf < t), 10),
      (decide (bf = 0 ∨ bf % 512 ≠ 0 ∨ 8192 < bf), 11)]
    { steps := [lane (.ldv kSite (kLs 0)), .op (.topk kSite { kLane with m1 := BitVec.ofNat 3 (m - 1) }) (16 * e - 1),
        lane (.dclr kSite kLane),
        .op (.disp kSite { kLane with imm, sub := BitVec.ofNat 3 (k - 1), m1 := BitVec.ofNat 3 (m - 1), pol := ps.at 4 == 1 }) (ctxs - 1),
        lane (.stdc kSite { half := false, la := kLA })] ++
        (if ps.at 6 = 1 then [lane (.sub kSite kLane), lane (.mul kSite { kLane with bi := true, imm := 0x3FB8AA3B }),
          lane (.sfu kSite { kLane with sub := 0 }), lane (.add kSite kLane), lane (.sfu kSite { kLane with sub := 2 }),
          lane (.mul kSite kLane), lane (.cmp kSite kLane), lane (.sel kSite kLane)] else []) ++
        (if ps.at 8 = 1 then (List.range e).flatMap fun _ => [lane (.cidx kSite { kLane with cn := BitVec.ofNat 4 kCond }),
          .hinge { cn := kCond, isOpen := false, log := false, align16 := false, len := 1,
                   branches := [some true, some false, some false, some false] }] else [])
      leaves := (List.range k).flatMap fun j =>
        putWords (ps.at 12 + 8 * t * j) (r.2.map fun x => nth x.codes j) ++
          putWords (ps.at 12 + 8 * t * j + 4 * t) (r.2.map fun x => nth x.weights j)
      counters := chain.flatMap fun f => (List.range 1024).map fun i => (f * 1024 + i, r.1.dcnt.get (f * 1024 + i)) }

/-- The sum of an expert's counters over the facets before one in chain order. -/
def Dev.dispatchOff (d : Dev) (chain : List Nat) (k e : Nat) : Nat :=
  (chain.take k).foldl (fun n f => n + d.dcnt.get (f * 1024 + e)) 0

/-- The global slot of a local code (R146). -/
def Dev.globalSlot (d : Dev) (chain : List Nat) (cLoc bf t q : Nat) : Nat :=
  if q = 0xFFFFFFFF then q else
  let e := q / cLoc
  e * (chain.length * cLoc) + d.dispatchOff chain (t / bf) e + (q - e * cLoc)

/-- DISPATCH: route list, slot array, counts, rsz; then E, k, C_loc, F, B_f, T, the token rows, the return array and the group. -/
def dispatch (d : Dev) (p : Nat) (buf : List Byte) : Built :=
  let ps := profileParams buf [.num 8, .num 8, .num 8, .num 4, .num 2, .num 1, .num 2, .num 2, .num 2, .num 4, .num 8, .num 8, .num 1]
  let list := ps.at 0
  let slot := ps.at 1
  let rsz := ps.at 3
  let e := ps.at 4
  let k := ps.at 5
  let cLoc := ps.at 6
  let t := ps.at 9
  let chain := (d.chain p).take (ps.at 7)
  let ce := chain.length * cLoc
  let members := d.grpMem (p * 256 + ps.at 12)
  let g (j i : Nat) : Nat := d.globalSlot chain cLoc (ps.at 8) i (leNat (d.gread p (list + 8 * t * j + 4 * i) 4))
  let filled (x : Nat) : Nat := d.dispatchOff chain chain.length x
  let bytes := (e * ce + 1) * rsz
  let bufs : List (Nat × Nat × Nat) := [(0, list, 8 * t * k), (2, ps.at 2, 4 * e), (1, slot, bytes), (11, ps.at 11, bytes)]
  let clash := (List.range 4).findSome? fun i => (List.range i).findSome? fun j =>
    let x := bufs.getD i (0, 0, 0)
    let y := bufs.getD j (0, 0, 0)
    if overlap x.2.1 x.2.2 y.2.1 y.2.2 then some x.1 else none
  let zero (row : Nat) : List (Nat × Byte) := placeBytes (slot + row * rsz) (List.replicate rsz 0)
  built ([(!ps.ok, 0), (rsz == 0 || rsz % 64 != 0, 3), (decide (e = 0 ∨ 1024 < e), 4), (decide (k = 0 ∨ 8 < k), 5), (cLoc == 0, 6),
      (decide (ps.at 7 = 0 ∨ (d.chain p).length < ps.at 7), 7), (decide (ps.at 8 = 0), 8), (decide (2 ^ 32 - 1 < e * ce + 1), 4),
      (decide (65535 * 64 < ce * rsz), 3)] ++ (match clash with | some i => [(true, i)] | none => []) ++
      [(decide (members = 0 ∨ e % members ≠ 0), 12)])
    { steps := [once (.stdc kSite { half := false, la := kLA }), once (.add kSite { kLane with lt := 3 })] ++
        ((List.range k).map fun _ => once (.scatter kCtx (kGather (ps.at 10) slot (t * rsz) rsz kTag) [])) ++
        [once (.gather kCtx (kGather (slot + e * ce * rsz) slot (e * ce * rsz) rsz kTag) []), fenceStep kTag 1048575 0 false]
      leaves := ((List.range k).flatMap fun j => (List.range t).flatMap fun i =>
          let x := g j i
          if x = 0xFFFFFFFF then [] else placeBytes (slot + x * rsz) (d.gread p (ps.at 10 + i * rsz) rsz)) ++
        (zero (e * ce)) ++ ((List.range e).flatMap fun x => ((List.range ce).filter fun s => decide (filled x ≤ s)).flatMap fun s =>
          zero (x * ce + s)) ++
        ((List.range k).flatMap fun j => putWords (list + 8 * t * j) ((List.range t).map fun i => g j i)) ++
        putWords (ps.at 2) ((List.range e).map filled) }

/-- EXCHANGE: group, direction (0 out, 1 return); then source and destination arrays, counts, where the counts of this member's
experts are staged and received, E, C_e, rsz. The counts go first, then the slots of each local expert (R148, R204); the
return pass runs the same ops in reverse. -/
def exchange (d : Dev) (p : Nat) (buf : List Byte) : Built :=
  let ps := profileParams buf [.num 1, .num 1, .num 8, .num 8, .num 8, .num 8, .num 8, .num 2, .num 4, .num 4]
  let n := d.grpMem (p * 256 + ps.at 0)
  let e := ps.at 7
  let ce := ps.at 8
  let rsz := ps.at 9
  let local_ := e / max 1 n
  let units := ceilDiv local_ 16
  let part := n * ce * rsz
  let pass := (List.range local_).map fun i => once (.a2a kCtx (kBarrov (ps.at 0) kTag 0 0 (ps.at 2 + i * part) (ps.at 3 + i * part)
    part (ce * rsz / 64) 0))
  let counts := once (.a2a kCtx (kBarrov (ps.at 0) kTag 0 0 (ps.at 5) (ps.at 6) (n * units * 64) units 0))
  built [(!ps.ok, 0), (n == 0, 0), (decide (1 < ps.at 1), 1), (decide (e = 0) || e % max 1 n != 0, 7),
      (ce == 0 || decide (65535 * 64 < ce * rsz), 8), (rsz == 0 || rsz % 64 != 0, 9)]
    { steps := (if ps.at 1 = 0 then counts :: pass else pass.reverse) ++ [fenceStep kTag 1048575 0 false]
      leaves := if ps.at 1 = 1 then [] else (List.range n).flatMap fun m =>
        placeBytes (ps.at 5 + m * units * 64)
          ((((List.range local_).flatMap fun i => d.gread p (ps.at 4 + 4 * (i * n + m)) 4) ++ List.replicate (units * 64) 0).take (units * 64)) }

/-- COMBINE: return array, route list, residual (RESID on or off, address), output format; then format of the rows and of the
residual, E, C_e, rsz, k, T, elements of a row, and the output. -/
def combine (d : Dev) (p : Nat) (buf : List Byte) : Built :=
  let ps := profileParams buf [.num 8, .num 8, .num 1, .num 8, .num 1, .num 1, .num 1, .num 2, .num 4, .num 4, .num 1, .num 4, .num 4, .num 8]
  let fin := ps.at 5
  let fout := ps.at 4
  let t := ps.at 11
  let cols := ps.at 12
  let zeroRow := ps.at 7 * ps.at 8
  let at_ (j i : Nat) : Nat × Nat :=
    let g := leNat (d.gread p (ps.at 1 + 8 * t * j + 4 * i) 4)
    if g = 0xFFFFFFFF then (0, zeroRow) else (leNat (d.gread p (ps.at 1 + 8 * t * j + 4 * t + 4 * i) 4), g)
  let el (i n : Nat) : Nat :=
    let start := if ps.at 2 = 1 then widen (ps.at 6) (d.code p (ps.at 6) (ps.at 3) (i * cols + n)) else 0
    narrow fout (combineEl start ((List.range (ps.at 10)).map fun j =>
      let x := at_ j i
      (x.1, widen fin (d.code p fin (ps.at 0 + x.2 * ps.at 9) n))))
  built [(!ps.ok, 0), (decide (1 < ps.at 2), 2), (decide (10 < fout), 4), (decide (10 < fin), 5), (decide (10 < ps.at 6), 6),
      (ps.at 9 == 0 || ps.at 9 % 64 != 0, 9), (decide (8 < ps.at 10), 10),
      (decide (8 * ps.at 9 < cols * fmtBits fin), 12)]
    { steps := ((List.range (ps.at 10)).map fun _ => once (.gather kCtx (kGather (ps.at 0) (ps.at 13) (t * ps.at 9) (ps.at 9) kTag) [])) ++
        [fenceStep kTag 1048575 0 false, once (.fma kSite kLane),
         once (.cvt kSite { kLane with fo := BitVec.ofNat 4 fout, sat := true }), once (.stv kSite (kLs fout))]
      leaves := putCodes fout (ps.at 13) ((List.range t).flatMap fun i => (List.range cols).map fun n => el i n) }

/-! ## CONV, DWCONV, POOL (R151 to R155, R165) -/

/-- The shape of a convolution: images, channels in and out, groups, window, formats and addresses. Tensors lie by planes:
element (image, c, h, w); a filter of an output channel is in (kh, kw, c) order. -/
structure ConvShape where
  imgs : Nat
  cin : Nat
  cout : Nat
  groups : Nat
  g : Window
  fin : Nat
  fwt : Nat
  fout : Nat
  padv : Nat
  src : Nat
  wt : Nat
  dst : Nat
  cs : Nat
  bi : Nat
deriving DecidableEq, Repr

/-- The parameters that a convolution shares with POOL: images, H, W, C_in, C_out, Kh, Kw, formats in, of weights and out,
strides, dilations, pads, pad value, groups, channel scales and biases (0 for none), PATH or ACCUM, addresses. -/
def convSpec : List PKind :=
  [.num 4, .num 2, .num 2, .num 2, .num 2, .num 1, .num 1, .num 1, .num 1, .num 1, .num 1, .num 1, .num 1, .num 1,
   .num 2, .num 2, .num 2, .num 2, .num 4, .num 2, .num 8, .num 8, .num 1, .num 8, .num 8, .num 8, .num 1]

def convOf (ps : Params) : ConvShape where
  imgs := ps.at 0
  cin := ps.at 3
  cout := ps.at 4
  groups := ps.at 19
  g := { h := ps.at 1, w := ps.at 2, kh := ps.at 5, kw := ps.at 6, sh := ps.at 10, sw := ps.at 11, dh := ps.at 12, dw := ps.at 13,
         pt := ps.at 14, pb := ps.at 15, pl := ps.at 16, pr := ps.at 17 }
  fin := ps.at 7
  fwt := ps.at 8
  fout := ps.at 9
  padv := ps.at 18
  src := ps.at 23
  wt := ps.at 24
  dst := ps.at 25
  cs := ps.at 20
  bi := ps.at 21

/-- The limits of Table 08-1 and of R151 for the prism and lane paths, naming their parameters. -/
def windowBad (g : Window) : List (Bool × Nat) :=
  [(g.h == 0, 1), (g.w == 0, 2), (decide (g.kh = 0 ∨ 64 < g.kh), 5), (decide (g.kw = 0 ∨ 64 < g.kw), 6),
   (decide (g.sh = 0 ∨ 16 < g.sh), 10), (decide (g.sw = 0 ∨ 16 < g.sw), 11), (decide (g.dh = 0 ∨ 16 < g.dh), 12),
   (decide (g.dw = 0 ∨ 16 < g.dw), 13), (decide (g.dh * (g.kh - 1) < g.pt), 14), (decide (g.dh * (g.kh - 1) < g.pb), 15),
   (decide (g.dw * (g.kw - 1) < g.pl), 16), (decide (g.dw * (g.kw - 1) < g.pr), 17), (g.ho == 0, 1), (g.wo == 0, 2)]

/-- The limits of the wedge engine (Tables 08-1 and 08-3). -/
def wedgeLimits (s : ConvShape) : List (Bool × Nat) :=
  let modeF := decide (s.cin ≤ 8)
  let wide := fmtBits s.fin == 16
  let ok (f : Nat) : Bool := f == 1 || f == 2 || f == 3 || f == 4 || f == 8 || f == 9
  let swMax := if modeF then (if wide then 2 else 4) else 1
  [(decide (4096 < s.g.h), 1), (decide (4096 < s.g.w), 2), (decide (256 < s.cin), 3),
   (decide (256 < s.cout ∨ (8 < s.cin ∧ 8 < s.cout)), 4), (decide (11 < s.g.kh), 5), (decide (11 < s.g.kw), 6), (!ok s.fin, 7),
   (!ok s.fwt || fmtBits s.fwt != fmtBits s.fin, 8), (decide (4 < s.g.sh), 10), (decide (swMax < s.g.sw), 11),
   (decide (4 < s.g.dh), 12), (decide ((if modeF then 4 else 1) < s.g.dw), 13), (s.groups != 1, 19)]

/-- The code that tap (kh, kw) of output (ho, wo) reads of channel c: the pad value outside the input (R152). -/
def Dev.convIn (d : Dev) (p : Nat) (s : ConvShape) (img c ho wo : Nat) (t : Nat × Nat) : Nat :=
  match s.g.tap ho wo t.1 t.2 with
  | some (r, k) => d.code p s.fin s.src (((img * s.cin + c) * s.g.h + r) * s.g.w + k)
  | none => s.padv % 2 ^ fmtBits s.fin

/-- The operand pairs of an output element in the tap order given, channels of its group innermost (R153, R154). -/
def Dev.convPairs (d : Dev) (p : Nat) (s : ConvShape) (taps : List (Nat × Nat)) (img q ho wo : Nat) : List (Nat × Nat) :=
  let cg := s.cin / s.groups
  let first := q / (s.cout / s.groups) * cg
  taps.flatMap fun t => (List.range cg).map fun c =>
    (d.convIn p s img (first + c) ho wo t, d.code p s.fwt s.wt (((q * s.g.kh + t.1) * s.g.kw + t.2) * cg + c))

/-- Which path computes a convolution. -/
inductive ConvPath where
  | wedge
  | lane (bf16 : Bool)
  | prism
deriving DecidableEq, Repr

/-- The path that CONV chooses (R165): PATH 1 wedge, 2 lane, 3 prism, 0 the first that fits. -/
def convPath (s : ConvShape) (path : Nat) : ConvPath :=
  if path = 1 ∨ (path = 0 ∧ min s.cin s.cout ≤ 8 ∧ (firstBad (wedgeLimits s)).isNone) then .wedge
  else if path = 2 ∨ (path = 0 ∧ (s.cin / s.groups < 32 ∨ s.cout / s.groups < 32)) then .lane false
  else .prism

/-- One output element (R153, R154, R158). -/
def Dev.convEl (d : Dev) (p : Nat) (s : ConvShape) (path : ConvPath) (img q ho wo : Nat) : Nat :=
  let vec (a : Nat) : Option Nat := if a = 0 then none else some (d.code p 0 a q)
  let acc := match path with
    | .prism => accumulate s.fin s.fwt 32 (d.convPairs p s s.g.prismTaps img q ho wo)
    | .wedge => accumulate s.fin s.fwt 1 (d.convPairs p s s.g.taps img q ho wo)
    | .lane bf16 => laneAccumulate bf16 s.fin s.fwt (d.convPairs p s s.g.taps img q ho wo)
  finishEl s.fout (vec s.cs) (vec s.bi) acc

/-- The steps of a convolution by its path (Table 08-7). -/
def convSteps (s : ConvShape) (path : ConvPath) : List KernelStep :=
  let vecs := b2n (s.cs != 0) * 2 + b2n (s.bi != 0) * 4
  let k := roundUp (s.g.kh * s.g.kw * (s.cin / s.groups)) 32
  let tiles := ceilDiv (s.imgs * s.g.ho * s.g.wo) 128 * (s.groups * ceilDiv (s.cout / s.groups) 128)
  match path with
  | .prism =>
    [.prismDesc (gemmDesc 0 s.fout vecs), once (.pcfg kSite { d := 0, la := kLA }),
     once (.gather kCtx (kGather s.src 0 0 64 kTag) []), once (.move kSite { src := 0, ad := 0, spi := true, dpi := true, x := false, dlt := 0 })] ++
    (List.range tiles).map (fun t => .op (.mma kSite
      { fa := BitVec.ofNat 4 s.fin, fb := BitVec.ofNat 4 s.fwt, acc := t % 2 == 1, clr := true, sp := false, bs := false, pdi := 0,
        drn := t != 0, ddi := 0, laA := kLA, laB := kLA }) (ceilDiv (16 * k) (max 1 (kps16 s.fin s.fwt false)) - 1)) ++
    [once (.drain kSite { acc := tiles % 2 == 0, ddi := 0 })]
  | .wedge =>
    let desc := s.g.h * 2 ^ 224 + s.g.w * 2 ^ 240 + s.g.wo * 2 ^ 256 + s.cin * 2 ^ 272 + s.cout * 2 ^ 288 + s.g.kh * 2 ^ 304 +
      s.g.kw * 2 ^ 312 + (s.g.sh + 16 * s.g.sw) * 2 ^ 320 + (s.g.dh + 16 * s.g.dw) * 2 ^ 328 + s.g.pt * 2 ^ 336 + s.g.pb * 2 ^ 344 +
      s.g.pl * 2 ^ 352 + s.g.pr * 2 ^ 360 + s.padv % 2 ^ 16 * 2 ^ 368 + (s.fin + 16 * s.fwt) * 2 ^ 384 + s.fout * 2 ^ 392 +
      (vecs / 2 + 4) * 2 ^ 416
    [.wedgeDesc desc, once (.wcfg kSite { d := 0, src := 0 }), once (.aadd kSite { ad := 0, src := 0, imm := 0 }),
     .op (.wedge kSite { d := 0, ph := false, ar := 0 }) (s.g.kh * s.g.kw * s.cin - 1), once (.wedge kSite { d := 0, ph := true, ar := 0 })]
  | .lane bf16 =>
    [once (.ldv kSite (kLs s.fin)), once (.ldb kSite (kLs s.fwt)),
     .op (.fma kSite { kLane with lt := BitVec.ofNat 2 (b2n bf16) }) (s.g.kh * s.g.kw * (s.cin / s.groups) - 1),
     once (.mul kSite kLane), once (.add kSite kLane),
     once (.cvt kSite { kLane with fo := BitVec.ofNat 4 s.fout, sat := true }), once (.stv kSite (kLs s.fout))]

/-- CONV, and with `dw` DWCONV, which takes the lane path with ACCUM (0 FP32, 1 BF16X2) in the place of PATH. -/
def conv (dw : Bool) (d : Dev) (p : Nat) (buf : List Byte) : Built :=
  let ps := profileParams buf convSpec
  let s := convOf ps
  let path := if dw then .lane (ps.at 22 == 1) else convPath s (ps.at 22)
  built ([(!ps.ok, 0), (s.imgs == 0, 0), (s.groups == 0 || s.cin % max 1 s.groups != 0 || s.cout % max 1 s.groups != 0, 19),
      (s.cin == 0, 3), (s.cout == 0, 4), (decide (10 < s.fin), 7), (decide (10 < s.fwt), 8), (decide (10 < s.fout), 9),
      (decide ((if dw then 1 else 3) < ps.at 22), 22)] ++ windowBad s.g ++ if path = .wedge then wedgeLimits s else [])
    { steps := convSteps s path
      leaves := putCodes s.fout s.dst ((List.range s.imgs).flatMap fun i => (List.range s.cout).flatMap fun q =>
        (List.range s.g.ho).flatMap fun a => (List.range s.g.wo).map fun b => d.convEl p s path i q a b) }

/-- POOL: as CONV for its shapes, window, strides, dilations and pads; kind (0 MAX, 1 AVG) in the place of PATH, and COUNT_PAD. -/
def pool (d : Dev) (p : Nat) (buf : List Byte) : Built :=
  let ps := profileParams buf convSpec
  let s := convOf ps
  let el (i q a b : Nat) : Nat := poolEl (ps.at 22 == 0) (ps.at 26 == 1) s.fin s.fout (s.g.taps.map fun t =>
    (s.g.tap a b t.1 t.2).map fun x => d.code p s.fin s.src (((i * s.cin + q) * s.g.h + x.1) * s.g.w + x.2))
  built ([(!ps.ok, 0), (s.imgs == 0, 0), (s.cin == 0, 3), (decide (10 < s.fin), 7), (decide (10 < s.fout), 9),
      (decide (1 < ps.at 22), 22), (decide (1 < ps.at 26), 26)] ++ windowBad s.g)
    { steps := [once (.ldv kSite { kLs s.fin with ge := true }),
        .op (if ps.at 22 = 0 then .laneMax kSite { kLane with ge := true } else .add kSite { kLane with ge := true }) (s.g.kh * s.g.kw - 1),
        once (.mul kSite kLane), once (.cvt kSite { kLane with fo := BitVec.ofNat 4 s.fout, sat := true }),
        once (.stv kSite (kLs s.fout))]
      leaves := putCodes s.fout s.dst ((List.range s.imgs).flatMap fun i => (List.range s.cin).flatMap fun q =>
        (List.range s.g.ho).flatMap fun a => (List.range s.g.wo).map fun b => el i q a b) }

/-! ## BOX_NMS (Table 08-7) -/

/-- BOX_NMS: local addresses of SCR, DLT, ANC and OUT, the FAC byte of each, A, NC, PC, MAXPC, MAXOUT, THR, IOU, SXY, SWH, CLIPWH,
IMGW, IMGH, CLIP. -/
def boxNms (buf : List Byte) : Built :=
  let ps := profileParams buf [.num 4, .num 4, .num 4, .num 4, .num 1, .num 1, .num 1, .num 1, .num 2, .num 2, .num 2, .num 2, .num 2,
    .num 4, .num 4, .num 4, .num 4, .num 4, .num 4, .num 4, .num 1]
  let v := leNat ((List.range 4).flatMap (fun i => leBytes 4 (ps.at i)) ++ (List.range 4).flatMap (fun i => leBytes 1 (ps.at (4 + i))) ++
    (List.range 5).flatMap (fun i => leBytes 2 (ps.at (8 + i))) ++ leBytes 2 0 ++ (List.range 7).flatMap (fun i => leBytes 4 (ps.at (13 + i))) ++
    leBytes 1 (ps.at 20) ++ leBytes 2 0 ++ leBytes 1 1)
  let s := bxSteps v
  let n := ceilDiv s 65536
  built [(!ps.ok, 0), (ps.at 3 % 64 != 0, 3), (decide (ps.at 8 = 0 ∨ 16384 < ps.at 8), 8),
      (decide (ps.at 9 = 0 ∨ 1024 < ps.at 9 ∨ 262144 < ps.at 8 * ps.at 9), 9), (decide (ps.at 10 = 0 ∨ 512 < ps.at 10), 10),
      (decide (ps.at 11 = 0 ∨ ps.at 10 < ps.at 11), 11), (decide (ps.at 12 = 0 ∨ 1024 < ps.at 12), 12), (decide (1 < ps.at 20), 20)]
    { steps := .wedgeDesc v :: once (.wcfg kSite { d := 0, src := 0 }) ::
        (List.range n).map fun i => .op (.box kSite 0) (if i + 1 < n then 65535 else s - 1 - 65536 * (n - 1)) }

/-! ## PREFETCH (R182) -/

/-- A layer of a prefetch plan. -/
structure Layer where
  src : Nat
  size : Nat
  buf : Nat
  bound : Nat
deriving DecidableEq, Repr

/-- Two layers whose buffers overlap, and that are not the same buffer used again D + 1 layers later. -/
def layersClash (depth i j : Nat) (x y : Layer) : Bool :=
  overlap x.buf x.size y.buf y.size && !(x.buf == y.buf && (j - i) % (depth + 1) == 0)

/-- What stands at layer i: the fetch of layer i + D, its fence with the late-prefetch hinge, and after its use its drop. -/
def prefetchSteps (depth : Nat) (ls : List Layer) : List KernelStep :=
  let fetch (i : Nat) : List KernelStep := match ls[i]? with
    | none => []
    | some l =>
      let tag := 48 + i % (depth + 1)
      [once (.xfer kCtx (kXfer l.src l.buf l.size tag) []),
       once (.pfs kCtx { tag := BitVec.ofNat 6 tag, src := kGA l.buf, len := BitVec.ofNat 32 l.size, spi := false } [])]
  (List.range depth).flatMap fetch ++ ((List.range ls.length).zip ls).flatMap fun x =>
    let tag := 48 + x.1 % (depth + 1)
    fetch (x.1 + depth) ++ [fenceStep tag x.2.bound 14 true, fallbackHinge 14 x.2.bound,
      once (.sdrop kCtx { tag := BitVec.ofNat 6 tag, src := kGA x.2.buf, len := BitVec.ofNat 32 x.2.size, spi := false })]

/-- PREFETCH: layers (source, size, rim buffer, bound), depth, fallback sources. The fetches of the program land through the
requests it makes. -/
def prefetch (buf : List Byte) : Built :=
  let ps := profileParams buf [.list [8, 4, 8, 4], .num 1, .list [8]]
  let ls := (ps.lst 0).map fun e => ({ src := e.getD 0 0, size := e.getD 1 0, buf := e.getD 2 0, bound := e.getD 3 0 } : Layer)
  let depth := ps.at 0
  let ix := (List.range ls.length).zip ls
  built [(!ps.ok, 0), (decide (depth = 0 ∨ 4 < depth), 1),
      (ix.any fun x => ix.any fun y => decide (x.1 < y.1) && layersClash depth x.1 y.1 x.2 y.2, 0),
      (ls.any fun l => decide (2 ^ 20 ≤ l.bound) || l.size == 0, 0)]
    { steps := prefetchSteps depth ls }

/-! ## KERNEL_RUN (R276) -/

/-- The kernel of a profile code, or the parameter that it refuses. -/
def Dev.buildKernel (d : Dev) (p code : Nat) (buf : List Byte) : Built :=
  match code with
  | 0x01 => gemm false buf
  | 0x02 => gemm true buf
  | 0x03 => route d p buf
  | 0x04 => collective buf
  | 0x05 => cast d p buf
  | 0x06 => quantMxTile d p buf
  | 0x07 => optUpdate d p buf
  | 0x08 => pruneWeights d p buf
  | 0x09 => maskEpoch d p buf
  | 0x0A => dispatch d p buf
  | 0x0B => exchange d p buf
  | 0x0C => combine d p buf
  | 0x0D => conv false d p buf
  | 0x0E => conv true d p buf
  | 0x0F => pool d p buf
  | 0x10 => boxNms buf
  | 0x11 => prefetch buf
  | _ => .error 0

/-- KERNEL_RUN (R276). A refused parameter ends it before any load. With bit 0 of byte 0x20 the images go to the host buffer at
the address at 0x28; else they are loaded and started, and what the kernel leaves is in place when its program's completion
is due (log 7). -/
def execKernelRun (q : QueueN) (st : State) : Host.Outcome State Fault Refusal :=
  st.act fun d => d.cmd q 0x104 [] noBad fun c _ d =>
    if c.profile = 0 ∨ 0x11 < c.profile then d.param c 0 else d.onPart c fun d =>
      match d.buildKernel c.part c.profile c.buf with
      | .error i => d.param c i
      | .ok k =>
        let images := Config.kernelImages k.steps (d.sectors c.part)
        if bit (leAt c.entry 0x20 1) 0 then
          ({ d with hostMem := d.hostMem.write (leAt c.entry 0x28 8) images.flatten } : Dev).done c
        else
          let d : Dev := { d with fresh := d.fresh + k.leaves.length }
          d.load c images fun d => d.startProgram c k.leaves k.counters

end Sys2Proof.Machine
end

