-- ==== Sys2Proof/Machine/Reads.lean ====
section
/-! DEFINITION. What a host read of BAR 0 answers with (13_host_queues.md, R258; 22_address_map.md, R381, R382). The table has no
row for a read: it changes nothing but the captures of R382, which stand beside the device here. -/

namespace Sys2Proof.Machine

/-- A register of one instance for each session, slot or window: those of partition p (R254, R310). -/
def Dev.ownInstance (d : Dev) (p : Nat) (r : RegDesc) : Bool :=
  match arrAt r.base 0x40100 0x10 257, arrAt r.base 0x42000 8 4096, arrAt r.base 0x3160000 0x40 48 with
  | some _, _, _ => d.flag r.base 127 && !d.flag r.base 121 && d.fld r.base 125 122 == p
  | _, some _, _ => d.flag r.base 63 && !d.flag r.base 61 && d.fld r.base 60 57 == p
  | _, _, some (n, _) => d.portPart n == some p
  | _, _, _ => false

/-- The device's registers that every VF reads: HQ_CAP, CLK_TB, GOV_STATUS and GOV_PWR (R278, R337, R352). -/
def commonRegs : List Nat := [rHqCap, rClkTb, rGovStatus, rGovPwr]

/-- Whether a read by function fn sees a register (R258): the PF sees all. -/
def Dev.sees (d : Dev) (fn : Nat) (r : RegDesc) : Bool :=
  if fn = 0 then true else
  match d.vfPart fn with
  | none => false
  | some p =>
    match slotAt r.base, arrAt r.base 0x90000 4 16384, arrAt r.base 0xC0000 0x10 16384 with
    | some s, _, _ => !d.foreignSlot p s
    | _, some (q, _), _ => d.fld (rHqCq q) 5 0 == fn
    | _, _, some (q, _) => d.fld (rHqCq q) 5 0 == fn
    | _, _, _ => d.reaches fn r || d.ownInstance p r || commonRegs.contains r.base

/-- Whether function fn sees the arrays of facet f's window. -/
def Dev.seesFacet (d : Dev) (fn f : Nat) : Bool :=
  fn == 0 || (match d.vfPart fn with | some p => d.resident p && d.holds p (sectorOf f) | none => false)

/-- The captures after function fn has read the 8 B word at `off`: reading the lowest word of a register wider than 64 bits
captures it whole. -/
def Dev.capture (d : Dev) (fn off : Nat) (cap : NatMap) : NatMap :=
  match regAt off with
  | some r => if 8 < r.bytes ∧ off = r.base ∧ d.sees fn r then cap.set r.base (d.regValue r) else cap
  | none => cap

/-- The 8 B word at an aligned offset as function fn reads it: two 32-bit registers side by side, or a word of a wider one,
above whose lowest word the capture is read. -/
def Dev.hostWord (d : Dev) (fn off : Nat) (cap : NatMap) : Nat :=
  let piece (o : Nat) : Nat := match regAt o with
    | some r =>
      if !d.sees fn r then 0 else
      let v := if 8 < r.bytes ∧ r.base + 8 ≤ o then cap.get r.base else d.regValue r
      v / 2 ^ (8 * (o - r.base)) % 2 ^ (if 8 ≤ r.bytes then 64 else 32)
    | none => 0
  match facetAt off, regAt off with
  | some (f, k), none => if d.seesFacet fn f then d.facetWord f k else 0
  | _, some r => if 8 ≤ r.bytes then piece off else piece off + piece (off + 4) * 2 ^ 32
  | none, none => piece (off + 4) * 2 ^ 32

/-- A host read of `n` bytes at `off` by function fn and the captures after it: 4 B or 8 B, naturally aligned; any other reads
0 (R382). -/
def Dev.hostRead (d : Dev) (fn off n : Nat) (cap : NatMap) : Nat × NatMap :=
  if off % n ≠ 0 then (0, cap)
  else if n = 8 then (d.hostWord fn off cap, d.capture fn off cap)
  else if n = 4 then
    (d.hostWord fn (off / 8 * 8) cap / 2 ^ (8 * (off % 8)) % 2 ^ 32, d.capture fn off cap)
  else (0, cap)

end Sys2Proof.Machine
end

