-- ==== Sys2Proof/Machine/Dispatch.lean ====
section
/-! DEFINITION. The dispatch: one arm for each constructor of `Instr`. -/

namespace Sys2Proof.Machine

def exec (i : Instr) (s : State) : Host.Outcome State Fault Refusal :=
  match i with
  | .bundleIssue c secded sc => Sys2Proof.Machine.execBundleIssue c secded sc s
  | .hinge c => Sys2Proof.Machine.execHinge c s
  | .closedHingePad c => Sys2Proof.Machine.execClosedHingePad c s
  | .openHingeAlign c => Sys2Proof.Machine.execOpenHingeAlign c s
  | .hingeBound c => Sys2Proof.Machine.execHingeBound c s
  | .halt c => Sys2Proof.Machine.execHalt c s
  | .spanFullStall c => Sys2Proof.Machine.execSpanFullStall c s
  | .spanTokenArrive h => Sys2Proof.Machine.execSpanTokenArrive h s
  | .spanFenceWait c => Sys2Proof.Machine.execSpanFenceWait c s
  | .spanFencePass c => Sys2Proof.Machine.execSpanFencePass c s
  | .spanLate c => Sys2Proof.Machine.execSpanLate c s
  | .spanWait c => Sys2Proof.Machine.execSpanWait c s
  | .fillWait c => Sys2Proof.Machine.execFillWait c s
  | .streamBundleLand c => Sys2Proof.Machine.execStreamBundleLand c s
  | .mma w o => Sys2Proof.Machine.execMma w o s
  | .prismOrderStall c f => Sys2Proof.Machine.execPrismOrderStall c f s
  | .productLand c => Sys2Proof.Machine.execProductLand c s
  | .drain w o => Sys2Proof.Machine.execDrain w o s
  | .drainRowWrite c => Sys2Proof.Machine.execDrainRowWrite c s
  | .pcfg w o => Sys2Proof.Machine.execPcfg w o s
  | .pvld w o => Sys2Proof.Machine.execPvld w o s
  | .add w o => Sys2Proof.Machine.execAdd w o s
  | .sub w o => Sys2Proof.Machine.execSub w o s
  | .mul w o => Sys2Proof.Machine.execMul w o s
  | .fma w o => Sys2Proof.Machine.execFma w o s
  | .laneMin w o => Sys2Proof.Machine.execMin w o s
  | .laneMax w o => Sys2Proof.Machine.execMax w o s
  | .neg w o => Sys2Proof.Machine.execNeg w o s
  | .laneAnd w o => Sys2Proof.Machine.execAnd w o s
  | .laneOr w o => Sys2Proof.Machine.execOr w o s
  | .laneXor w o => Sys2Proof.Machine.execXor w o s
  | .shl w o => Sys2Proof.Machine.execShl w o s
  | .shr w o => Sys2Proof.Machine.execShr w o s
  | .sel w o => Sys2Proof.Machine.execSel w o s
  | .cmp w o => Sys2Proof.Machine.execCmp w o s
  | .plog w o => Sys2Proof.Machine.execPlog w o s
  | .movi w o => Sys2Proof.Machine.execMovi w o s
  | .laneid w o => Sys2Proof.Machine.execLaneid w o s
  | .cvt w o => Sys2Proof.Machine.execCvt w o s
  | .sfu w o => Sys2Proof.Machine.execSfu w o s
  | .red w o => Sys2Proof.Machine.execRed w o s
  | .shuf w o => Sys2Proof.Machine.execShuf w o s
  | .rand w o => Sys2Proof.Machine.execRand w o s
  | .topk w o => Sys2Proof.Machine.execTopk w o s
  | .disp w o => Sys2Proof.Machine.execDisp w o s
  | .dclr w o => Sys2Proof.Machine.execDclr w o s
  | .cset w o => Sys2Proof.Machine.execCset w o s
  | .cidx w o => Sys2Proof.Machine.execCidx w o s
  | .cflag w o => Sys2Proof.Machine.execCflag w o s
  | .conditionWrite c => Sys2Proof.Machine.execConditionWrite c s
  | .ldv w o => Sys2Proof.Machine.execLdv w o s
  | .stv w o => Sys2Proof.Machine.execStv w o s
  | .ldb w o => Sys2Proof.Machine.execLdb w o s
  | .amov w o => Sys2Proof.Machine.execAmov w o s
  | .aadd w o => Sys2Proof.Machine.execAadd w o s
  | .amul w o => Sys2Proof.Machine.execAmul w o s
  | .afromv w o => Sys2Proof.Machine.execAfromv w o s
  | .stdc w o => Sys2Proof.Machine.execStdc w o s
  | .xld w o sc => Sys2Proof.Machine.execXld w o sc s
  | .xst w o => Sys2Proof.Machine.execXst w o s
  | .move w o => Sys2Proof.Machine.execMove w o s
  | .fill w o => Sys2Proof.Machine.execFill w o s
  | .wcfg w o => Sys2Proof.Machine.execWcfg w o s
  | .wedge w o => Sys2Proof.Machine.execWedge w o s
  | .wedgePassReady f => Sys2Proof.Machine.execWedgePassReady f s
  | .box w d => Sys2Proof.Machine.execBox w d s
  | .pfs c o sc => Sys2Proof.Machine.execPfs c o sc s
  | .xfer c o sc => Sys2Proof.Machine.execXfer c o sc s
  | .gather c o sc => Sys2Proof.Machine.execGather c o sc s
  | .scatter c o sc => Sys2Proof.Machine.execScatter c o sc s
  | .stream c o => Sys2Proof.Machine.execStream c o s
  | .dfence c o => Sys2Proof.Machine.execDfence c o s
  | .dfenceRelease c => Sys2Proof.Machine.execDfenceRelease c s
  | .tbset c o => Sys2Proof.Machine.execTbset c o s
  | .sdrop c o => Sys2Proof.Machine.execSdrop c o s
  | .requestComplete c tag => Sys2Proof.Machine.execRequestComplete c tag s
  | .dmaAccess f => Sys2Proof.Machine.execDmaAccess f s
  | .rscat c o => Sys2Proof.Machine.execRscat c o s
  | .ared c o => Sys2Proof.Machine.execAred c o s
  | .agath c o => Sys2Proof.Machine.execAgath c o s
  | .bcast c o => Sys2Proof.Machine.execBcast c o s
  | .a2a c o => Sys2Proof.Machine.execA2a c o s
  | .itake c o => Sys2Proof.Machine.execItake c o s
  | .irel c o => Sys2Proof.Machine.execIrel c o s
  | .iroi c o => Sys2Proof.Machine.execIroi c o s
  | .dhaltReq c => Sys2Proof.Machine.execDhaltReq c s
  | .breakpointHit c => Sys2Proof.Machine.execBreakpointHit c s
  | .stepBundle c => Sys2Proof.Machine.execStepBundle c s
  | .resume c => Sys2Proof.Machine.execResume c s
  | .start c => Sys2Proof.Machine.execStart c s
  | .sqTail fn w => Sys2Proof.Machine.execSqTail fn w s
  | .cqHead fn w => Sys2Proof.Machine.execCqHead fn w s
  | .commandFetch entry buf => Sys2Proof.Machine.execCommandFetch entry buf s
  | .interimCompletion q cid => Sys2Proof.Machine.execInterimCompletion q cid s
  | .msixAggregateTimer q => Sys2Proof.Machine.execMsixAggregateTimer q s
  | .bar4Access o => Sys2Proof.Machine.execBar4Access o s
  | .configRequest vfs => Sys2Proof.Machine.execConfigRequest vfs s
  | .flr fn => Sys2Proof.Machine.execFlr fn s
  | .queueCreate q => Sys2Proof.Machine.execQueueCreate q s
  | .queueDelete q => Sys2Proof.Machine.execQueueDelete q s
  | .queueArb q => Sys2Proof.Machine.execQueueArb q s
  | .evqSet q => Sys2Proof.Machine.execEvqSet q s
  | .vfSet q => Sys2Proof.Machine.execVfSet q s
  | .identify q => Sys2Proof.Machine.execIdentify q s
  | .loadProgram q images => Sys2Proof.Machine.execLoadProgram q images s
  | .startProgram q => Sys2Proof.Machine.execStartProgram q s
  | .clearTfault q => Sys2Proof.Machine.execClearTfault q s
  | .kernelRun q => Sys2Proof.Machine.execKernelRun q s
  | .nevConfig q => Sys2Proof.Machine.execNevConfig q s
  | .nevClear q => Sys2Proof.Machine.execNevClear q s
  | .rngSeed q => Sys2Proof.Machine.execRngSeed q s
  | .memScrubCfg q => Sys2Proof.Machine.execMemScrubCfg q s
  | .farWindow q => Sys2Proof.Machine.execFarWindow q s
  | .stackRepair q => Sys2Proof.Machine.execStackRepair q s
  | .stackRepairDone x pc => Sys2Proof.Machine.execStackRepairDone x pc s
  | .memClearErr q => Sys2Proof.Machine.execMemClearErr q s
  | .rimRead addr errs => Sys2Proof.Machine.execRimRead addr errs s
  | .rimPartialWrite addr bytes errs => Sys2Proof.Machine.execRimPartialWrite addr bytes errs s
  | .scrubRead x pc errs => Sys2Proof.Machine.execScrubRead x pc errs s
  | .farReadFail c tag why => Sys2Proof.Machine.execFarReadFail c tag why s
  | .portCfg q => Sys2Proof.Machine.execPortCfg q s
  | .flowCfg q => Sys2Proof.Machine.execFlowCfg q s
  | .distMeasure q meas => Sys2Proof.Machine.execDistMeasure q meas s
  | .endpoint q => Sys2Proof.Machine.execEndpoint q s
  | .peerSet q => Sys2Proof.Machine.execPeerSet q s
  | .groupCreate q => Sys2Proof.Machine.execGroupCreate q s
  | .groupReset q => Sys2Proof.Machine.execGroupReset q s
  | .qpConnect q => Sys2Proof.Machine.execQpConnect q s
  | .layout q => Sys2Proof.Machine.execLayout q s
  | .parity q => Sys2Proof.Machine.execParity q s
  | .data f => Sys2Proof.Machine.execData f s
  | .ack f => Sys2Proof.Machine.execAck f s
  | .nak f => Sys2Proof.Machine.execNak f s
  | .rnr f => Sys2Proof.Machine.execRnr f s
  | .rdv f => Sys2Proof.Machine.execRdv f s
  | .abort f => Sys2Proof.Machine.execAbort f s
  | .farReq f => Sys2Proof.Machine.execFarReq f s
  | .farRsp f => Sys2Proof.Machine.execFarRsp f s
  | .rtoTimeout w => Sys2Proof.Machine.execRtoTimeout w s
  | .rnrRetryTimer w => Sys2Proof.Machine.execRnrRetryTimer w s
  | .rendezvousTimeout g epoch => Sys2Proof.Machine.execRendezvousTimeout g epoch s
  | .optmoTimeout g epoch => Sys2Proof.Machine.execOptmoTimeout g epoch s
  | .barrovOpComplete g epoch => Sys2Proof.Machine.execBarrovOpComplete g epoch s
  | .frameReceive j => Sys2Proof.Machine.execFrameReceive j s
  | .pfcPause port prio e => Sys2Proof.Machine.execPfcPause port prio e s
  | .pfcWd port prio => Sys2Proof.Machine.execPfcWd port prio s
  | .pfcWdEnd port prio => Sys2Proof.Machine.execPfcWdEnd port prio s
  | .cnp t => Sys2Proof.Machine.execCnp t s
  | .rateIncreaseTimer t => Sys2Proof.Machine.execRateIncreaseTimer t s
  | .rekey port => Sys2Proof.Machine.execRekey port s
  | .associationExhausted port => Sys2Proof.Machine.execAssociationExhausted port s
  | .linkDown port => Sys2Proof.Machine.execLinkDown port s
  | .linkUp port m => Sys2Proof.Machine.execLinkUp port m s
  | .qpError j => Sys2Proof.Machine.execQpError j s
  | .ptpSync offset adj => Sys2Proof.Machine.execPtpSync offset adj s
  | .ptpHoldover => Sys2Proof.Machine.execPtpHoldover s
  | .ingScratch q => Sys2Proof.Machine.execIngScratch q s
  | .ingRingCfg q => Sys2Proof.Machine.execIngRingCfg q s
  | .ingShard q => Sys2Proof.Machine.execIngShard q s
  | .ingRestore q => Sys2Proof.Machine.execIngRestore q s
  | .ingStop q => Sys2Proof.Machine.execIngStop q s
  | .ingDictLoad q => Sys2Proof.Machine.execIngDictLoad q s
  | .ingBudget q => Sys2Proof.Machine.execIngBudget q s
  | .ingQuota q => Sys2Proof.Machine.execIngQuota q s
  | .sampleStart j => Sys2Proof.Machine.execSampleStart j s
  | .sampleFetched j object => Sys2Proof.Machine.execSampleFetched j object s
  | .headerParse j => Sys2Proof.Machine.execHeaderParse j s
  | .sampleComplete j engineUs => Sys2Proof.Machine.execSampleComplete j engineUs s
  | .budgetExpiry j => Sys2Proof.Machine.execBudgetExpiry j s
  | .fetchFail j => Sys2Proof.Machine.execFetchFail j s
  | .rowWritten p ring => Sys2Proof.Machine.execRowWritten p ring s
  | .logFull p ring => Sys2Proof.Machine.execLogFull p ring s
  | .roiListRead p ring => Sys2Proof.Machine.execRoiListRead p ring s
  | .replayRoiTimeout p ring => Sys2Proof.Machine.execReplayRoiTimeout p ring s
  | .attest q flashOk => Sys2Proof.Machine.execAttest q flashOk s
  | .attCert q => Sys2Proof.Machine.execAttCert q s
  | .reportExpiry j => Sys2Proof.Machine.execReportExpiry j s
  | .sessionOpen q => Sys2Proof.Machine.execSessionOpen q s
  | .sessionClose q => Sys2Proof.Machine.execSessionClose q s
  | .ownerSet q => Sys2Proof.Machine.execOwnerSet q s
  | .keyInstall q => Sys2Proof.Machine.execKeyInstall q s
  | .keyErase q => Sys2Proof.Machine.execKeyErase q s
  | .policySet q => Sys2Proof.Machine.execPolicySet q s
  | .sealRange q => Sys2Proof.Machine.execSealRange q s
  | .unsealRange q => Sys2Proof.Machine.execUnsealRange q s
  | .copyOut q => Sys2Proof.Machine.execCopyOut q s
  | .fwUpdate q => Sys2Proof.Machine.execFwUpdate q s
  | .svnCommit q => Sys2Proof.Machine.execSvnCommit q s
  | .rootRevoke q => Sys2Proof.Machine.execRootRevoke q s
  | .killFuse q => Sys2Proof.Machine.execKillFuse q s
  | .debugUnlock q => Sys2Proof.Machine.execDebugUnlock q s
  | .debugLock q => Sys2Proof.Machine.execDebugLock q s
  | .lockoutExpiry k => Sys2Proof.Machine.execLockoutExpiry k s
  | .partitionCreate q => Sys2Proof.Machine.execPartitionCreate q s
  | .partitionDestroy q => Sys2Proof.Machine.execPartitionDestroy q s
  | .sectorZeroised g => Sys2Proof.Machine.execSectorZeroised g s
  | .prtSlice q => Sys2Proof.Machine.execPrtSlice q s
  | .prtPreempt q => Sys2Proof.Machine.execPrtPreempt q s
  | .prtWays q => Sys2Proof.Machine.execPrtWays q s
  | .partitionReset q => Sys2Proof.Machine.execPartitionReset q s
  | .sliceEnd p => Sys2Proof.Machine.execSliceEnd p s
  | .preemptDrainTimeout p => Sys2Proof.Machine.execPreemptDrainTimeout p s
  | .drainComplete p overrunUs => Sys2Proof.Machine.execDrainComplete p overrunUs s
  | .saveComplete p => Sys2Proof.Machine.execSaveComplete p s
  | .restoreComplete p badSectors => Sys2Proof.Machine.execRestoreComplete p badSectors s
  | .psvConfig q => Sys2Proof.Machine.execPsvConfig q s
  | .psvPlan q => Sys2Proof.Machine.execPsvPlan q s
  | .psvSave q => Sys2Proof.Machine.execPsvSave q s
  | .psvFailNote q => Sys2Proof.Machine.execPsvFailNote q s
  | .psvRestore q images saved sources => Sys2Proof.Machine.execPsvRestore q images saved sources s
  | .savePointReached c => Sys2Proof.Machine.execSavePointReached c s
  | .savePointTimeout p => Sys2Proof.Machine.execSavePointTimeout p s
  | .snapshotDone p costUs => Sys2Proof.Machine.execSnapshotDone p costUs s
  | .partnerPhaseDone p divergent => Sys2Proof.Machine.execPartnerPhaseDone p divergent s
  | .flashPhaseDone p => Sys2Proof.Machine.execFlashPhaseDone p s
  | .sharedPhaseDone p => Sys2Proof.Machine.execSharedPhaseDone p s
  | .saveAbandoned p => Sys2Proof.Machine.execSaveAbandoned p s
  | .deepTier p grp t => Sys2Proof.Machine.execDeepTier p grp t s
  | .pmuProfile q => Sys2Proof.Machine.execPmuProfile q s
  | .pmuSample q => Sys2Proof.Machine.execPmuSample q s
  | .pmuBw q => Sys2Proof.Machine.execPmuBw q s
  | .pmuSnapshot q => Sys2Proof.Machine.execPmuSnapshot q s
  | .counterWrapSample w excess => Sys2Proof.Machine.execCounterWrapSample w excess s
  | .sampleDelivery w => Sys2Proof.Machine.execSampleDelivery w s
  | .bwWindowEnd n => Sys2Proof.Machine.execBwWindowEnd n s
  | .snapshotFire => Sys2Proof.Machine.execSnapshotFire s
  | .pmuSnapAt t => Sys2Proof.Machine.execPmuSnapAt t s
  | .freeze on => Sys2Proof.Machine.execFreeze on s
  | .clearCounts => Sys2Proof.Machine.execClearCounts s
  | .rtInfo q => Sys2Proof.Machine.execRtInfo q s
  | .wdogCfg q => Sys2Proof.Machine.execWdogCfg q s
  | .flfCarve q => Sys2Proof.Machine.execFlfCarve q s
  | .rtCore core running => Sys2Proof.Machine.execRtCore core running s
  | .rtHang => Sys2Proof.Machine.execRtHang s
  | .rtUe kind => Sys2Proof.Machine.execRtUe kind s
  | .codeDigestCheck ok => Sys2Proof.Machine.execCodeDigestCheck ok s
  | .govPowerCap q => Sys2Proof.Machine.execGovPowerCap q s
  | .govCeilSet q => Sys2Proof.Machine.execGovCeilSet q s
  | .govRampCfg q => Sys2Proof.Machine.execGovRampCfg q s
  | .govBrakeCfg q => Sys2Proof.Machine.execGovBrakeCfg q s
  | .govThermCfg q => Sys2Proof.Machine.execGovThermCfg q s
  | .clkGate q => Sys2Proof.Machine.execClkGate q s
  | .tclkLimit q => Sys2Proof.Machine.execTclkLimit q s
  | .tbConfig q => Sys2Proof.Machine.execTbConfig q s
  | .governorTick r => Sys2Proof.Machine.execGovernorTick r s
  | .tpllStep h => Sys2Proof.Machine.execTpllStep h s
  | .brake => Sys2Proof.Machine.execBrake s
  | .brakeRelease => Sys2Proof.Machine.execBrakeRelease s
  | .brakeChatter => Sys2Proof.Machine.execBrakeChatter s
  | .chatterRelease => Sys2Proof.Machine.execChatterRelease s
  | .brakeHeldSecond => Sys2Proof.Machine.execBrakeHeldSecond s
  | .throttle die => Sys2Proof.Machine.execThrottle die s
  | .throttleRecover die => Sys2Proof.Machine.execThrottleRecover die s
  | .thermtrip => Sys2Proof.Machine.execThermtrip s
  | .inputRange mv => Sys2Proof.Machine.execInputRange mv s
  | .inputUndervoltage => Sys2Proof.Machine.execInputUndervoltage s
  | .inputOvervoltage => Sys2Proof.Machine.execInputOvervoltage s
  | .railFail => Sys2Proof.Machine.execRailFail s
  | .refclk25Qualify => Sys2Proof.Machine.execRefclk25Qualify s
  | .refWindow r count => Sys2Proof.Machine.execRefWindow r count s
  | .pllLockWindow n count => Sys2Proof.Machine.execPllLockWindow n count s
  | .clkRef r => Sys2Proof.Machine.execClkRef r s
  | .clkCoast n => Sys2Proof.Machine.execClkCoast n s
  | .clkLock n => Sys2Proof.Machine.execClkLock n s
  | .clkGateOff mask => Sys2Proof.Machine.execClkGateOff mask s
  | .clkGateOn mask => Sys2Proof.Machine.execClkGateOn mask s
  | .clkTbStep v => Sys2Proof.Machine.execClkTbStep v s
  | .clkTbAdj v => Sys2Proof.Machine.execClkTbAdj v s
  | .tbStepAbsorbed => Sys2Proof.Machine.execTbStepAbsorbed s
  | .coldReset => Sys2Proof.Machine.execColdReset s
  | .perstFall => Sys2Proof.Machine.execPerstFall s
  | .perstRelease => Sys2Proof.Machine.execPerstRelease s
  | .hotReset => Sys2Proof.Machine.execHotReset s
  | .warm v => Sys2Proof.Machine.execWarm v s
  | .warmResetEntry => Sys2Proof.Machine.execWarmResetEntry s
  | .bootStageEnd e => Sys2Proof.Machine.execBootStageEnd e s
  | .deadline => Sys2Proof.Machine.execDeadline s
  | .stackTestEnd x failed => Sys2Proof.Machine.execStackTestEnd x failed s
  | .go v => Sys2Proof.Machine.execGo v s
  | .recoveryLoadDone image flashOk => Sys2Proof.Machine.execRecoveryLoadDone image flashOk s
  | .bootCfg v => Sys2Proof.Machine.execBootCfg v s
  | .registerWrite by_ size v => Sys2Proof.Machine.execRegisterWrite by_ size v s
  | .sealComplete q cid => Sys2Proof.Machine.execSealComplete q cid s
  | .nevRingRecordLand p => Sys2Proof.Machine.execNevRingRecordLand p s
  | .sampleRecordLand p => Sys2Proof.Machine.execSampleRecordLand p s
  | .inputRangeExit mv => Sys2Proof.Machine.execInputRangeExit mv s
  | .peerDelayTimeout port => Sys2Proof.Machine.execPeerDelayTimeout port s
  | .qpRetryTimeout j => Sys2Proof.Machine.execQpRetryTimeout j s
  | .pldmRequest r => Sys2Proof.Machine.execPldmRequest r s

end Sys2Proof.Machine
end

