-- ==== Sys2Proof/Machine/Step.lean ====
section
/-! DEFINITION. One step of the block: the command at the front of its queue acts; with no command waiting, one cycle of
the time base passes (log 11). -/

namespace Sys2Proof.Machine

/-- What passes while no command waits: one cycle of TBPLL (R333, R334), while the core rails are up. -/
def Dev.idle (d : Dev) : Dev := if d.sys.railsUp then d.tick else d

/-- One step: the front command acts on everything but the queue, and leaves the queue. -/
def step (s : State) : Host.Outcome State Fault Refusal :=
  match s.pending with
  | [] => .next { s with dev := s.dev.idle }
  | c :: cs => exec c { s with pending := cs }

/-- The state with the command that a word spells put at the front of the queue; unchanged where it spells none. -/
def State.withFetchWord (s : State) (nbits w : Nat) : State :=
  match decodeTableWord nbits w with
  | some c => { s with pending := c :: s.pending }
  | none => s

end Sys2Proof.Machine
end

