-- ==== Sys2Proof/WellFormed.lean ====
section
/-! DEFINITION. Which commands are well formed: what an operand must be for the command to name something that can
reach the block. Operands that their types already bound need no check. -/

namespace Sys2Proof

/-- A memory write of BAR 2 carries at most 8 bytes. -/
def bellOk (w : BellWrite) : Bool := decide (1 ≤ w.size ∧ w.size ≤ 8)

/-- A BAR 4 access: a write carries its bytes, a read none (R260). -/
def bar4Ok (o : Bar4Op) : Bool := decide (1 ≤ o.len) && (if o.write then o.bytes.length == o.len else o.bytes.isEmpty)

/-- Symbol errors: positions of the 42 symbols (R171), once each, and values that change something. -/
def errsOk : SymErrs → Bool
  | [] => true
  | e :: es => decide (e.1 < 42) && e.2 != 0 && !(es.any fun x => x.1 == e.1) && errsOk es

/-- The address of a granule of rim memory. -/
def granuleOk (a : BitVec 48) : Bool := a.toNat % 64 == 0 && decide (a.toNat < 0xC000000000)

/-- A write of part of a granule (R173). -/
def partialOk (a : BitVec 48) (b : List Byte) : Bool :=
  decide (1 ≤ b.length ∧ a.toNat % 64 + b.length ≤ 64 ∧ b.length < 64 ∧ a.toNat < 0xC000000000)

/-- A measurement of link delay: at most 64 answers (R194). -/
def measOk (m : PdelayMeas) : Bool := decide (m.roundTrips.length ≤ 64)

/-- An occupancy within the receive buffer of 1 MiB (R191). -/
def pfcOk : PfcEvent → Bool
  | .received _ => true
  | .occupancy kib => decide (kib ≤ 1024)

/-- A boot stage of Table 20-2. -/
def stageOk (e : StageEnd) : Bool := decide (1 ≤ e.stage.toNat ∧ e.stage.toNat ≤ 10)

/-- Targets of a governor period within the range of TCLK, and a temperature of each of the 8 stacks (R336, R186). -/
def readingOk (r : GovReading) : Bool :=
  decide (r.target0.toNat ≤ 1500 ∧ r.target1.toNat ≤ 1500) && r.tempStacks.length == 8

/-- A register write: 1, 2, 4 or 8 bytes, inside the 64 MiB of BAR 0 or a facet's local store (Table 13-2). -/
def writeOk (w : Writer) (n : Nat) : Bool :=
  (n == 1 || n == 2 || n == 4 || n == 8) && match w with
    | .host _ off => decide (off.toNat + n ≤ 0x4000000)
    | .debug (.reg off) => decide (off.toNat + n ≤ 0x4000000)
    | .debug (.store _ a) => decide (a.toNat + n ≤ 0x200000)
    | .debug _ => true
    | .tap _ _ _ => true

/-- PLDM types are 6 bits and commands 8 bits wide; a read of the EEPROM lies within its 2 KiB. -/
def pldmOk : MgmtReq → Bool
  | .pldm r => decide (r.ptype < 64 ∧ r.code < 256)
  | .eepromRead off len => decide (off.toNat + len ≤ 2048)
  | .eepromWrite _ _ => true

/-- The payload of a Barrov frame is as long as its header says (R196). -/
def barrovOk (f : BarrovFrame) : Bool := f.payload.length == f.hdr.plen.toNat

/-- No number twice. -/
def noRepeat : List Nat → Bool
  | [] => true
  | x :: xs => !xs.contains x && noRepeat xs

/-- The check of a command: only the operands below can name what cannot reach the block. -/
def Instr.wf : Instr → Bool
  | .sqTail _ w => bellOk w
  | .cqHead _ w => bellOk w
  | .commandFetch entry _ => entry.length == 128
  | .bar4Access o => bar4Ok o
  | .rimRead addr errs => granuleOk addr && errsOk errs
  | .rimPartialWrite addr bytes errs => partialOk addr bytes && errsOk errs
  | .scrubRead _ _ errs => errsOk errs
  | .distMeasure _ meas => meas.all measOk
  | .data f => barrovOk f
  | .ack f => barrovOk f
  | .nak f => barrovOk f
  | .rnr f => barrovOk f
  | .rdv f => barrovOk f
  | .abort f => barrovOk f
  | .farReq f => barrovOk f
  | .farRsp f => barrovOk f
  | .pfcPause _ _ e => pfcOk e
  | .linkUp _ m => measOk m
  | .partnerPhaseDone _ l => noRepeat l
  | .governorTick r => readingOk r
  | .bootStageEnd e => stageOk e
  | .registerWrite by_ size _ => writeOk by_ size
  | .pldmRequest r => pldmOk r
  | _ => true

/-- A well-formed command. -/
abbrev WellFormed (i : Instr) : Prop := i.wf = true

end Sys2Proof
end

