-- ==== Sys2Proof/Safety.lean ====
section
/-! DEFINITION. What counts as a safe state and a safe run, and the terms the statements use. -/

namespace Sys2Proof

open Machine

/-! ## States and runs -/

/-- The byte memories of the device are in canonical form: local stores, rim memory, flash, and host memory as the
device has written it. -/
def memoryOk (d : Dev) : Bool := d.ls.wf && d.rim.wf && d.mem.flash.wf && d.hostMem.wf

/-- Every waiting command is well formed. -/
def queueOk (s : State) : Bool := s.pending.all Instr.wf

/-- A step that neither faults nor is refused. -/
def answers (o : Host.Outcome State Fault Refusal) : Prop := ∃ t, o = .next t

/-- Everything that a run of `n` steps needs to reach a state. -/
def runs : Nat → State → State → Prop
  | 0, s, t => s = t
  | n + 1, s, t => ∃ u, step s = .next u ∧ runs n u t

/-- The state with another device. -/
def withDev (s : State) (d : Dev) : State := { s with dev := d }

/-! ## Issue cycles of a context -/

/-- The device as an op of context c finds it in the cycle the context is in: everything due before has come about, and
what is due in it on paths of access order up to k. -/
def atIssue (d : Dev) (c : CtxId) (k : Nat) : Dev :=
  (landRanks (d.issueOf c) (d.issueOf c).cyc 0 k (d.settle c.h.val c.n.val (d.issueOf c).cyc, {})).1

/-- The cycle a context is in. -/
def cycleOf (d : Dev) (c : CtxId) : Nat := (d.ctx c.h.val c.n.val).cyc

/-- An effect is on its way in a context, due in a cycle. -/
def onItsWay (d : Dev) (c : CtxId) (due : Nat) (e : Effect) : Prop :=
  ({ due, eff := e } : Delayed) ∈ (d.ctx c.h.val c.n.val).inflight

/-- The thread context that an op of context c acts on (R40). -/
def threadOf (d : Dev) (c : CtxId) (pin : Bool) (pctx : BitVec 4) : Nat :=
  if pin then pctx.toNat else (d.ctx c.h.val c.n.val).icount % 16

/-- Word j of the generator of lane l of facet f at its next evaluation (R128). -/
def drawn (d : Dev) (f l j : Nat) : Nat :=
  nth (philox (d.rng.get (f * 512 + l) / 2 ^ 64) (d.rng.get (f * 512 + l) % 2 ^ 64)) j

/-- A command that makes lane results of an op: it answers a next state with the queue as it was, in which, for every
facet of the site that has a lane the guard lets act, the values `val d f k l` of thread context k are on their way to
register vd of those lanes, 16 cycles after the issue (R14, R70). -/
def laneResult (i : Instr) (st : State) (s : Site) (o : LaneOp) (val : Dev → Nat → Nat → Nat → Nat) : Prop :=
  let d := atIssue st.dev s.c 3
  let k := threadOf st.dev s.c o.pin o.pctx
  ∃ t, exec i st = .next t ∧ t.pending = st.pending ∧ ∀ f ∈ siteFacets s, d.lanesIn f k o ≠ [] →
    onItsWay t.dev s.c (cycleOf st.dev s.c + 16)
      (.lane f k 0 ((d.lanesIn f k o).map fun l => (o.vd.toNat * 512 + l, val d f k l)) [])

/-- The same of predicate results, on their way to p[pd]. -/
def predResult (i : Instr) (st : State) (s : Site) (o : LaneOp) (val : Dev → Nat → Nat → Nat → Bool) : Prop :=
  let d := atIssue st.dev s.c 3
  let k := threadOf st.dev s.c o.pin o.pctx
  ∃ t, exec i st = .next t ∧ t.pending = st.pending ∧ ∀ f ∈ siteFacets s, d.lanesIn f k o ≠ [] →
    onItsWay t.dev s.c (cycleOf st.dev s.c + 16)
      (.lane f k 0 [] ((d.lanesIn f k o).map fun l => (o.pd.toNat * 512 + l, b2n (val d f k l))))

/-! ## Counters, copies and commands -/

/-- No counter slot of the PMU counts: the PMU is frozen, or no slot that counts is enabled (R306, R307). -/
def uncounted (d : Dev) : Prop := d.flag rPmuCtrl 31 = true ∨ (d.regs.any fun e => slotCounts e.1 e.2) = false

/-- What moving a piece for partition p does to memory: its bytes, as the source reads them, stand at each destination; a
far-tier read leaves the next such read its own values. -/
def copied (p : Nat) (q : Piece) (d : Dev) : Dev :=
  let bs := d.gread p q.src q.len
  let e := if isFar q.src then { d with fresh := d.fresh + 1 } else d
  forL q.dsts (fun a e => e.gput (placeBytes a bs)) e

/-- A frame with a property has gone out, or waits on port n for a pause to end or an association (R189 to R192). -/
def putsOut (d : Dev) (n : Nat) (ok : SentFrame → Bool) : Prop := (d.brv.sent ++ (d.port n).queued).any ok = true

/-- A fetched command that has started. -/
def began (c : FetchedCmd) : FetchedCmd := { c with started := true }

/-- What holds when the next command of queue q acts (R264, R265, R249): it is c with an opcode of its own, no fatal error
ends it, its parameters are there, and, where it is critical, the device after its authentication is e and its buffer has
the digest its entry carries. A command that is not critical finds e the device in which it has started. -/
structure Accepted (d : Dev) (q : QueueN) (opc : Nat) (spec : List PKind) (c : FetchedCmd) (e : Dev) : Prop where
  head : d.startable q.val = some c
  opcode : c.opc = opc
  device : d.flag rHqDevstat 30 = false
  partition : c.part < 16 → d.partFatal c.part = true → runsWhenFatal opc = true
  params : (c.params spec).ok = true
  plain : c.crit = false → e = d.setFetched (began c)
  signed : c.crit = true → (d.setFetched (began c)).critCheck (began c) (c.params spec) = (e, none)
  digest : c.crit = true → c.plen = 0 ∨ (Config.sha256 c.buf).toNat = beNat (slice c.entry 0x20 32)

/-- One lane of DISP (R73): codes of up to k experts from the ranks of a lane in order, with e experts of c slots, and
the counters after. -/
def dispLane (e c : Nat) : Nat → List Nat → (Nat → Nat) → List Nat × (Nat → Nat)
  | 0, _, n => ([], n)
  | _, [], n => ([], n)
  | k + 1, x :: xs, n =>
    if x < e ∧ n x < c then
      let r := dispLane e c k xs (fun y => if y = x then n x + 1 else n y)
      ((x * c + n x) % 2 ^ 32 :: r.1, r.2)
    else dispLane e c (k + 1) xs n

/-- The lanes of DISP in increasing order: each lane with its codes, and the counters after. -/
def dispLanes (e c k : Nat) (ranks : Nat → List Nat) : List Nat → (Nat → Nat) → List (Nat × List Nat) × (Nat → Nat)
  | [], n => ([], n)
  | l :: ls, n =>
    let x := dispLane e c k (ranks l) n
    let r := dispLanes e c k ranks ls x.2
    ((l, x.1) :: r.1, r.2)

end Sys2Proof
end

