-- ==== Sys2Proof/Certificates/Slice0/Obligations.lean ====
section
/-! DEFINITION. The statements about the model, from the numbered rules of the spec, for the provers. -/

open Sys2Proof Sys2Proof.Machine

/-! ## Lane ops (03_scangathen_operations.md) -/

/-- R70, Table 03-10. The float lanes are what the model's element functions give (their arithmetic is stated elsewhere);
integer lanes are stated out. `u` is the word a stochastic rounding draws (R129).
Commands that it has complete, by their own effect: add, sub, mul, fma, laneMin, laneMax. -/
def Obligations.LaneArithmeticResults : Prop :=
  ∀ (st : State) (s : Site) (o : LaneOp), st.dev.sys.railsUp = true → st.dev.siteOk s = true →
    let u (d : Dev) (f l : Nat) : Nat := if o.rnd = 1 then drawn d f l 0 else 0
    let lt := o.lt.toNat
    laneResult (.add s o) st s o (fun d f k l => if 2 ≤ lt then (d.vreg f k o.va.toNat l + d.opB f k o l) % 2 ^ 32
      else (arithLane .add lt o.rnd.toNat (u d f l) (d.vreg f k o.va.toNat l) (d.opB f k o l) (d.vreg f k o.vc.toNat l)).1) ∧
    laneResult (.sub s o) st s o (fun d f k l => if 2 ≤ lt then
        (d.vreg f k o.va.toNat l + (2 ^ 32 - d.opB f k o l % 2 ^ 32)) % 2 ^ 32
      else (arithLane .sub lt o.rnd.toNat (u d f l) (d.vreg f k o.va.toNat l) (d.opB f k o l) (d.vreg f k o.vc.toNat l)).1) ∧
    laneResult (.mul s o) st s o (fun d f k l => if 2 ≤ lt then d.vreg f k o.va.toNat l * d.opB f k o l % 2 ^ 32
      else (arithLane .mul lt o.rnd.toNat (u d f l) (d.vreg f k o.va.toNat l) (d.opB f k o l) (d.vreg f k o.vc.toNat l)).1) ∧
    laneResult (.fma s o) st s o (fun d f k l => if 2 ≤ lt then
        (d.vreg f k o.va.toNat l * d.opB f k o l + d.vreg f k o.vc.toNat l) % 2 ^ 32
      else (arithLane .fma lt o.rnd.toNat (u d f l) (d.vreg f k o.va.toNat l) (d.opB f k o l) (d.vreg f k o.vc.toNat l)).1) ∧
    laneResult (.laneMin s o) st s o (fun d f k l =>
      let a := d.vreg f k o.va.toNat l
      let b := d.opB f k o l
      if 2 ≤ lt then (if intLane lt b < intLane lt a then b else a) else (maxLane false lt a b).1) ∧
    laneResult (.laneMax s o) st s o (fun d f k l =>
      let a := d.vreg f k o.va.toNat l
      let b := d.opB f k o l
      if 2 ≤ lt then (if intLane lt a < intLane lt b then b else a) else (maxLane true lt a b).1)

/-- Table 03-10; the reserved sub-functions of LANEID and SHUF are rejected at load (R81).
Commands that it has complete, by their own effect: neg, laneAnd, laneOr, laneXor, shl, shr, sel, movi, laneid, shuf. -/
def Obligations.LaneWordResults : Prop :=
  ∀ (st : State) (s : Site) (o : LaneOp), st.dev.sys.railsUp = true → st.dev.siteOk s = true →
    laneResult (.neg s o) st s o (fun d f k l =>
      let a := d.vreg f k o.va.toNat l
      if o.lt = 0 then Nat.xor a 0x80000000 else if o.lt = 1 then Nat.xor a 0x80008000
      else (2 ^ 32 - a % 2 ^ 32) % 2 ^ 32) ∧
    laneResult (.laneAnd s o) st s o (fun d f k l => Nat.land (d.vreg f k o.va.toNat l) (d.opB f k o l)) ∧
    laneResult (.laneOr s o) st s o (fun d f k l => Nat.lor (d.vreg f k o.va.toNat l) (d.opB f k o l)) ∧
    laneResult (.laneXor s o) st s o (fun d f k l => Nat.xor (d.vreg f k o.va.toNat l) (d.opB f k o l)) ∧
    laneResult (.shl s o) st s o (fun d f k l => d.vreg f k o.va.toNat l * 2 ^ (d.opB f k o l % 32) % 2 ^ 32) ∧
    laneResult (.shr s o) st s o (fun d f k l =>
      if o.lt = 2 then ofSigned 32 (ashr (toSigned 32 (d.vreg f k o.va.toNat l)) (d.opB f k o l % 32))
      else d.vreg f k o.va.toNat l / 2 ^ (d.opB f k o l % 32)) ∧
    laneResult (.sel s o) st s o (fun d f k l =>
      if d.preg f k o.pd.toNat l then d.vreg f k o.va.toNat l else d.opB f k o l) ∧
    laneResult (.movi s o) st s o (fun _ _ _ _ => o.imm.toNat) ∧
    (o.sub.toNat < 3 → laneResult (.laneid s o) st s o (fun _ f k l =>
      if o.sub = 0 then l else if o.sub = 1 then k else f)) ∧
    (o.sub.toNat < 2 → laneResult (.shuf s o) st s o (fun d f k l => d.vreg f k o.va.toNat
      (if o.sub = 0 then (l + o.imm.toNat) % 512 else Nat.xor l (o.imm.toNat % 512))))

/-- Table 03-10, R71, R128; reserved sub-functions are rejected at load (R81).
Commands that it has complete, by their own effect: cvt, sfu, red, rand. -/
def Obligations.LaneConversionsAndFunctions : Prop :=
  ∀ (st : State) (s : Site) (o : LaneOp), st.dev.sys.railsUp = true → st.dev.siteOk s = true →
    (o.sub.toNat < 2 → laneResult (.cvt s o) st s o (fun d f k l =>
      (cvtLane o.sub.toNat o.lt.toNat o.fo.toNat o.rnd.toNat (if o.rnd = 1 then drawn d f l 0 else 0) o.sat
        (d.vreg f k o.va.toNat l)).1)) ∧
    (o.sub.toNat < 6 → laneResult (.sfu s o) st s o (fun d f k l => (sfuLane o.sub.toNat (d.vreg f k o.va.toNat l)).1)) ∧
    (o.sub.toNat < 4 → laneResult (.red s o) st s o (fun d f k _ =>
      let val (l : Nat) : Nat := if o.lt = 0 then asRead 0 (d.vreg f k o.va.toNat l) else d.vreg f k o.va.toNat l
      if o.sub = 3 then argmax o.lt.toNat ((d.lanesIn f k o).map fun l => (l, val l))
      else nth (redTree o.sub.toNat o.lt.toNat 9 1 ((List.range 512).map fun l =>
        if d.guardIn f k o.ge o.gn o.pg.toNat l then val l else redIdent o.sub.toNat o.lt.toNat)).1 0)) ∧
    (let d := atIssue st.dev s.c 3
     let k := threadOf st.dev s.c o.pin o.pctx
     ∃ t, exec (.rand s o) st = .next t ∧ t.pending = st.pending ∧ ∀ f ∈ siteFacets s, d.lanesIn f k o ≠ [] →
      onItsWay t.dev s.c (cycleOf st.dev s.c + 16)
        (.lane f k 0 ((d.lanesIn f k o).flatMap fun l => (List.range 4).map fun j =>
          ((o.vd.toNat + j) * 512 + l, drawn d f l j)) []))

/-- Table 03-10. `c` is the comparison and `un` whether an operand is a NaN.
Commands that it has complete, by their own effect: cmp, plog. -/
def Obligations.LanePredicateResults : Prop :=
  ∀ (st : State) (s : Site) (o : LaneOp), st.dev.sys.railsUp = true → st.dev.siteOk s = true →
    (o.sub ≠ 7 → predResult (.cmp s o) st s o (fun d f k l =>
      let a := d.vreg f k o.va.toNat l
      let b := d.opB f k o l
      let c : Int := if o.lt = 0 then eCmp (readF32 a).1 (readF32 b).1 else intLane o.lt.toNat a - intLane o.lt.toNat b
      let un : Bool := o.lt = 0 && ((readF32 a).1.isNan || (readF32 b).1.isNan)
      match o.sub.toNat with
      | 0 => !un && c == 0
      | 1 => un || c != 0
      | 2 => !un && decide (c < 0)
      | 3 => !un && decide (c ≤ 0)
      | 4 => !un && decide (0 < c)
      | 5 => !un && decide (0 ≤ c)
      | _ => un)) ∧
    (o.sub.toNat < 4 → predResult (.plog s o) st s o (fun d f k l =>
      let a := d.preg f k (o.va.toNat % 16) l
      let b := d.preg f k (o.vb.toNat % 16) l
      match o.sub.toNat with
      | 0 => a && b
      | 1 => a || b
      | 2 => a != b
      | _ => a && !b))

/-- R72, R73, R145, R384. `old` is the list before, best first, as it is read (R99, R104).
Commands that it has complete, by their own effect: topk, disp, dclr. -/
def Obligations.LaneListResults : Prop :=
  ∀ (st : State) (s : Site) (o : LaneOp), st.dev.sys.railsUp = true → st.dev.siteOk s = true →
    let d := atIssue st.dev s.c 3
    let k := threadOf st.dev s.c o.pin o.pctx
    let m := o.m1.toNat + 1
    (∃ t, exec (.topk s o) st = .next t ∧ t.pending = st.pending ∧ ∀ f ∈ siteFacets s, d.lanesIn f k o ≠ [] →
      onItsWay t.dev s.c (cycleOf st.dev s.c + 16) (.lane f k 0 ((d.lanesIn f k o).flatMap fun l =>
        let old := (List.range m).map fun j =>
          (asRead 0 (d.vreg f k (o.vd.toNat + j) l), d.vreg f k (o.vd.toNat + m + j) l)
        let new := (rankIn (asRead 0 (d.vreg f k o.va.toNat l), d.opB f k o l) old).take m
        (List.range m).flatMap fun j => [((o.vd.toNat + j) * 512 + l, (new.getD j (0, 0)).1),
          ((o.vd.toNat + m + j) * 512 + l, (new.getD j (0, 0)).2)]) [])) ∧
    (∃ t, exec (.disp s o) st = .next t ∧ t.pending = st.pending ∧ ∀ f ∈ siteFacets s,
      let n := o.sub.toNat + 1
      let w := dispLanes (o.imm.toNat % 2048) (o.imm.toNat / 2048 % 65536) n
        (fun l => (List.range (if o.pol then m else n)).map fun j => d.vreg f k (o.va.toNat + j) l)
        (d.lanesIn f k o) (fun x => d.dcnt.get (f * 1024 + x))
      (o.imm.toNat % 2048 ≤ 1024 → ∀ x, x < 1024 → t.dev.dcnt.get (f * 1024 + x) = w.2 x) ∧
      (o.imm.toNat % 2048 ≤ 1024 → d.lanesIn f k o ≠ [] → onItsWay t.dev s.c (cycleOf st.dev s.c + 16)
        (.lane f k 0 (w.1.flatMap fun y => (List.range n).map fun j =>
          ((o.vd.toNat + j) * 512 + y.1, y.2.getD j 0xFFFFFFFF)) []))) ∧
    (∃ t, exec (.dclr s o) st = .next t ∧ t.pending = st.pending ∧
      ∀ f ∈ siteFacets s, ∀ x, x < 1024 → t.dev.dcnt.get (f * 1024 + x) = 0)

/-- Table 03-11. What CSET, CIDX and CFLAG sample is what stands at the end of their cycle, `e`.
Commands that it has complete, by their own effect: cset, cidx, cflag, conditionWrite. -/
def Obligations.ConditionWrites : Prop :=
  ∀ (st : State) (s : Site) (o : LaneOp), st.dev.sys.railsUp = true → st.dev.siteOk s = true →
    let k := threadOf st.dev s.c o.pin o.pctx
    let e := st.dev.oneOp s.c 4 fun i w => siteEach s (countLane i o 0x1A) w
    let x := st.dev.oneOp s.c 4 fun i w => siteEach s (countLane i o 0x1B) w
    let y := st.dev.oneOp s.c 4 fun i w => siteEach s (countLane i o 0x1C) w
    let b := o.imm.toNat % 2
    (o.sub.toNat < 2 → ∃ t, exec (.cset s o) st = .next t ∧ t.pending = st.pending ∧
      onItsWay t.dev s.c (cycleOf st.dev s.c + 24) (.cond o.cn.toNat (2 ^ b) (b2n (if o.sub = 0 then
          (siteFacets s).any fun f => (e.lanesIn f k o).any fun l => e.preg f k o.pd.toNat l
        else (siteFacets s).all fun f => (e.lanesIn f k o).all fun l => e.preg f k o.pd.toNat l) * 2 ^ b))) ∧
    (o.sub = 0 → ∀ f, (siteFacets s).head? = some f → ∃ t, exec (.cidx s o) st = .next t ∧ t.pending = st.pending ∧
      onItsWay t.dev s.c (cycleOf st.dev s.c + 24) (.cond o.cn.toNat 3 (min 3 (x.vreg f k o.va.toNat 0)))) ∧
    (o.sub = 1 → ∃ t, exec (.cidx s o) st = .next t ∧ t.pending = st.pending ∧
      onItsWay t.dev s.c (cycleOf st.dev s.c + 2) (.cond o.cn.toNat 3 (o.imm.toNat % 4))) ∧
    (o.sub.toNat < 2 → ∃ t, exec (.cflag s o) st = .next t ∧ t.pending = st.pending ∧
      onItsWay t.dev s.c (cycleOf st.dev s.c + 8) (.cond o.cn.toNat (2 ^ (o.imm.toNat / 256 % 2))
        (b2n ((siteFacets s).any fun f => Nat.land (y.reg (rFctNev f)) (o.imm.toNat % 256) != 0) *
          2 ^ (o.imm.toNat / 256 % 2)))) ∧
    (∀ (c : CtxId) (due after r m v : Nat),
      let x := st.dev.ctx c.h.val c.n.val
      let open_ : Prop := x.idles = true ∧ after = due + 1 ∧ x.cyc ≤ due ∧ (∀ r, x.idleRoom = some r → due + 1 - x.cyc ≤ r)
      let busy : Prop := x.idles = false ∧ after = due ∧ x.cyc = due
      x.inflight = [⟨due, .cond r m v⟩] → open_ ∨ busy →
      ∃ t, exec (.conditionWrite c) st = .next t ∧ t.pending = st.pending ∧ cycleOf t.dev c = after ∧
        (t.dev.ctx c.h.val c.n.val).inflight = [] ∧
        (t.dev.ctx c.h.val c.n.val).conds = x.conds.set r (Nat.lor (Nat.land (x.conds.get r) (3 - m)) (Nat.land v m)))

/-- The frame of Tables 03-9 and 03-10: what a lane op writes is its destination in a later cycle, its generators, its context and what
it reports. R14, R70.
Commands that it has complete, by their own effect: sub, mul, fma, laneMin, laneMax, neg, laneAnd, laneOr, laneXor, shl, shr,
sel, cmp, plog, movi, laneid, cvt, sfu, red, shuf, rand, topk, disp, dclr, cset, cidx, cflag. -/
def Obligations.LaneOpsLeaveTheRest : Prop :=
  ∀ (st : State) (s : Site) (o : LaneOp), st.dev.sys.railsUp = true → (st.dev.ctx s.c.h.val s.c.n.val).inflight = [] →
    ∀ i ∈ [Instr.add s o, .sub s o, .mul s o, .fma s o, .laneMin s o, .laneMax s o, .neg s o, .laneAnd s o, .laneOr s o,
        .laneXor s o, .shl s o, .shr s o, .sel s o, .cmp s o, .plog s o, .movi s o, .laneid s o, .cvt s o, .sfu s o, .red s o,
        .shuf s o, .rand s o, .topk s o, .disp s o, .dclr s o, .cset s o, .cidx s o, .cflag s o],
      ∃ t, exec i st = .next t ∧ t.pending = st.pending ∧
        let d := st.dev
        let e := t.dev
        (e.ls = d.ls ∧ e.rim = d.rim ∧ e.istore = d.istore ∧ e.mem = d.mem) ∧
        (e.vregs = d.vregs ∧ e.pregs = d.pregs ∧ e.aregs = d.aregs ∧ e.accs = d.accs ∧ e.pds = d.pds ∧ e.pvs = d.pvs ∧
          e.wds = d.wds ∧ e.cells = d.cells ∧ e.box = d.box) ∧
        (e.parts = d.parts ∧ e.cus = d.cus ∧ e.ing = d.ing ∧ e.brv = d.brv ∧ e.psv = d.psv) ∧
        (i ≠ .disp s o → i ≠ .dclr s o → e.dcnt = d.dcnt)

/-- R76; lg = 11 and esz = 11 are rejected at load (R81). `half` is the part of the register a 16-bit element takes.
Commands that it has complete, by their own effect: ldv, stv, ldb, stdc. -/
def Obligations.LoadStoreResults : Prop :=
  ∀ (st : State) (s : Site) (o : LsOp) (q : StdcOp), st.dev.sys.railsUp = true → st.dev.siteOk s = true →
    let d := atIssue st.dev s.c 3
    let k := threadOf st.dev s.c o.pin o.pctx
    let sz := 2 ^ o.esz.toNat
    let half := if o.esz = 1 then (if o.hi then 2 else 1) else 0
    let addr (f : Nat) : Nat := d.laAddr f o.la / sz * sz
    (∃ t, exec (.ldv s o) st = .next t ∧ t.pending = st.pending ∧ ∀ f ∈ siteFacets s, d.lsLanes f k o ≠ [] →
      onItsWay t.dev s.c (cycleOf st.dev s.c + 16) (.lane f k half ((d.lsLanes f k o).map fun x =>
        (o.vr.toNat * 512 + x.2, leNat ((List.range sz).map fun b => d.lsByte f (addr f + (x.1 * sz + b))))) [])) ∧
    (∃ t, exec (.ldb s o) st = .next t ∧ t.pending = st.pending ∧ ∀ f ∈ siteFacets s, d.lsLanes f k o ≠ [] →
      onItsWay t.dev s.c (cycleOf st.dev s.c + 16) (.lane f k half ((d.lsLanes f k o).map fun x =>
        (o.vr.toNat * 512 + x.2, leNat ((List.range sz).map fun b => d.lsByte f (addr f + b)))) [])) ∧
    (o.lg.toNat < 3 → ∃ t, exec (.stv s o) st = .next t ∧ t.pending = st.pending ∧ ∀ f ∈ siteFacets s,
      onItsWay t.dev s.c (cycleOf st.dev s.c + 4)
        (.store f 3 (st.dev.ctx s.c.h.val s.c.n.val).bidx (addr f) (sz * (if o.lg = 2 then 512 else 256))
          ((d.lsLanes f k o).flatMap fun x => placeBytes (addr f + x.1 * sz)
            (leBytes sz (if half = 2 then d.vreg f k o.vr.toNat x.2 / 65536 else d.vreg f k o.vr.toNat x.2))))) ∧
    (∃ t, exec (.stdc s q) st = .next t ∧ t.pending = st.pending ∧ ∀ f ∈ siteFacets s,
      onItsWay t.dev s.c (cycleOf st.dev s.c + 4)
        (.store f 3 (st.dev.ctx s.c.h.val s.c.n.val).bidx (d.laAddr f q.la) 1024 (placeBytes (d.laAddr f q.la)
          ((List.range 512).flatMap fun j => leBytes 2 (d.dcnt.get (f * 1024 + 512 * b2n q.half + j))))))

/-- R60: an explicit write replaces the register's value. The whole array of address registers after is given.
Commands that it has complete, by their own effect: amov, aadd, amul, afromv, tbset. -/
def Obligations.AddressRegisterWrites : Prop :=
  ∀ (st : State) (s : Site) (o : AregOp) (q : AfromvOp) (b : TbsetOp), st.dev.sys.railsUp = true → st.dev.siteOk s = true →
    let d := atIssue st.dev s.c 3
    let wr (ad : Nat) (v : Nat → Nat) : NatMap :=
      (siteFacets s).foldl (fun m f => m.set (f * 32 + ad) (v f % 2 ^ 48)) st.dev.aregs
    (∃ t, exec (.amov s o) st = .next t ∧ t.pending = st.pending ∧ t.dev.aregs = wr o.ad.toNat fun _ => o.imm.toNat) ∧
    (∃ t, exec (.aadd s o) st = .next t ∧ t.pending = st.pending ∧
      t.dev.aregs = wr o.ad.toNat fun f => st.dev.areg f o.src.toNat + o.imm.toNat) ∧
    (∃ t, exec (.amul s o) st = .next t ∧ t.pending = st.pending ∧
      t.dev.aregs = wr o.ad.toNat fun f => st.dev.areg f o.src.toNat * o.imm.toNat) ∧
    (∃ t, exec (.afromv s q) st = .next t ∧ t.pending = st.pending ∧
      t.dev.aregs = wr q.ad.toNat fun f => d.vreg f (threadOf st.dev s.c q.pin q.pctx) q.vr.toNat q.lane.toNat) ∧
    (∃ t, exec (.tbset s.c b) st = .next t ∧ t.pending = st.pending ∧
      (t.dev.ctx s.c.h.val s.c.n.val).tb = (st.dev.ctx s.c.h.val s.c.n.val).tb.set b.r.toNat b.value.toNat)

/-- R77, R78; `n` bytes, no lookup of the staging cache meeting an error (R178); a far-tier destination is refused (R180), which `refuse` covers with R16 and R170.
Commands that it has complete, by their own effect: xld, xst. -/
def Obligations.CopyLaunches : Prop :=
  ∀ (st : State) (s : Site) (o : XldOp), st.dev.sys.railsUp = true → st.dev.siteOk s = true →
    let d := atIssue st.dev s.c 3
    let x := st.dev.ctx s.c.h.val s.c.n.val
    let n := if o.len = 0 then 65536 else o.len.toNat
    let loc (f : Nat) : Nat := lsView f + d.laAddr f o.la
    let far (f : Nat) : Nat := d.areg f o.ga.toNat
    ((d.ctx s.c.h.val s.c.n.val).onTag o.tag.toNat).length + (siteFacets s).length ≤ 4095 →
    ((∀ f ∈ siteFacets s, d.refuse x.part [⟨far f, n, false⟩, ⟨loc f, n, true⟩] = none) →
      ∃ t, exec (.xld s o []) st = .next t ∧ t.pending = st.pending ∧ ∀ f ∈ siteFacets s, ∃ r,
        r ∈ (t.dev.ctx s.c.h.val s.c.n.val).requests ∧ r.tag = o.tag.toNat ∧ r.kind = .copy ∧
        r.pieces = piecesOf (far f) [loc f] n ∧ r.allocate = o.alloc ∧ r.failed = false ∧ r.bidx = x.bidx) ∧
    ((∀ f ∈ siteFacets s, d.refuse x.part [⟨loc f, n, false⟩, ⟨far f, n, true⟩] = none) →
      ∃ t, exec (.xst s o) st = .next t ∧ t.pending = st.pending ∧ ∀ f ∈ siteFacets s, ∃ r,
        r ∈ (t.dev.ctx s.c.h.val s.c.n.val).requests ∧ r.tag = o.tag.toNat ∧ r.kind = .copy ∧
        r.pieces = piecesOf (loc f) [far f] n ∧ r.allocate = false ∧ r.failed = false ∧ r.bidx = x.bidx)

/-- Table 03-14, R67, R68, R156; v = 11 of PVLD is rejected at load (R81). The source facet of MOVE must be enabled.
Commands that it has complete, by their own effect: pcfg, pvld, move, fill, wcfg. -/
def Obligations.MoveFillConfigure : Prop :=
  ∀ (st : State) (s : Site) (m : MoveOp) (l : FillOp) (w : WcfgOp) (p : PcfgOp) (v : PvldOp), st.dev.sys.railsUp = true →
    st.dev.siteOk s = true →
    let d := atIssue st.dev s.c 4
    let e := atIssue st.dev s.c 0
    let bidx := (st.dev.ctx s.c.h.val s.c.n.val).bidx
    let local64 (f a : Nat) : Nat := d.areg f a % 2 ^ 21 / 64 * 64
    (∃ t, exec (.move s m) st = .next t ∧ t.pending = st.pending ∧ ∀ f ∈ siteFacets s, ∀ g, moveFrom m f = some g →
      s.fmask.getLsbD (g % 16) = true → onItsWay t.dev s.c (cycleOf st.dev s.c + 4)
        (.store f 4 bidx (local64 f m.ad.toNat) 128 (placeBytes (local64 f m.ad.toNat)
          ((List.range 128).map fun j => d.lsByte g (local64 f m.src.toNat + j))))) ∧
    (∃ t, exec (.fill s l) st = .next t ∧ t.pending = st.pending ∧ ∀ f ∈ siteFacets s,
      onItsWay t.dev s.c (cycleOf st.dev s.c + 4) (.store f 4 bidx (local64 f l.ad.toNat) 128
        (placeBytes (local64 f l.ad.toNat) ((List.range 32).flatMap fun _ => leBytes 4 l.pattern.toNat)))) ∧
    (∃ t, exec (.wcfg s w) st = .next t ∧ t.pending = st.pending ∧ ∀ f ∈ siteFacets s,
      let bs := (List.range 64).map fun j => d.lsByte f (local64 f w.src.toNat + j)
      wcfgBad (leNat bs) = false → onItsWay t.dev s.c (cycleOf st.dev s.c + 2) (.wedgeDesc f w.d.toNat bs)) ∧
    (∃ t, exec (.pcfg s p) st = .next t ∧ t.pending = st.pending ∧ ∀ f ∈ siteFacets s,
      let bs := (List.range 64).map fun j => e.lsByte f (e.laAddr f p.la / 64 * 64 + j)
      pdBad (leNat bs) = false → onItsWay t.dev s.c (cycleOf st.dev s.c + 2) (.prismDesc f p.d.toNat bs)) ∧
    (v.v ≠ 3 → ∃ t, exec (.pvld s v) st = .next t ∧ t.pending = st.pending ∧ ∀ f ∈ siteFacets s,
      onItsWay t.dev s.c (cycleOf st.dev s.c + 2) (.prismVec f v.v.toNat v.half ((List.range 64).map fun j =>
        leNat ((List.range 4).map fun b => e.lsByte f (e.laAddr f v.la / 64 * 64 + (4 * j + b))))))

/-- R63, R65, R68. The operands of the 8-bit case are read at LA aligned to 64 bytes, B on the wedge path only where A and B
together exceed 256 B, which two 8-bit operands do not.
Commands that it has complete, by their own effect: mma, drain. -/
def Obligations.PrismIssues : Prop :=
  ∀ (st : State) (s : Site) (o : MmaOp) (q : DrainOp), st.dev.sys.railsUp = true → st.dev.siteOk s = true →
    let d := atIssue st.dev s.c 0
    let i := st.dev.issueOf s.c
    (noWait s (st.dev.mmaWait i o) = true →
      ∃ t, exec (.mma s o) st = .next t ∧ t.pending = st.pending ∧ ∀ f ∈ siteFacets s,
        let a := d.acc f o.acc
        let clr := o.clr && i.first
        ((clr = true ∨ a.intMode = intPair o.fa.toNat o.fb.toNat) →
          (t.dev.acc f o.acc).intMode = intPair o.fa.toNat o.fb.toNat) ∧
        (o.drn = false → o.bs = false → o.sp = false → fmtBits o.fa.toNat = 8 → fmtBits o.fb.toNat = 8 →
          (clr = true ∨ (a.intMode = intPair o.fa.toNat o.fb.toNat ∧ a.sliceA = [] ∧ a.sliceB = [])) →
          ∃ blk L site hs, onItsWay t.dev s.c (i.cyc + 24) (.product f o.acc clr
            [{ blk, fa := o.fa.toNat, fb := o.fb.toNat,
               a := (List.range 128).map fun j => (d.lsByte f (d.laAddr f o.laA / 64 * 64 + j)).toNat,
               b := (List.range 128).map fun j => some (d.lsByte f (d.laAddr f o.laB / 64 * 64 + j)).toNat,
               bs := false }] L site hs))) ∧
    (noWait s (st.dev.drainWait i q) = true →
      ∃ t, exec (.drain s q) st = .next t ∧ t.pending = st.pending ∧ ∀ f ∈ siteFacets s,
        let pd := d.pdesc f q.ddi.toNat
        ∃ j : DrainJob, onItsWay t.dev s.c (i.cyc + 40) (.drainRow j 0) ∧ j.facet = f ∧ j.set = q.acc ∧
          j.dst = d.laAddr f (descLA pd 0) ∧ j.ofmt = pdOfmt pd ∧ j.flags = pdFlags pd ∧
          j.pitch = (if pdPitch pd = 0 then rowBytes (pdOfmt pd) else pdPitch pd) ∧
          j.rs = ((List.range 128).map fun n => d.pvs.get (pvIdx f 0 n)) ∧
          j.cs = ((List.range 128).map fun n => d.pvs.get (pvIdx f 1 n)) ∧
          j.bi = ((List.range 128).map fun n => d.pvs.get (pvIdx f 2 n)) ∧
          ((d.acc f q.acc).chunk = [] → j.base = (d.acc f q.acc).base ∧ j.totals = (d.acc f q.acc).totals ∧
            j.intMode = (d.acc f q.acc).intMode))

/-- R22, R114, R116, R68, R158. Each clause supposes the effect alone on its way, so that nothing else lands with it. `after` is
the context's cycle afterwards: the cycles that an idle context can let pass reach that far (R31, R79, R49).
Commands that it has complete, by their own effect: productLand, drainRowWrite, wedgePassReady. -/
def Obligations.LandingsOfThePrismAndTheWedge : Prop :=
  ∀ (st : State) (c : CtxId) (due after : Nat), st.dev.sys.railsUp = true →
    let x := st.dev.ctx c.h.val c.n.val
    let open_ : Prop := x.idles = true ∧ after = due + 1 ∧ x.cyc ≤ due ∧ (∀ r, x.idleRoom = some r → due + 1 - x.cyc ≤ r)
    let busy : Prop := x.idles = false ∧ after = due ∧ x.cyc = due
    (∀ (f : Nat) (set clr : Bool) (k : KStep) (l : Nat) (site : NevSite) (hs : List NevHit), intPair k.fa k.fb = true →
      x.inflight = [⟨due, .product f set clr [k] l site hs⟩] → open_ ∨ busy →
      ∃ t, exec (.productLand c) st = .next t ∧ t.pending = st.pending ∧ cycleOf t.dev c = after ∧
        (t.dev.ctx c.h.val c.n.val).inflight = [] ∧
        t.dev.accs = alSet AccSet.zero st.dev.accs (f * 2 + b2n set) ({ (if clr then (st.dev.acc f set).clear else
          st.dev.acc f set) with kcnt := (if clr then (st.dev.acc f set).clear else st.dev.acc f set).kcnt + 1 }.addInt k)) ∧
    (∀ (j : DrainJob) (r : Nat), r < 127 → bits j.flags 5 4 ≠ 1 →
      x.inflight = [⟨due, .drainRow j r⟩] → open_ →
      ∃ t, exec (.drainRowWrite c) st = .next t ∧ t.pending = st.pending ∧ cycleOf t.dev c = after ∧
        (∃ seen, onItsWay t.dev c (due + 1) (.drainRow { j with seen } (r + 1))) ∧
        t.dev.ls = (st.dev.lsWrite j.facet (placeBytes (j.rowAddr r) (packBytes (fmtBits j.ofmt)
          ((List.range 128).map fun n => (convert j.ofmt .even (bit j.flags 3) (readF32 (j.value r n).1).1).code)))).ls) ∧
    (∀ (f : FacetN) (w : WedgeTile) (cell : WedgeCell), f.val / 128 = c.h.val →
      (∀ n, n < 8 → n ≠ c.n.val → (st.dev.ctx c.h.val n).inflight = []) →
      x.inflight = [⟨due, .wedgeReady f.val⟩] → open_ ∨ busy →
      st.dev.cell f.val = cell → cell.tiles = [w] → w.out = [] →
      ∃ t, exec (.wedgePassReady f) st = .next t ∧ t.pending = st.pending ∧ cycleOf t.dev c = after ∧
        (t.dev.cell f.val).tiles = [{ w with out := (st.dev.wedgeOut f.val w).1 }])

/-- R157, R159, R161. The facets' cells are independent: each facet of the site is stated by itself.
Commands that it has complete, by their own effect: wedge, box. -/
def Obligations.WedgeAndBoxSteps : Prop :=
  ∀ (st : State) (s : Site) (o : WedgeOp) (dn : BitVec 3), st.dev.sys.railsUp = true → st.dev.siteOk s = true →
    let d := atIssue st.dev s.c 4
    let i := st.dev.issueOf s.c
    (∃ t, exec (.wedge s o) st = .next t ∧ t.pending = st.pending ∧ ∀ f ∈ siteFacets s,
      let a := d.cell f
      wdKind (d.wdesc f o.d.toNat) ≠ 1 →
        (o.ph = false → (a.cur.isSome = true ∨ (a.tiles.any fun x => x.buf == a.pass % 2) = false) →
          let v := (match a.cur with | some x => x.desc | none => d.wdesc f o.d.toNat)
          let b := (match a.cur with | some x => x.block | none => bits (d.areg f o.ar.toNat) 39 32)
          if a.step + 1 < wdSteps v then (t.dev.cell f).pass = a.pass ∧ (t.dev.cell f).step = a.step + 1
          else (t.dev.cell f).pass = a.pass + 1 ∧ (t.dev.cell f).step = 0 ∧ (t.dev.cell f).cur = none ∧
            (wdCh v b ≠ 0 → onItsWay t.dev s.c (i.cyc + 20) (.wedgeReady f))) ∧
        (o.ph = true → ∀ x rest r, a.tiles = x :: rest → x.ready = some r → r ≤ i.cyc →
          t.dev.cell f = { a with tiles := if wdWrites x.desc x.block ≤ x.written + 1 then rest
            else { x with written := x.written + 1 } :: rest })) ∧
    (∀ f fs, siteFacets s = f :: fs → st.dev.holdsBox i.p s.c.h.val = true → d.boxJob s.c.h.val = none →
      wdKind (d.wdesc f dn.toNat) ≠ 0 →
      (∀ k, k < 4 → d.holds i.p (s.c.h.val * 8 + bits (wdAt (d.wdesc f dn.toNat) (0x10 + k) 1) 6 4) = true) →
      1 < bxSteps (d.wdesc f dn.toNat) →
      ∃ t j, exec (.box s dn) st = .next t ∧ t.pending = st.pending ∧ t.dev.boxJob s.c.h.val = some j ∧ j.done = 1 ∧
        j.d = dn.toNat ∧ j.slot = s.slot.val ∧ j.facet = f ∧ j.desc = d.wdesc f dn.toNat)

/-! ## Sequencer (01_hemispheres.md, 02_scangathen_bundle.md, 04_hinges.md) -/

/-- R39, R42, R43, R48, R54. A fatal error of the issue stops the context instead of step 4, so the successor is stated of
a context that still runs. `agentActs` begins the hemisphere cycle that the issue stands in (log 90); stalls of the
hemisphere pass no cycle of the context (R31).
Commands that it has complete, by their own effect: bundleIssue, hinge. -/
def Obligations.BundleIssueAdvances : Prop :=
  ∀ (st : State) (c : CtxId), st.dev.sys.railsUp = true → st.dev.moves c = true →
    let h := c.h.val
    let n := c.n.val
    let x := st.dev.ctx h n
    let hd := decHeader (st.dev.bundle h n)
    let left := if x.phase = .issuing then x.rptLeft else hd.rpt
    (x.phase = .issuing ∨ (x.phase = .boundary ∧ st.dev.stepOneDone h n = true ∧ st.dev.atSavePoint h n = false ∧
      st.dev.atBreakpoint h n = false ∧ bundleCrc (st.dev.bundle h n) = hd.chk)) →
    (st.dev.agentActs h n).spanBlocked h n hd = false →
    ∃ t, exec (.bundleIssue c false []) st = .next t ∧ t.pending = st.pending ∧
      let y := t.dev.ctx h n
      y.icount = x.icount + 1 ∧ y.cyc = x.cyc + 1 ∧
      (left ≠ 0 → y.phase = .issuing ∧ y.rptLeft = left - 1 ∧ y.bidx = x.bidx) ∧
      (left = 0 → y.state = .running → hd.lop = 0 → x.dhalt = false →
        (hd.hsel = 1 → y.phase = .hinge) ∧
        (hd.hsel = 2 → hd.hinge % 16 = 2 → y.phase = .haltDue) ∧
        (hd.hsel = 2 → hd.hinge % 16 ≠ 2 → y.phase = .boundary ∧ y.bidx = bits hd.hinge 16 4) ∧
        (hd.hsel = 0 → ∀ e es, x.loops = e :: es → e.last = x.bidx → 1 < e.left →
          y.phase = .boundary ∧ y.bidx = e.first ∧ y.loops = { e with left := e.left - 1 } :: es) ∧
        (hd.hsel = 0 → x.loops = [] → x.hinges = [] → y.phase = .boundary ∧ y.bidx = st.dev.seqNext h n x.bidx))

/-- R83, R84, R88, R89, R92. `s` is the branch-table entry that the sampled value selects; bit 26 says it is valid, bit 27
that its branch is empty.
R54, R90. The context still stands at its place, and its program completes elsewhere (R54). The open hinges are those of
the stack and the one whose JOIN waits; a wait at a span fence stalls the hemisphere and passes no cycle of the context.
Commands that it has complete, by their own effect: hinge, closedHingePad, openHingeAlign, hingeBound, halt. -/
def Obligations.HingesAndHalts : Prop :=
  (∀ (st : State) (c : CtxId), st.dev.sys.railsUp = true → st.dev.moves c = true →
     let h := c.h.val
     let n := c.n.val
     let x := st.dev.ctx h n
     let hd := decHeader (st.dev.bundle h n)
     let tab := st.dev.reg (rCtxBtab h n (bits hd.hinge 15 8))
     let s := bits tab (32 * x.sample + 31) (32 * x.sample)
     x.dhalt = false →
     (x.phase = .hinge → bit s 26 = true → bit s 27 = false → x.hinges.length < 4 →
       ∃ t, exec (.hinge c) st = .next t ∧ t.pending = st.pending ∧
         let y := t.dev.ctx h n
         y.state = .running ∧ y.phase = .boundary ∧ y.bidx = bits s 12 0 ∧ y.cyc = x.cyc ∧ y.icount = x.icount ∧
         ∃ e, y.hinges = e :: x.hinges ∧ e.isOpen = bit hd.hinge 4 ∧ e.align16 = bit tab 145 ∧ e.sel = x.sample ∧
           e.phase = x.icount % 16 ∧ e.last = bits s 25 13 ∧ e.join = bits tab 144 132 ∧ e.len = bits tab 191 160 ∧
           e.elapsed = 0 ∧ e.bidx = x.bidx ∧ e.inbr = true ∧ e.bflt = false ∧ e.begun = false) ∧
     (∀ e es, x.phase = .padClosed → x.hinges = e :: es → e.isOpen = false → e.elapsed ≤ e.len → e.len < 2 ^ 32 →
       ∃ t, exec (.closedHingePad c) st = .next t ∧ t.pending = st.pending ∧
         let y := t.dev.ctx h n
         y.phase = .boundary ∧ y.bidx = e.join ∧ y.icount = x.icount + (e.len - e.elapsed) ∧
         y.cyc = x.cyc + (e.len - e.elapsed) ∧ y.hinges.length = es.length) ∧
     (∀ e es, x.phase = .padOpen → x.hinges = e :: es → e.isOpen = true → e.align16 = true → e.phase < 16 →
       ∃ t, exec (.openHingeAlign c) st = .next t ∧ t.pending = st.pending ∧
         let y := t.dev.ctx h n
         y.phase = .boundary ∧ y.bidx = e.join ∧ y.icount = x.icount + (e.phase + 16 - x.icount % 16) % 16 ∧
         y.icount % 16 = e.phase ∧ y.hinges.length = es.length)) ∧
  ∀ (st : State) (c : CtxId), st.dev.sys.railsUp = true → st.dev.moves c = true →
    let h := c.h.val
    let n := c.n.val
    let x := st.dev.ctx h n
    (x.phase = .haltDue → x.requests = [] → x.streams = [] → x.inflight = [] →
      ∃ t, exec (.halt c) st = .next t ∧ t.pending = st.pending ∧
        t.dev.ctx h n = { x with state := .halted, phase := .boundary }) ∧
    (∀ e, x.firstBound = some e → e.len - e.elapsed ≤ st.dev.waitRoom h n →
      ∃ t, exec (.hingeBound c) st = .next t ∧ t.pending = st.pending ∧
        let y := t.dev.ctx h n
        y.cyc = x.cyc + (if x.phase = .fenceWait then 0 else e.len - e.elapsed) ∧ y.icount = x.icount ∧ y.bidx = x.bidx ∧
        y.bounds.length = x.bounds.length ∧
        ∀ g ∈ y.bounds, g.isOpen = true → g.begun = true → g.len ≤ g.elapsed → g.bflt = true)

/-- R24, R26, R27, R28, R31. Each clause is the command's own effect: none of them is turned away. `passed` is the context
after its fence has consumed a token; `fencePasses` the outcome of a command that makes it pass.
Commands that it has complete, by their own effect: spanFullStall, spanTokenArrive, spanFenceWait, spanFencePass. -/
def Obligations.SpanTokensAndFences : Prop :=
  ∀ (st : State) (c : CtxId), st.dev.sys.railsUp = true →
    let h := c.h.val
    let n := c.n.val
    let x := st.dev.ctx h n
    let id := st.dev.fenceId h n
    let held := x.tokens.get id
    let passed : Ctx := { x with tokens := x.tokens.set id (held - 1), spanDone := true, phase := .boundary, waited := 0,
                                 late := false }
    let fencePasses (o : Host.Outcome State Fault Refusal) : Prop :=
      (∃ t, o = .next t ∧ t.pending = st.pending ∧ (t.dev.ctx h n).tokens = passed.tokens ∧
        (t.dev.ctx h n).spanDone = true ∧ (t.dev.ctx h n).phase = .boundary ∧ (t.dev.ctx h n).waited = 0 ∧
        (t.dev.ctx h n).late = false ∧ (t.dev.ctx h n).icount = x.icount ∧ (t.dev.ctx h n).cyc = x.cyc) ∧
      ((∀ r ∈ st.dev.allRequests, ∀ q ∈ r.r.pieces, q.crosses = false) → o = .next (withDev st (st.dev.setCtx h n passed)))
    (∀ e es tok, st.dev.spanTo h = e :: es → e.tokens = [tok] → st.dev.ctxNum tok.part h = some n → x.part = tok.part →
      ∃ t, exec (.spanTokenArrive c.h) st = .next t ∧ t.pending = st.pending ∧ t.dev.spanTo h = es ∧
        (x.tokens.get tok.tsid < 15 →
          (t.dev.ctx h n).tokens = x.tokens.set tok.tsid (x.tokens.get tok.tsid + 1) ∧
          (e.data = [] → t = withDev st (((st.dev.setSpanTo h es).setHemi (1 - h) { st.dev.hemi (1 - h) with
            full := false }).setCtx h n { x with tokens := x.tokens.set tok.tsid (x.tokens.get tok.tsid + 1) }))) ∧
        (15 ≤ x.tokens.get tok.tsid → tok.part < 16 → t.dev.partFatal tok.part = true)) ∧
    (st.dev.moves c = true → st.dev.beforeFence h n = true → st.dev.filled h n = true →
      (held = 0 → x.phase ≠ .fenceWait → exec (.spanFenceWait c) st = .next (withDev st (st.dev.setCtx h n
        { x with phase := .fenceWait, waited := 0, late := false }))) ∧
      (held = 0 → x.phase = .fenceWait → exec (.spanFenceWait c) st = .next st) ∧
      (held ≠ 0 → fencePasses (exec (.spanFenceWait c) st))) ∧
    (st.dev.moves c = true → x.phase = .fenceWait → held ≠ 0 → fencePasses (exec (.spanFencePass c) st)) ∧
    (st.dev.moves c = true → (x.phase = .issuing ∨ st.dev.stepOneDone h n = true) →
      st.dev.spanBlocked h n (decHeader (st.dev.bundle h n)) = true →
      ∃ t, exec (.spanFullStall c) st = .next t ∧ t.pending = st.pending ∧
        let y := t.dev.ctx h n
        y.icount = x.icount ∧ y.bidx = x.bidx ∧ y.phase = x.phase ∧ y.spanFull = true ∧
        ∀ m, m < 8 → (t.dev.ctx h m).cyc = (st.dev.ctx h m).cyc ∧ (t.dev.ctx h m).inflight = (st.dev.ctx h m).inflight)

/-- R23, R28, R31, R49. Each clause is the command's own effect. The send that a fence waits for has been counted by the
receiving context's own count, so it stands no later than that. `holds` of PRISM_ORDER_STALL is what the order leaves to
wait once everything due has come about.
Commands that it has complete, by their own effect: spanLate, spanWait, fillWait, prismOrderStall. -/
def Obligations.LateFencesAndFills : Prop :=
  ∀ (st : State) (c : CtxId), st.dev.sys.railsUp = true → st.dev.moves c = true →
    let h := c.h.val
    let n := c.n.val
    let x := st.dev.ctx h n
    let id := st.dev.fenceId h n
    let held := x.tokens.get id
    (x.phase = .fenceWait → held = 0 → x.late = false → st.dev.countsRun x.part = true →
      (∀ k, st.dev.tokenSent h n id = some k → k ≤ x.tclk) →
      ∃ t, exec (.spanLate c) st = .next t ∧ t.pending = st.pending ∧
        let y := t.dev.ctx h n
        y.late = true ∧ y.waited = 0 ∧ y.cyc = x.cyc ∧ y.icount = x.icount ∧
        y.tclk = x.tclk + (st.dev.spanBound h - st.dev.fenceAge h n id)) ∧
    (x.phase = .fenceWait → held = 0 → x.late = true → st.dev.countsRun x.part = true → x.part < 16 →
      st.dev.ctxNum x.part h = some n →
      ∃ t, exec (.spanWait c) st = .next t ∧ t.pending = st.pending ∧ (t.dev.ctx h n).state = .stopped ∧
        t.dev.partFatal x.part = true ∧ (t.dev.ctx h n).tclk = x.tclk + (1048576 - x.waited)) ∧
    ((x.phase = .boundary ∨ x.phase = .fillWait) → st.dev.filled h n = false → st.dev.countsRun x.part = true →
      x.part < 16 → st.dev.ctxNum x.part h = some n →
      ∃ t, exec (.fillWait c) st = .next t ∧ t.pending = st.pending ∧ (t.dev.ctx h n).state = .stopped ∧
        t.dev.partFatal x.part = true) ∧
    (let d := st.dev.settle h n x.cyc
     let holds := d.prismHolds c (d.issueOf c) (d.bundle h n)
     ∀ (f : FacetN) (k : Nat), (x.phase = .issuing ∨ st.dev.stepOneDone h n = true) → (f.val, k) ∈ holds →
      ∃ t, exec (.prismOrderStall c f) st = .next t ∧ t.pending = st.pending ∧
        let y := t.dev.ctx h n
        y.icount = x.icount ∧ y.bidx = x.bidx ∧ y.cyc = x.cyc ∧
        (d.countsRun x.part = true → y.tclk = x.tclk + holds.foldl (fun m e => max m e.2) 0) ∧
        ∀ m, m < 8 → m ≠ n → (t.dev.ctx h m).cyc = (st.dev.ctx h m).cyc ∧
          (t.dev.ctx h m).inflight = (st.dev.ctx h m).inflight)

/-- R45, R50, R54, R57. The context named belongs to its partition: it is the one of its hemisphere.
Commands that it has complete, by their own effect: dhaltReq, breakpointHit, stepBundle, resume, start. -/
def Obligations.DebugPortAndStart : Prop :=
  ∀ (st : State) (c : CtxId), st.dev.sys.railsUp = true →
    let h := c.h.val
    let n := c.n.val
    let x := st.dev.ctx h n
    st.dev.ctxNum x.part h = some n →
    (st.dev.debugOpen = true → x.state = .running → x.phase = .boundary →
      ∃ t, exec (.dhaltReq c) st = .next t ∧ t.pending = st.pending ∧
        t.dev.ctx h n = { x with state := .debugHalted, dhalt := false, stepping := false }) ∧
    (st.dev.moves c = true → st.dev.atBreakpoint h n = true →
      ∃ t, exec (.breakpointHit c) st = .next t ∧ t.pending = st.pending ∧
        t.dev.ctx h n = { x with state := .debugHalted, dhalt := false, stepping := false }) ∧
    (st.dev.debugOpen = true → x.state = .debugHalted →
      exec (.stepBundle c) st = .next (withDev st (Dev.stepCycles c 65540 (st.dev.setCtx h n
        { x with state := .running, dhalt := true, stepping := true, pastBrk := true })))) ∧
    (st.dev.debugOpen = true → x.state = .debugHalted →
      ∃ t, exec (.resume c) st = .next t ∧ t.pending = st.pending ∧
        t.dev.ctx h n = { x with state := .running, dhalt := false, stepping := false, pastBrk := true }) ∧
    ((x.state = .idle ∨ x.state = .halted) →
      ∃ t, exec (.start c) st = .next t ∧ t.pending = st.pending ∧
        let y := t.dev.ctx h n
        y.state = .running ∧ y.phase = .boundary ∧ y.bidx = st.dev.reg (rCtxEntry h n) ∧ y.icount = 0 ∧ y.loops = [] ∧
        y.hinges = [] ∧ y.conds = [] ∧ y.tokens = [] ∧
        ∀ f ∈ st.dev.facetsOf x.part, t.dev.areg f 30 = f % 16 ∧ t.dev.areg f 31 = f ∧ ∀ a, a < 30 → t.dev.areg f a = 0)

/-- R49, R174, R388. `j` is the oldest stream-in, which no repair holds; `y` the device after its read, and the granules that
could not be read. A rejected bundle raises SEQ's partition-fatal record instead.
Commands that it has complete, by their own effect: streamBundleLand, stream. -/
def Obligations.StreamInLandsBundles : Prop :=
  ∀ (st : State) (c : CtxId) (o : StreamOp), st.dev.sys.railsUp = true →
    let h := c.h.val
    let n := c.n.val
    let x := st.dev.ctx h n
    (x.state = .running →
      let d := atIssue st.dev c 4
      let src := d.gaAddr h n o.src
      let a := o.tidx.toNat
      let k := o.count.toNat
      (d.isRange h n).1 ≤ a → a + k ≤ (d.isRange h n).2 → ¬ (a ≤ x.bidx ∧ x.bidx < a + k) → x.loops = [] → 0 < k →
      ∃ t, exec (.stream c o) st = .next t ∧ t.pending = st.pending ∧
        t.dev.fill = alClear st.dev.fill (isKey h a) (isKey h (a + k)) ∧
        (t.dev.ctx h n).streams = (if d.firstBad x.part src (512 * k) = none then
          x.streams ++ [{ src, next := a, left := k }] else x.streams)) ∧
    (∀ j js, x.streams = j :: js → st.dev.chanHeld j.src 512 = false →
      let y := st.dev.readRim 0 j.src 512
      (∀ g gs, y.2 = g :: gs → ∃ t, exec (.streamBundleLand c) st = .next t ∧ t.pending = st.pending ∧
        (t.dev.ctx h n).streams = js ∧ t.dev.fill = st.dev.fill) ∧
      (y.2 = [] →
        let b := leNat (y.1.gread x.part j.src 512)
        let d := { y.1 with istore := y.1.istore.set (isKey h j.next) b }
        streamedReason (d.valCtx x.part h n) b = none →
        exec (.streamBundleLand c) st = .next (withDev st
          (({ d with fill := d.fill.set (isKey h j.next) 1 } : Dev).setCtx h n { x with streams :=
            if j.left ≤ 1 then js else { src := j.src + 512, next := j.next + 1, left := j.left - 1 } :: js }))))

/-! ## Transfers, rim memory, hand-off and Barrov ops (03, 09, 10, 11) -/

/-- R78, R176, R386. The lookups meet no staging error (R178).
Commands that it has complete, by their own effect: pfs, xfer, sdrop. -/
def Obligations.PrefetchesTransfersAndDrops : Prop :=
  ∀ (st : State) (c : CtxId) (o : PfsOp) (x : XferOp), st.dev.sys.railsUp = true →
    let h := c.h.val
    let n := c.n.val
    let k := st.dev.ctx h n
    let d := atIssue st.dev c 4
    k.state = .running →
    (((d.ctx h n).onTag o.tag.toNat).length < 4095 →
      d.refuse k.part [⟨d.gaAddr h n o.src, o.len.toNat, false⟩] = none →
      ∃ t r, exec (.pfs c o []) st = .next t ∧ t.pending = st.pending ∧ r ∈ (t.dev.ctx h n).requests ∧
        r.tag = o.tag.toNat ∧ r.kind = .prefetch (d.gaAddr h n o.src) o.len.toNat ∧ r.failed = false ∧ r.bidx = k.bidx) ∧
    (let src := d.gaAddr h n x.src
     let dsts := if x.bsect = 0 then [d.gaAddr h n x.dst] else
       (namedFacets h x.bsect.toNat x.bfmask.toNat).map fun f => lsView f + d.gaAddr h n x.dst % 2 ^ 21
     ((d.ctx h n).onTag x.tag.toNat).length < 4095 →
      d.refuse k.part (⟨src, x.len.toNat, false⟩ :: dsts.map fun a => ⟨a, x.len.toNat, true⟩) = none →
      ∃ t, exec (.xfer c x []) st = .next t ∧ t.pending = st.pending ∧
        let ps := piecesOf src dsts x.len.toNat
        (ps = [] → (t.dev.ctx h n).requests = k.requests) ∧
        (ps ≠ [] → ∃ r, r ∈ (t.dev.ctx h n).requests ∧ r.tag = x.tag.toNat ∧ r.kind = .copy ∧ r.pieces = ps ∧
          r.failed = false ∧ r.bidx = k.bidx)) ∧
    (k.inflight = [] → ∃ t, exec (.sdrop c o) st = .next t ∧ t.pending = st.pending ∧
      let a := st.dev.gaAddr h n o.src
      let lines := st.dev.mem.lines.map fun (l : StageLine) =>
        if l.line * 256 < a + o.len.toNat ∧ a < l.line * 256 + 256 ∧ st.dev.wayOf (rimHemi (l.line * 256)) l.way k.part = true
        then { l with drop := true } else l
      t.dev.mem = { st.dev.mem with lines })

/-- Table 03-15, R78. The index list is read at the launch (log 93); a copy of no bytes is complete there.
Commands that it has complete, by their own effect: gather, scatter. -/
def Obligations.GathersAndScatters : Prop :=
  ∀ (st : State) (c : CtxId) (o : GatherOp), st.dev.sys.railsUp = true →
    let h := c.h.val
    let n := c.n.val
    let k := st.dev.ctx h n
    let d := atIssue st.dev c 4
    let rsz := o.rsz.toNat
    let rows := if rsz = 0 then 0 else o.len.toNat / rsz
    let src := d.gaAddr h n o.src
    let dst := d.gaAddr h n o.dst
    let ib := d.tbase h n o.ib.toNat
    let idx (r : Nat) : Nat := leNat (d.gread k.part (ib + 4 * r) 4)
    let gat := (List.range rows).map fun r => (src + idx r * rsz, dst + r * rsz)
    let sca := ((List.range rows).filter fun r => idx r != 0xFFFFFFFF).map fun r => (src + r * rsz, dst + idx r * rsz)
    let may (l : List (Nat × Nat)) : Prop :=
      d.refuse k.part ((if isFar ib then [⟨ib, 4 * rows, false⟩] else []) ++
        l.flatMap fun x => [⟨x.1, rsz, false⟩, ⟨x.2, rsz, true⟩]) = none
    let launched (t : State) (l : List (Nat × Nat)) : Prop :=
      let ps := l.flatMap fun x => piecesOf x.1 [x.2] rsz
      (ps = [] → (t.dev.ctx h n).requests = k.requests) ∧
      (ps ≠ [] → ∃ r, r ∈ (t.dev.ctx h n).requests ∧ r.tag = o.tag.toNat ∧
        r.kind = .copy ∧ r.pieces = ps ∧ r.failed = false ∧ r.bidx = k.bidx)
    k.state = .running → ((d.ctx h n).onTag o.tag.toNat).length < 4095 → d.firstBad k.part ib (4 * rows) = none →
      d.ueIn k.part ib (4 * rows) = none →
    (may gat → ∃ t, exec (.gather c o []) st = .next t ∧ t.pending = st.pending ∧ launched t gat) ∧
    (may sca → ∃ t, exec (.scatter c o []) st = .next t ∧ t.pending = st.pending ∧ launched t sca)

/-- R18, R19, R78, R181. `uncounted`: no counter slot counts, so that only the bytes move. Pieces that pass a facet's ports go
through them one port cycle at a time (R17 to R20), which the second clause states.
Commands that it has complete, by their own effect: requestComplete, dmaAccess, farReadFail. -/
def Obligations.RequestsMoveAndComplete : Prop :=
  ∀ (st : State) (c : CtxId) (tag : BitVec 6) (f : FacetN) (r : Request) (q : Piece) (a : Access), st.dev.sys.railsUp = true →
    let h := c.h.val
    let n := c.n.val
    let x := st.dev.ctx h n
    let whole (q : Piece) : Prop := isLs q.src = false ∧ q.rd = 0 ∧ q.got = [] ∧ 0 < q.len
    uncounted st.dev → st.dev.mem.errs = [] →
    (x.requests = [r] → r.tag = tag.toNat → r.kind = .copy → r.cut = true → st.dev.spanQ = [] →
      st.dev.canComplete ⟨h, n, r⟩ = true → (∀ p ∈ r.pieces, whole p ∧ p.dsts ≠ [] ∧ ∀ b ∈ p.dsts, isLs b = false) →
      ∃ t, exec (.requestComplete c tag) st = .next t ∧ t.pending = st.pending ∧ (t.dev.ctx h n).requests = [] ∧
        let e := forL r.pieces (fun q d => copied x.part q d) st.dev
        t.dev.rim = e.rim ∧ t.dev.ls = e.ls) ∧
    (st.dev.allRequests = [⟨h, n, r⟩] → r.kind = .copy → st.dev.portQueue f.val true = [a] →
      st.dev.portQueue f.val false = [] → a.ready = true → a.q = q → q ∈ r.pieces → whole q → q.dsts = [a.a] →
      (∀ y ∈ r.pieces, y.src = q.src → y.dsts = q.dsts → y = q) →
      bit ((alGet [] st.dev.claims f.val).headD 0) a.bank = false →
      ∃ t, exec (.dmaAccess f) st = .next t ∧ t.pending = st.pending ∧
        (t.dev.ctx h n).requests = (let ps := r.pieces.filter fun y => y != q
          if r.cut && ps.isEmpty then [] else [{ r with pieces := ps }]) ∧
        t.dev.rim = (copied x.part q st.dev).rim ∧ t.dev.ls = (copied x.part q st.dev).ls) ∧
    (∀ (why : FarFail) (b : Nat), x.requests = [r] → r.tag = tag.toNat → st.dev.farAt r = some b →
      ∃ t, exec (.farReadFail c tag why) st = .next t ∧ t.pending = st.pending ∧
        (∀ y ∈ (t.dev.ctx h n).requests, y.id ≠ r.id) ∧ tag.toNat ∈ (t.dev.ctx h n).tagErr)

/-- R79. The value is 0 for done, 1 for a missed deadline, 2 for a request that ended in error.
Commands that it has complete, by their own effect: dfence, dfenceRelease. -/
def Obligations.DeadlineFences : Prop :=
  ∀ (st : State) (c : CtxId) (o : DfenceOp) (f : FenceWait) (r : Request), st.dev.sys.railsUp = true →
    let h := c.h.val
    let n := c.n.val
    let x := st.dev.ctx h n
    (x.state = .running → x.phase = .boundary → x.fenceDone = false →
      ((x.onTag o.tag.toNat = [] → o.cv = false →
        ∃ t, exec (.dfence c o) st = .next t ∧ t.pending = st.pending ∧
          let requests := x.requests.filter fun r => r.tag != o.tag.toNat
          let tagErr := x.tagErr.filter fun t => t != o.tag.toNat
          t.dev.ctx h n = { x with requests, tagErr, fence := none, fenceDone := true }) ∧
       (x.onTag o.tag.toNat ≠ [] → o.bound ≠ 0 →
        let w : FenceWait := { tag := o.tag.toNat, bound := o.bound.toNat, cn := o.cn.toNat, cv := o.cv, waited := 0 }
        exec (.dfence c o) st = .next (withDev st (st.dev.setCtx h n { x with fence := some w, phase := .dfenceWait }))) ∧
       (x.onTag o.tag.toNat ≠ [] → o.bound = 0 →
        ∃ t, exec (.dfence c o) st = .next t ∧ t.pending = st.pending ∧
          let y := t.dev.ctx h n
          (∀ r ∈ y.requests, r.tag ≠ o.tag.toNat) ∧ y.fence = none ∧ y.fenceDone = true ∧ o.tag.toNat ∉ y.tagErr))) ∧
    (x.state = .running → x.phase = .dfenceWait → x.fence = some f → x.requests = [r] → r.tag = f.tag → r.kind = .copy →
      x.inflight = [] → f.cv = true →
      ∃ t, exec (.dfenceRelease c) st = .next t ∧ t.pending = st.pending ∧
        let y := t.dev.ctx h n
        y.requests = [] ∧ y.fence = none ∧ y.fenceDone = true ∧ y.phase = .boundary ∧ y.cyc = x.cyc + (f.bound - f.waited) ∧
        f.tag ∉ y.tagErr ∧ onItsWay t.dev c (y.cyc + 2) (.cond f.cn 3 (if x.tagErr.contains f.tag then 2 else 1)))

/-- R172, R173, R175. The row tracked for repair is stated by its own register's threshold, so `trackRow` stays named.
Commands that it has complete, by their own effect: rimRead, rimPartialWrite, scrubRead. -/
def Obligations.RimGranulesAreRead : Prop :=
  ∀ (st : State) (a : BitVec 48) (bytes : List Byte) (errs fix : SymErrs) (x : Fin 8) (pc : Fin 32),
    st.dev.sys.railsUp = true → uncounted st.dev → st.dev.mem.errs = [] → st.dev.mem.repairing = [] →
    (∀ e ∈ errs, e.1 < 42 ∧ e.2 ≠ 0) → (errs.map fun e => e.1).Nodup →
    let g := a.toNat / 64 * 64
    (g < rimTop → st.dev.inCarve g = false → rsDecode errs = .fixed fix → fix ≠ [] →
      let rim := st.dev.rim.write g (symXor fix (symXor errs (st.dev.rim.read g 64)))
      exec (.rimRead a errs) st = .next (withDev st (((({ st.dev with rim } : Dev).setErrs g []).bump
        (rMemCe (rimMap g).stack (rimMap g).pc)).trackRow g))) ∧
    (a.toNat < rimTop → a.toNat % 64 + bytes.length < 64 →
      ∃ t, exec (.rimPartialWrite a bytes []) st = .next t ∧ t.pending = st.pending ∧
        t.dev.rim = st.dev.rim.writeAt (placeBytes a.toNat bytes) ∧ t.dev.ls = st.dev.ls) ∧
    (st.dev.fld rMemCfg 7 0 ≠ 0 → st.dev.pcOk x.val pc.val = true →
      ∃ t, exec (.scrubRead x pc []) st = .next t ∧ t.pending = st.pending ∧ t.dev.rim = st.dev.rim ∧
        let k := chanKey x.val pc.val
        let scrub := st.dev.mem.scrub.set k ((st.dev.mem.scrub.get k + 1) % (3 * 2 ^ 24))
        t.dev.mem = { st.dev.mem with scrub })

/-- R225, R226. With nothing of the context on its way; the ring stands in rim memory, and the partition may read its entries.
Commands that it has complete, by their own effect: itake, irel, iroi. -/
def Obligations.IngestHandOff : Prop :=
  ∀ (st : State) (c : CtxId) (o : ItakeOp) (q : IrelOp) (v : IroiOp), st.dev.sys.railsUp = true →
    let h := c.h.val
    let n := c.n.val
    let k := st.dev.ctx h n
    let p := k.part
    k.state = .running → k.inflight = [] →
    (let dst := st.dev.gaAddr h n o.dst
     st.dev.ringOn p o.ring.toNat = true →
      diff32 (st.dev.ringTaken p o.ring.toNat) (st.dev.ringReleased p o.ring.toNat) + o.nrow.toNat ≤ st.dev.ringNent p o.ring.toNat →
      (k.onTag o.tag.toNat).length < 4095 →
      (let first := st.dev.ringTaken p o.ring.toNat
       let entries := (List.range o.nrow.toNat).map fun k => st.dev.ringEntry p o.ring.toNat (first + k)
       (∀ e ∈ entries, isFar e = false) ∧ st.dev.refuse p ((entries.map fun e => ⟨e, st.dev.ringEsz p o.ring.toNat, false⟩) ++
         [⟨dst, o.nrow.toNat * st.dev.ringEsz p o.ring.toNat, true⟩]) = none) →
      ∃ t r, exec (.itake c o) st = .next t ∧ t.pending = st.pending ∧ r ∈ (t.dev.ctx h n).requests ∧ r.tag = o.tag.toNat ∧
        r.kind = .take o.ring.toNat dst o.nrow.toNat (some (st.dev.ringTaken p o.ring.toNat)) ∧ r.pieces = [] ∧
        t.dev.regs = ((st.dev.setTaken p o.ring.toNat ((st.dev.ringTaken p o.ring.toNat + o.nrow.toNat) % 2 ^ 32)).updateCur
          p o.ring.toNat).regs) ∧
    (q.nrow.toNat ≤ diff32 (st.dev.ringTaken p q.ring.toNat) (st.dev.ringReleased p q.ring.toNat) →
      ∃ t, exec (.irel c q) st = .next t ∧ t.pending = st.pending ∧
        t.dev.ing.rings = alSet Ring.none st.dev.ing.rings (p * 4 + q.ring.toNat)
          { st.dev.ring p q.ring.toNat with landed := (st.dev.ring p q.ring.toNat).landed.drop q.nrow.toNat }) ∧
    (let r := v.ftag.toNat / 2 ^ 30
     let a := st.dev.gaAddr h n v.list
     st.dev.firstBad p a (4 * v.count.toNat) = none →
      ∃ t, exec (.iroi c v) st = .next t ∧ t.pending = st.pending ∧
        t.dev.ing.rings = alSet Ring.none st.dev.ing.rings (p * 4 + r)
          { st.dev.ring p r with posted := (st.dev.ring p r).posted ++ [(a, v.count.toNat, v.ftag.toNat)] })

/-- R200, R201, R285. `e` is the device with the op launched and its group active: the other ops of the partition have gone as
far as they can, so that nothing more happens there. In the second case a port is up and in no watchdog interval (R192).
Commands that it has complete, by their own effect: rscat, ared, agath, bcast, a2a. -/
def Obligations.BarrovLaunches : Prop :=
  ∀ (st : State) (c : CtxId) (o : BarrovOp) (k : Nat), st.dev.sys.railsUp = true →
    let h := c.h.val
    let n := c.n.val
    let x := st.dev.ctx h n
    let g := x.part * 256 + o.grp.toNat
    let epoch := st.dev.grpEpoch g
    let d := st.dev.setGrpEpoch g (epoch + 1)
    let src := st.dev.gaAddr h n o.src
    let dst := st.dev.gaAddr h n o.dst
    let i : Instr := match k with | 1 => .rscat c o | 2 => .ared c o | 3 => .agath c o | 4 => .bcast c o | _ => .a2a c o
    let r : Request := { id := d.nextReq, tag := o.tag.toNat, kind := .barrov g epoch, pieces := [], cut := false,
                         allocate := false, failed := false, bidx := x.bidx, list := none }
    let j : BarrovJob := { g, epoch, op := k, c, o, src, dst, len := o.len.toNat, bidx := x.bidx, icount := x.icount,
                           waiting := true, begun := false, data := false, heard := [], met := st.dev.earlyRanks g epoch }
    let l := (({ d with nextReq := d.nextReq + 1 } : Dev).setCtx h n { x with requests := x.requests ++ [r] }).askPeer
      x.part r.id src o.len.toNat
    let e := (({ l with brv := { l.brv with jobs := l.brv.jobs ++ [j] } } : Dev).setGrpState g 1).nextJob g
    let set := (rdvSet k (d.grpMem g) (d.grpRank g)).filter fun r => d.remote g r
    let flying := countIf (fun j => j.g == g && !j.waiting) st.dev.brv.jobs
    x.state = .running → x.inflight = [] → 1 ≤ k → k ≤ 5 →
    countIf (fun j => j.g / 256 == x.part) st.dev.brv.jobs < 1024 → st.dev.grpOn g = true →
    (st.dev.grpKey g = 0xFFFF ∨ (d.slotFor (d.grpKey g) x.part 4).isSome = true) → epoch < 0xFFFFFFFF →
    d.grpFault g = false → st.dev.brv.aborted.contains (g, epoch) = false → d.barrovBad g k h o = false →
    (x.onTag o.tag.toNat).length < 4095 →
    d.refuse x.part [⟨src, o.len.toNat, false⟩, ⟨dst, resultBytes k (d.grpMem g) o.len.toNat, true⟩] = none →
    e.advance x.part = e →
    ∃ t, exec i st = .next t ∧ t.pending = st.pending ∧
      (8 ≤ flying → t.dev.grpEpoch g = epoch + 1 ∧ t.dev.brv.jobs = st.dev.brv.jobs ++ [j] ∧
        ∃ r, r ∈ (t.dev.ctx h n).requests ∧ r.tag = o.tag.toNat ∧ r.kind = .barrov g epoch) ∧
      (flying < 8 → (∀ b ∈ st.dev.brv.jobs, b.g = g → b.waiting = false) → st.dev.partState x.part = 1 →
        (d.upPorts (d.grpPorts g)) ≠ [] → (d.port (d.firstPort g)).ignoring.contains (d.fld rBrvCfg 19 16) = false →
        (d.grpKey g = 0xFFFF ∨ e.tooLong j = false) → st.dev.earlyRanks g epoch = [] → set ≠ [] →
        (∃ b ∈ t.dev.brv.jobs, b.g = g ∧ b.epoch = epoch ∧ b.op = k ∧ b.c = c ∧ b.o = o ∧ b.src = src ∧ b.dst = dst ∧
          b.waiting = false ∧ b.data = false) ∧
        (∀ r ∈ set, ∃ f, (f ∈ t.dev.brv.sent ∨ f ∈ (t.dev.port (d.firstPort g)).queued) ∧ f.ftype = 5 ∧ f.g = g ∧
          f.epoch = epoch ∧ f.peer = r) ∧
        ∃ r, r ∈ (t.dev.ctx h n).requests ∧ r.tag = o.tag.toNat ∧ r.kind = .barrov g epoch)

/-! ## Host interface, programs, numeric events and memory commands (13, 02, 06, 09) -/

/-- R257, R259, R264, R268, R272. A write that fails one of these conditions is dropped; the third clause says so of a write of
another size. A command that a check refuses is fetched likewise and then ends with its cause.
Commands that it has complete, by their own effect: sqTail, cqHead, commandFetch. -/
def Obligations.DoorbellsAndFetches : Prop :=
  ∀ (st : State) (q : Nat), st.dev.sys.railsUp = true → st.dev.hostUp = true →
    let x := st.dev.queue q
    (∀ (fn : FnN) (w : BellWrite), q < 16384 → st.dev.fld (rHqCq q) 5 0 = fn.val →
      (fn = 0 ∨ ∃ p, st.dev.vfPart fn.val = some p ∧ st.dev.queuePart q = some p) →
      let i := w.value.toNat % 2 ^ 16
      (w.size = 4 → w.off.toNat = 0x40 * q → st.dev.sqOn q = true → i < st.dev.sqSize q →
        ∃ t, exec (.sqTail fn w) st = .next t ∧ t.pending = st.pending ∧
          t.dev.hq.queues = alSet QueueSt.off st.dev.hq.queues q { x with tail := i } ∧ t.dev.regs = st.dev.regs) ∧
      (w.size = 4 → w.off.toNat = 0x40 * q + 4 → st.dev.cqOn q = true → i < st.dev.cqSize q → x.owed = [] → x.closing = none →
        ∃ t, exec (.cqHead fn w) st = .next t ∧ t.pending = st.pending ∧
          t.dev.hq.queues = alSet QueueSt.off st.dev.hq.queues q { x with cqHead := i } ∧ t.dev.regs = st.dev.regs) ∧
      (w.size ≠ 4 → ∃ t, exec (.sqTail fn w) st = .next t ∧ t.pending = st.pending ∧
        t.dev.reg rHqDbdrop ≠ st.dev.reg rHqDbdrop)) ∧
    (∀ entry buf : List Byte, st.dev.pendingQueues = [q] → st.dev.fetchRoom q = true →
      let head := (x.head + 1) % st.dev.sqSize q
      let c : FetchedCmd := { seq := st.dev.hq.nextSeq, q, sqhd := head, entry := entryOf entry, buf, started := false,
                              interim := false, mute := false }
      st.dev.fetchCheck c = none →
      ∃ t, exec (.commandFetch entry buf) st = .next t ∧ t.pending = st.pending ∧
        t.dev.hq.fetched = st.dev.hq.fetched ++ [c] ∧ t.dev.hq.nextSeq = st.dev.hq.nextSeq + 1 ∧
        t.dev.hq.queues = alSet QueueSt.off st.dev.hq.queues q { x with head, deferred := false })

/-- R256, R257, R260, R266, R267, R274, R275, Table 13-4. What the interrupt of R274 does to a completion's vector is left open in
the first clause: it changes no memory. The pair that FLR meets is not being deleted.
Commands that it has complete, by their own effect: interimCompletion, msixAggregateTimer, bar4Access, configRequest, flr,
identify. -/
def Obligations.CompletionsVectorsAndMemoryReads : Prop :=
  ∀ (st : State) (q : QueueN) (cid : BitVec 32) (o : Bar4Op) (c : FetchedCmd), st.dev.sys.railsUp = true →
    (∀ e, Accepted st.dev q 0x006 [] c e → c.mute = false → c.crit = false →
      let x := e.queue c.q
      e.cqOn c.q = true → e.cqFull c.q = false → x.owed = [] → x.closing = none →
      ∃ t, exec (.identify q) st = .next t ∧ t.pending = st.pending ∧
        t.dev.hq.fetched = (st.dev.setFetched (began c)).hq.fetched.filter (fun b => b.seq != c.seq) ∧
        t.dev.hostMem = st.dev.hostMem.write (e.fld (rHqCq c.q) 63 12 * 4096 + x.cqIdx * 32)
          (leBytes 4 c.cid ++ leBytes 2 c.sqhd ++ leBytes 2 c.part ++ leBytes 2 (b2n x.phase * 2 ^ 15) ++ leBytes 2 0 ++
            leBytes 4 0 ++ leBytes 16 (e.reg rGlbId + e.reg rHqCap * 2 ^ 64)) ∧
        let i := (x.cqIdx + 1) % e.cqSize c.q
        (t.dev.queue c.q).cqIdx = i ∧ (t.dev.queue c.q).phase = if i = 0 then !x.phase else x.phase) ∧
    let a := st.dev.reg rHqBar4Base + o.off.toNat
    let k := msixKey (st.dev.fld (rHqCq q.val) 5 0) (st.dev.fld (rHqVec q.val) 31 21)
    (st.dev.hq.fetched = [c] → c.q = q.val → c.cid = cid.toNat → c.interim = false → c.mute = false →
      exec (.interimCompletion q cid) st = .next (withDev st ((st.dev.setFetched { c with interim := true }).pushCqe c.q
        (cqeBytes c.cid c.sqhd c.part 1 none 0 0) true)) ∧
      (st.dev.setFetched { c with interim := true }).hq.fetched = [{ c with interim := true }]) ∧
    (st.dev.cqOn q.val = true → (st.dev.queue q.val).unsignalled ≠ 0 → st.dev.fld (rHqVec q.val) 7 0 ≠ 0 →
      ∃ t, exec (.msixAggregateTimer q) st = .next t ∧ t.pending = st.pending ∧
        t.dev.hq.queues = alSet QueueSt.off st.dev.hq.queues q.val { st.dev.queue q.val with unsignalled := 0 } ∧
        (st.dev.hq.msixMask.get k = 0 → t.dev.hq.msix = st.dev.hq.msix.add k 1) ∧
        (st.dev.hq.msixMask.get k ≠ 0 → t.dev.hq.msixPend = st.dev.hq.msixPend.set k 1)) ∧
    (st.dev.hostUp = true → o.write = true → o.bytes.length = o.len → st.dev.bar4Served a o.len = true →
      st.dev.chanHeld a o.len = false → st.dev.mem.errs = [] →
      ∃ t, exec (.bar4Access o) st = .next t ∧ t.pending = st.pending ∧ t.dev.rim = (st.dev.gwrite a o.bytes).rim ∧
        t.dev.ls = st.dev.ls) ∧
    (st.dev.hostUp = true → o.write = false → st.dev.bar4Served a o.len = true → st.dev.mem.errs = [] →
      st.dev.chanHeld a o.len = false →
      ∃ t, exec (.bar4Access o) st = .next t ∧ t.pending = st.pending ∧ t.dev.rim = st.dev.rim ∧ t.dev.mem = st.dev.mem ∧
        st.dev.bar4Read o = .bytes (st.dev.rim.read a o.len)) ∧
    (exec (.configRequest none) st = .next st) ∧
    (∀ vfs : FnN, (st.dev.hostUp = false → exec (.configRequest (some vfs)) st = .next st) ∧
      (st.dev.hostUp = true → ∃ t, exec (.configRequest (some vfs)) st = .next t ∧ t.pending = st.pending ∧
        (∀ i, 1 ≤ i → i ≤ 63 → t.dev.flag (rHqFn i) 31 = decide (i ≤ vfs.val)) ∧
        ∀ off, (∀ i, 1 ≤ i → i ≤ 63 → off ≠ rHqFn i) → t.dev.reg off = st.dev.reg off)) ∧
    (∀ (fn : FnN) (b : Nat), (((st.dev.hq.queues.map Prod.fst) ++ st.dev.hq.fetched.map FetchedCmd.q).eraseDups.filter fun k =>
      st.dev.fld (rHqCq k) 5 0 == fn.val) = [b] → (st.dev.queue b).closing = none →
      let d := ((st.dev.setFlag (rHqSq b) 4 false).setFlag (rHqVec b) 20 false).setQueue b QueueSt.off
      let fetched := st.dev.hq.fetched.map fun (c : FetchedCmd) => if c.q = b then { c with mute := true } else c
      exec (.flr fn) st = .next (withDev st ({ d with hq := { d.hq with fetched } } : Dev)))

/-- Table 13-7, R256, R272, R277. `v k` is parameter k of the command.
Commands that it has complete, by their own effect: queueCreate, queueDelete, queueArb, evqSet, vfSet. -/
def Obligations.QueueCommandsSetQueues : Prop :=
  ∀ (st : State) (q : QueueN) (c : FetchedCmd) (e : Dev), st.dev.sys.railsUp = true → (e.queue c.q).closing = none →
    (let spec := [PKind.num 2, .num 1, .num 1, .num 8, .num 1, .num 8, .num 1, .num 2, .num 1, .num 1]
     let v := (c.params spec).at
     Accepted st.dev q 0x001 spec c e → v 0 ≠ 0 → v 0 < 16384 → v 1 < 64 → v 2 < 4 → v 3 % 4096 = 0 → 4 ≤ v 4 → v 4 ≤ 16 →
      v 5 % 4096 = 0 → 4 ≤ v 6 → v 6 ≤ 16 → v 7 < vecLimit (v 1) → v 8 < 256 → v 9 < 256 → (c.part = 0xFF → v 1 = 0) →
      e.queueOn (v 0) = false → c.q ≠ v 0 → v 3 < 2 ^ 64 → v 5 < 2 ^ 64 →
      ∃ t, exec (.queueCreate q) st = .next t ∧ t.pending = st.pending ∧
        t.dev.reg (rHqSq (v 0)) = v 3 + v 4 * 2 ^ 7 + v 2 * 2 ^ 5 + 2 ^ 4 + c.part % 16 ∧
        t.dev.reg (rHqCq (v 0)) = v 5 + v 6 * 2 ^ 7 + b2n (c.part == 0xFF) * 2 ^ 6 + v 1 ∧
        t.dev.reg (rHqVec (v 0)) = v 7 * 2 ^ 21 + 2 ^ 20 + v 8 * 2 ^ 8 + v 9) ∧
    (let n := (c.params [.num 2]).at 0
     Accepted st.dev q 0x002 [.num 2] c e → n < 16384 → n ≠ 0 → e.queueOn n = true → e.isEventQueue n = false → n ≠ c.q →
      e.unfetched n = 0 → (∀ b ∈ e.hq.fetched, b.q ≠ n) → (e.queue n).owed = [] → (e.queue n).held = [] →
      let d := e.setFlag (rHqSq n) 4 false
      let k := d.setQueue n { d.queue n with closing := some c.seq }
      exec (.queueDelete q) st = .next (withDev st (((k.setFlag (rHqVec n) 20 false).setQueue n
        { k.queue n with closing := none }).postFinal (began c) none 0 0))) ∧
    (let spec := [PKind.num 1, .num 1, .num 1, .num 1, .num 1]
     let v := (c.params spec).at
     let w := (v 4 - 1) * 2 ^ 16 + v 3 * 2 ^ 12 + v 2 * 2 ^ 8 + v 1 * 2 ^ 4 + v 0
     Accepted st.dev q 0x003 spec c e → (∀ k, k < 4 → 1 ≤ v k ∧ v k ≤ 15) → 1 ≤ v 4 → v 4 ≤ 4 → arbOk w = true →
      e.flag rHqLock 0 = false → exec (.queueArb q) st = .next (withDev st ((e.setReg rHqArb w).done (began c)))) ∧
    (let n := (c.params [.num 2]).at 0
     Accepted st.dev q 0x004 [.num 2] c e → n < 16384 → e.sqOn n = false →
      exec (.evqSet q) st = .next (withDev st ((e.setReg (if c.part = 0xFF then rHqEvqDev else rHqPartEvq (c.part % 16))
        (2 ^ 31 + n)).done (began c)))) ∧
    (let v := (c.params [.num 1, .num 2]).at
     Accepted st.dev q 0x005 [.num 1, .num 2] c e → 1 ≤ v 0 → v 0 < 64 → v 1 < 16384 → c.part < 16 → e.partValid c.part = true →
      e.flag (rHqFn (v 0)) 31 = false →
      exec (.vfSet q) st = .next (withDev st ((e.setReg (rHqFn (v 0)) (c.part * 2 ^ 20 + 2 ^ 19 + v 1)).done (began c))))

/-- R389. Every other parameter is within its range, so that the refusal is this rule's; `finish` posts the final completion
of class request-ended with the cause, and nothing but it changes. -/
def Obligations.QueuesThatAreOnAreRefused : Prop :=
  ∀ (st : State) (q : QueueN) (c : FetchedCmd) (e : Dev), st.dev.sys.railsUp = true →
    (let spec := [PKind.num 2, .num 1, .num 1, .num 8, .num 1, .num 8, .num 1, .num 2, .num 1, .num 1]
     let v := (c.params spec).at
     Accepted st.dev q 0x001 spec c e → v 0 ≠ 0 → v 0 < 16384 → v 1 < 64 → v 2 < 4 → v 3 % 4096 = 0 → 4 ≤ v 4 → v 4 ≤ 16 →
      v 5 % 4096 = 0 → 4 ≤ v 6 → v 6 ≤ 16 → (c.part = 0xFF → v 1 = 0) →
      (v 7 < vecLimit (v 1) → (e.sqOn (v 0) = true ∨ e.cqOn (v 0) = true) →
        exec (.queueCreate q) st = .next (withDev st (e.finish (began c) (some clsRequest) 0x4 0))) ∧
      (vecLimit (v 1) ≤ v 7 → c.crit = false →
        exec (.queueCreate q) st = .next (withDev st (e.finish (began c) (some clsRequest) 0x1 (detail 0 0 0 0 7))))) ∧
    (let n := (c.params [.num 2]).at 0
     Accepted st.dev q 0x004 [.num 2] c e → n < 16384 → e.sqOn n = true →
      exec (.evqSet q) st = .next (withDev st (e.finish (began c) (some clsRequest) 0x1 0)))

/-- R52, R54, R55, R276. `live`: the partition holds the facets, so that the commands act on the device itself. What a kernel
profile leaves is built from its parameters; the words its images hold are left open by the spec (log 7), so KERNEL_RUN is
stated over them.
Commands that it has complete, by their own effect: loadProgram, startProgram, clearTfault, kernelRun. -/
def Obligations.ProgramsLoadAndStart : Prop :=
  ∀ (st : State) (q : QueueN) (c : FetchedCmd) (e : Dev) (images : List (List Byte)), st.dev.sys.railsUp = true →
    let p := c.part
    let put (m : List (List Byte)) (d : Dev) : Dev :=
      let d := forL ((d.ctxsOf p).zip m) (fun x (d : Dev) => d.writeImage x.1.1 x.1.2 (parseImage x.2)) d
      d.setPsv p { d.psvOf p with programs := m.map Config.sha256 }
    let run (k : Kernel) (d : Dev) : Dev :=
      let d := forL (d.ctxsOf p) (fun x (d : Dev) => d.startCtx x.1 x.2) d
      let w : ProgramWait := { seq := c.seq, p, leaves := k.leaves, counters := k.counters }
      ({ d with hq := { d.hq with programs := d.hq.programs ++ [w] } } : Dev).claimFacets p
    (p < 16 → e.partValid p = true → e.live p = true →
      (Accepted st.dev q 0x101 [.list [8]] c e → ((c.params [.list [8]]).lst 0).length = (e.ctxsOf p).length →
        images.length = (e.ctxsOf p).length → e.busyCtx p = none → e.checkImages p images = none →
        exec (.loadProgram q images) st = .next (withDev st ((put images e).done (began c)))) ∧
      (Accepted st.dev q 0x102 [] c e → e.quiet p = true → exec (.startProgram q) st = .next (withDev st (run { steps := [] } e))) ∧
      (Accepted st.dev q 0x104 [] c e → c.profile ≠ 0 → c.profile ≤ 0x11 →
        match e.buildKernel p c.profile c.buf with
        | .error i => exec (.kernelRun q) st = .next (withDev st (e.param (began c) i))
        | .ok k =>
          let m := Config.kernelImages k.steps (e.sectors p)
          let b : Dev := { e with fresh := e.fresh + k.leaves.length }
          (bit (leAt c.entry 0x20 1) 0 = true → exec (.kernelRun q) st = .next (withDev st
            (({ e with hostMem := e.hostMem.write (leAt c.entry 0x28 8) m.flatten } : Dev).done (began c)))) ∧
          (bit (leAt c.entry 0x20 1) 0 = false → e.busyCtx p = none →
            match b.checkImages p m with
            | some (k, reason, bidx, at_) =>
              exec (.kernelRun q) st = .next (withDev st (b.fail (began c) 0x5 (detail at_ bidx k 0 reason)))
            | none => (put m b).quiet p = true → (put m b).live p = true →
              exec (.kernelRun q) st = .next (withDev st (run k (put m b)))))) ∧
    (let h := (c.params [.num 1]).at 0
     Accepted st.dev q 0x103 [.num 1] c e → h < 2 →
      exec (.clearTfault q) st = .next (withDev st ((((e.setFlag (rSeqTfaultCap h) 63 false).setFlag (rSeqTfault h) 31
        false).setFlag (rSeqCollide h) 31 false).done (began c))))

/-- Table 06-9, R124, R125, R130. `v k` is parameter k.
Commands that it has complete, by their own effect: nevConfig, nevClear, rngSeed, nevRingRecordLand. -/
def Obligations.NumericEventCommands : Prop :=
  ∀ (st : State) (q : QueueN) (c : FetchedCmd) (e : Dev) (r : PartN), st.dev.sys.railsUp = true →
    let p := c.part
    (p < 16 → e.partValid p = true →
      (let spec := [PKind.num 1, .num 1, .num 1, .num 8, .num 1]
       let v := (c.params spec).at
       Accepted st.dev q 0x201 spec c e → v 0 = 1 → v 1 < 256 → v 2 < 2 → v 3 < 2 ^ 48 → v 3 % 4096 = 0 → 4 ≤ v 4 → v 4 ≤ 20 →
        e.flag (rNevRcfg p) 31 = false →
        exec (.nevConfig q) st = .next (withDev st (((((e.setReg (rNevRbase p) (v 3)).setReg (rNevRhead p) 0).setReg
          (rNevRtail p) 0).setReg (rNevRcfg p) (2 ^ 31 + v 1 * 2 ^ 16 + v 2 * 2 ^ 15 + v 4)).done (began c)))) ∧
      (e.live p = true → Accepted st.dev q 0x202 [] c e →
        let d := forN 6 (fun k (d : Dev) => (d.setFlag (rNevCap p k) 127 false).setFlag (rNevCnt p k) 63 false) e
        exec (.nevClear q) st = .next (withDev st
          ((forL (d.facetsOf p) (fun f (d : Dev) => d.setFld (rFctNev f) 5 0 0) d).done (began c)))) ∧
      (let v := (c.params [.num 8, .num 4]).at
       e.live p = true → e.quiet p = true → Accepted st.dev q 0x203 [.num 8, .num 4] c e →
        ∃ t, exec (.rngSeed q) st = .next t ∧ t.pending = st.pending ∧ ∀ f l, f ∈ e.facetsOf p → l < 512 →
          t.dev.rng.get (f * 512 + l) = v 0 + ((f * 512 + l) * 2 ^ 64 + v 1 * 2 ^ 96) * 2 ^ 64)) ∧
    (∀ b bs, alGet [] st.dev.nevRing r.val = b :: bs →
      let d := st.dev
      let head := d.reg (rNevRhead r.val)
      let n := 2 ^ d.fld (rNevRcfg r.val) 4 0
      let rest : Dev := { d with nevRing := alSet [] d.nevRing r.val bs }
      (diff32 head (d.reg (rNevRtail r.val)) ≠ n →
        exec (.nevRingRecordLand r) st = .next (withDev st ((rest.rimPut (placeBytes (d.reg (rNevRbase r.val) +
          head % n * 32) b)).setReg (rNevRhead r.val) ((head + 1) % 2 ^ 32)))) ∧
      (diff32 head (d.reg (rNevRtail r.val)) = n →
        exec (.nevRingRecordLand r) st = .next (withDev st (rest.bump (rNevRdrop r.val)))))

/-- R179, R184, R185. `v k` is parameter k.
Commands that it has complete, by their own effect: memScrubCfg, farWindow, stackRepair, stackRepairDone, memClearErr. -/
def Obligations.MemoryCommands : Prop :=
  ∀ (st : State) (q : QueueN) (c : FetchedCmd) (e : Dev) (x : Fin 8) (pc : Fin 32), st.dev.sys.railsUp = true →
    (let v := (c.params [.num 1, .num 1]).at
     Accepted st.dev q 0x301 [.num 1, .num 1] c e → v 0 ≤ 168 → 2 ≤ v 1 → v 1 < 256 →
      exec (.memScrubCfg q) st = .next (withDev st ((e.setReg rMemCfg
        (e.fld rMemCfg 20 16 * 2 ^ 16 + v 1 * 2 ^ 8 + v 0)).done (began c)))) ∧
    (let spec := [PKind.num 1, .num 1, .num 1, .num 8]
     let v := (c.params spec).at
     let p := c.part
     Accepted st.dev q 0x302 spec c e → p < 16 → e.partValid p = true → e.quiet p = true → v 0 < 16 → v 1 < 4 →
      (v 1 ≠ 0 → 12 ≤ v 2 ∧ v 2 ≤ 43) →
      exec (.farWindow q) st = .next (withDev st (((e.setReg (rMemFwTgt p (v 0)) (v 3)).setReg (rMemFwCfg p (v 0))
        ((if v 1 = 0 then 0 else 2 ^ 31) + v 1 * 2 ^ 29 + v 2 % 64 * 2 ^ 23)).done (began c)))) ∧
    (let spec := [PKind.num 1, .num 1, .num 1, .num 1, .num 2, .num 1]
     let v := (c.params spec).at
     let b := bankKey (v 0) (v 1) (v 2) (v 3)
     Accepted st.dev q 0x303 spec c e → v 0 < 8 → v 1 < 32 → v 2 < 8 → v 3 < 16 → v 4 < 24576 → v 5 < 2 →
      e.pcOk (v 0) (v 1) = true → e.mem.spares.get b < 4 → (∀ r ∈ e.mem.repairing, r.1 ≠ chanKey (v 0) (v 1)) →
      ∃ t, exec (.stackRepair q) st = .next t ∧ t.pending = st.pending ∧ t.dev.hq = e.hq ∧
        t.dev.mem.spares = e.mem.spares.add b 1 ∧ t.dev.mem.repairs = e.mem.repairs ++ [(b * 2 ^ 15 + v 4, v 5)] ∧
        t.dev.mem.repairing = e.mem.repairing ++ [(chanKey (v 0) (v 1), c.seq, v 5)] ∧
        t.dev.fld (rMemStk (v 0)) 47 32 = e.fld (rMemStk (v 0)) 47 32 - 1) ∧
    (∀ s hard, st.dev.mem.repairing = [(chanKey x.val pc.val, s, hard)] → st.dev.fetchedCmd s = some c →
      exec (.stackRepairDone x pc) st = .next (withDev st
        (({ st.dev with mem := { st.dev.mem with repairing := [] } } : Dev).finish c none 0 0))) ∧
    (let k := (c.params [.num 1]).at 0
     Accepted st.dev q 0x304 [.num 1] c e → k < 8 →
      exec (.memClearErr q) st = .next (withDev st ((forN 32 (fun j (d : Dev) => (d.setFlag (rMemCe k j) 31 false).setFlag
        (rMemUe k j) 31 false) (e.setFld (rMemUecap k) 127 127 0)).done (began c))))

/-! ## Barrov network (10) -/

/-- Table 10-4, R187, R191, R194, R195. `v k` is parameter k of the command.
Commands that it has complete, by their own effect: portCfg, flowCfg, distMeasure, endpoint, peerSet, qpConnect. -/
def Obligations.PortCommandsSetPorts : Prop :=
  ∀ (st : State) (q : QueueN) (c : FetchedCmd) (e : Dev) (m : PdelayMeas), st.dev.sys.railsUp = true →
    (let spec := [PKind.num 1, .num 1, .num 1, .num 2, .num 1, .num 1]
     let v := (c.params spec).at
     let n := v 0
     let old := e.reg (rPortCfg n)
     let d := e.setReg (rPortCfg n) (2 ^ 31 + v 1 * 2 ^ 28 + v 2 * 2 ^ 26 + bits old 25 21 * 2 ^ 21 + v 4 % 2 * 2 ^ 20 +
       v 4 / 2 * 2 ^ 19 + v 5 * 2 ^ 18 + bits old 17 17 * 2 ^ 17 + v 3)
     Accepted st.dev q 0x401 spec c e → n < 48 → v 1 < 4 → v 2 < 2 → 1518 ≤ v 3 → v 3 ≤ 9216 →
      v 4 < 4 → v 5 < 2 → e.portMine (began c) n = true →
      (e.ganged n = true → exec (.portCfg q) st = .next (withDev st (e.done (began c)))) ∧
      (e.ganged n = false → e.modeOk n (v 1) = true → e.linkUp n = false → e.linkUp (n + 1) = false →
        exec (.portCfg q) st = .next (withDev st
          ((if n % 2 = 0 then d.setFlag (rPortStatus (n + 1)) 30 (decide (v 1 = 3)) else d).done (began c))))) ∧
    (let spec := [PKind.num 1, .num 1, .num 2, .num 2, .num 2]
     let v := (c.params spec).at
     Accepted st.dev q 0x402 spec c e → v 0 < 48 → v 2 < 4096 → v 3 < 4096 → e.portMine (began c) (v 0) = true →
      exec (.flowCfg q) st = .next (withDev st (((e.setReg (rPortPfc (v 0)) (v 1 * 2 ^ 24 + v 2 * 2 ^ 12 + v 3)).setReg
        (rPortEcn (v 0)) (v 4)).done (began c)))) ∧
    (let n := (c.params [.num 1]).at 0
     let k := min 64 m.roundTrips.length
     let delay := min 65535 (((m.roundTrips.take 64).foldl (· + ·) 0 + k) / (2 * k))
     let thr := e.reg rBrvDistThr
     let cls := if delay ≤ bits thr 15 0 then 0 else if delay ≤ bits thr 31 16 then 1 else if delay ≤ bits thr 47 32 then 2 else 3
     Accepted st.dev q 0x403 [.num 1] c e → n < 48 → e.portMine (began c) n = true → e.ganged n = false → 48 ≤ m.roundTrips.length →
      exec (.distMeasure q [m]) st = .next (withDev st ((e.setReg (rPortDist n) (m.pclk.toNat * 2 ^ 64 +
        m.pport.toNat * 2 ^ 48 + cls * 2 ^ 46 + 2 ^ 45 + delay)).done (began c)))) ∧
    (c.part < 16 → e.partValid c.part = true →
      (let spec := [PKind.bytes 16, .num 1, .num 8, .num 2, .num 1, .list [8, 1]]
       let v := (c.params spec).at
       let ws := (c.params spec).lst 0
       Accepted st.dev q 0x404 spec c e → v 1 < 2 → v 2 < 2 ^ 48 → v 3 < 4096 → v 4 < 64 → ws.length ≤ 4 →
        (∀ w ∈ ws, w.getD 0 0 < 2 ^ 48 ∧ (w.getD 1 0 = 0 ∨ 12 ≤ w.getD 1 0 ∧ w.getD 1 0 ≤ 43)) →
        exec (.endpoint q) st = .next (withDev st ((forL ((List.range ws.length).zip ws) (fun x (d : Dev) =>
          d.setReg (rBrvServe c.part x.1) (x.2.getD 1 0 * 2 ^ 74 + x.2.getD 0 0))
          (e.setReg (rBrvPartAddr c.part) (2 ^ 255 + v 1 * 2 ^ 254 + v 4 * 2 ^ 244 + v 3 * 2 ^ 224 + v 2 * 2 ^ 176 +
            v 0))).done (began c)))) ∧
      (let spec := [PKind.num 2, .bytes 16, .num 1, .num 8, .num 2, .num 2]
       let v := (c.params spec).at
       Accepted st.dev q 0x405 spec c e → v 0 < 16384 → v 2 < 2 → v 3 < 2 ^ 48 → v 4 < 4096 →
        (e.flag (rBrvPeer (v 0)) 255 = true → e.fld (rBrvPeer (v 0)) 253 250 = c.part) →
        exec (.peerSet q) st = .next (withDev st ((e.setReg (rBrvPeer (v 0)) (2 ^ 255 + v 2 * 2 ^ 254 + c.part * 2 ^ 250 +
          v 4 * 2 ^ 224 + v 3 * 2 ^ 176 + v 5 * 2 ^ 160 + v 1)).done (began c))))) ∧
    (let spec := [PKind.num 2, .num 4, .num 4, .num 1, .num 2, .num 1]
     let v := (c.params spec).at
     Accepted st.dev q 0x408 spec c e → v 1 < 2 ^ 24 → v 2 < 2 ^ 24 → v 3 < 48 → (v 4 = 1024 ∨ v 4 = 2048 ∨ v 4 = 4096) →
      v 5 < 8 → e.qp (v 0) = none →
      let x : Qp := { idx := v 0, part := c.part, rqpn := v 1, psn := v 2, mtu := v 4, path := v 3, maxRetries := v 5,
                      retries := 0, error := false, rate := e.lineRate (v 3), cutAt := 0, cnpAt := 0 }
      exec (.qpConnect q) st = .next (withDev st ((e.setQp x).done (began c))))

/-- R199, R202, R205, R206, R207. `v k` is parameter k; `planCuts` is the order of service of R206. A parity chord is an op of its
group: its rendezvous, messages and end are those of the statements about launches, frames and completions.
Commands that it has complete, by their own effect: groupCreate, groupReset, layout, parity. -/
def Obligations.GroupCommandsSetGroups : Prop :=
  ∀ (st : State) (q : QueueN) (c : FetchedCmd) (e : Dev), st.dev.sys.railsUp = true →
    let p := c.part
    p < 16 → e.partValid p = true →
    let enabled (d : Dev) (g : Nat) : Dev :=
      let d : Dev := { d with brv := { d.brv with early := d.brv.early.filter fun r => r.g != g,
                                                  aborted := d.brv.aborted.filter fun x => x.1 != g } }
      ((d.setFld (rBrvGrp g) 176 176 1).setGrpEpoch g 0).setGrpState g 0
    (let spec := [PKind.num 1, .num 4, .num 8, .num 2, .num 2, .num 1, .num 8, .num 2, .num 1, .num 4]
     let v := (c.params spec).at
     let g := p * 256 + v 0
     let d := (e.setReg (rBrvGid g) (v 1)).writeGroup g (v 9 * 2 ^ 192 + v 5 * 2 ^ 177 + v 8 * 2 ^ 168 + v 7 * 2 ^ 152 +
       v 6 * 2 ^ 96 + v 2 * 2 ^ 32 + v 4 * 2 ^ 16 + v 3)
     Accepted st.dev q 0x406 spec c e → v 2 < 2 ^ 48 → v 2 % 64 = 0 → v 3 < 2 ^ 16 → v 4 < 2 ^ 16 → v 5 < 2 → v 6 < 2 ^ 48 →
      v 7 < 2 ^ 16 → v 8 < 3 → 100 ≤ v 9 → v 9 ≤ 10000000 → e.grpOn g = false → d.groupRefused g = false →
      exec (.groupCreate q) st = .next (withDev st ((enabled d g).done (began c))) ∧
      d.grpMem g = v 3 ∧ d.grpRank g = v 4 ∧ d.grpTab g = v 2 ∧ d.grpPorts g = v 6 ∧ d.grpKey g = v 7) ∧
    (let g := p * 256 + (c.params [.num 1]).at 0
     let d := e.setFld (rBrvGrp g) 176 176 0
     Accepted st.dev q 0x407 [.num 1] c e → (∀ j ∈ e.brv.jobs, j.g ≠ g) → d.groupRefused g = false →
      exec (.groupReset q) st = .next (withDev st ((enabled d g).done (began c)))) ∧
    (let spec := [PKind.list [1, 1, 1, 8], .list [1, 1], .list [8]]
     let l := (c.params spec).lst
     let cuts := (l 0).map fun x => ({ stage := x.getD 0 0, cut := x.getD 1 0, want := x.getD 2 0, ports := x.getD 3 0 } : Cut)
     let plan := planCuts cuts (e.sortedPorts p)
     let needs := (l 2).map fun x => x.getD 0 0
     let m := needs.foldl max 0
     let stage := (needs.findIdx? fun x => x == m).getD 0
     let short := plan.foldl (fun s x => if cuts.any fun y => y.cut == x.1.cut && y.stage == x.1.stage &&
       decide (x.2.length < y.want) then Nat.lor s (2 ^ x.1.cut) else s) 0
     Accepted st.dev q 0x409 spec c e → (∀ x ∈ l 0, x.getD 1 0 < 4) → (∀ x ∈ l 1, x.getD 0 0 < 5) →
      (∀ x ∈ plan, x.2 ≠ []) → m ≤ e.allocatable p → (∀ x ∈ l 1, e.grpOn (p * 256 + x.getD 1 0) = false) →
      exec (.layout q) st = .next (withDev st ((forL (l 1) (fun x (d : Dev) =>
        let k := if x.getD 0 0 = 4 then 3 else x.getD 0 0
        d.setFld (rBrvGrp (p * 256 + x.getD 1 0)) 143 96 (portMask ((plan.filter fun y => y.1.cut == k).flatMap Prod.snd))) e).done
        (began c) (m + stage * 2 ^ 64 + short * 2 ^ 72)))) ∧
    (let spec := [PKind.num 1, .num 8, .num 8, .num 1, .num 1]
     let v := (c.params spec).at
     let g := p * 256 + v 0
     let a := v 1
     let len := v 2
     let epoch := e.grpEpoch g
     let d := (e.setGrpEpoch g (epoch + 1)).setGrpState g 1
     let y : ParityRun := { seq := c.seq, n := v 3, r := v 4 }
     Accepted st.dev q 0x40A spec c e → len % 64 = 0 → 1 ≤ v 3 → v 3 ≤ 16 → 1 ≤ v 4 → v 4 ≤ 4 → e.grpOn g = true →
      e.grpKey g ≠ 0xFFFF → e.grpMem g = v 3 + v 4 → e.brv.aborted.contains (g, epoch) = false → e.grpFault g = false →
      (e.slotFor (e.grpKey g) p 4).isSome = true → epoch < 0xFFFFFFFF → e.firstBad p a len = none →
      ∃ t j, exec (.parity q) st = .next t ∧ t = withDev st (((({ d with brv := { d.brv with
          jobs := d.brv.jobs ++ [j] } } : Dev).nextJob g)).advance p) ∧ j.g = g ∧ j.epoch = epoch ∧ j.src = a ∧ j.dst = a ∧
        j.len = len ∧ j.parity = some y ∧ j.waiting = true ∧ j.data = false) ∧
    (∀ (x : BarrovJob) (y : ParityRun) (own : List Byte) (before : Option (List Byte)) (b : Nat),
      let d := st.dev
      let rank := d.grpRank x.g
      x.parity = some y → x.own = some own → d.fromPrev x = some before → own.length = x.len → y.n ≤ 16 → y.r ≤ 4 → rank < y.n → b < y.n → rank < b →
      messageLen x (d.grpMem x.g) rank b ≠ 0 →
      ∃ msg, d.message x b = some msg ∧ ∀ j w, j < y.r → w < x.len / 2 → x.len % 2 = 0 →
        leAt msg (j * x.len + 2 * w) 2 =
          Nat.xor (leAt (before.getD []) (j * x.len + 2 * w) 2) (gfMul (cauchy j rank) (leAt own (2 * w) 2)))

/-- R181, R193, R197, R198, R201, R202, R209. After a frame the ops of the partition go on as far as they can (`advance`); what the
frame itself does is stated before that. `rest` says that the port puts no frame out into a watchdog interval (R192).
Commands that it has complete, by their own effect: data, ack, nak, rnr, rdv, abort, farReq, farRsp. -/
def Obligations.FramesOfTheTransport : Prop :=
  ∀ (st : State) (f : BarrovFrame) (g : Nat) (s : StripeSt), st.dev.sys.railsUp = true →
    let p := f.p.val
    let n := f.port.val
    let epoch := f.hdr.epoch.toNat
    let seq := f.hdr.seq.toNat
    let rank := f.hdr.src.toNat
    let id := frameStripe g f
    let prio := st.dev.fld rBrvCfg 19 16
    let rest (n : Nat) : Prop := n < 48 ∧ (st.dev.port n).ignoring.contains prio = false
    let sends (d : Dev) (n ftype seq : Nat) : Prop :=
      putsOut d n (fun x => x.ftype == ftype && x.g == g && x.epoch == epoch && x.seq == seq)
    st.dev.takes f = true →
    (st.dev.groupOf p f.hdr.gid.toNat = some g → frameOk f (st.dev.grpPayload g) = true →
      (∀ j bs, st.dev.job g epoch = some j → st.dev.unseal (st.dev.grpKey g) p 1 f j.data = some bs → j.waiting = false →
        st.dev.noBuffer n = false →
        let d := st.dev.meet g epoch rank
        let s := (st.dev.stripe id).getD (StripeSt.recv id n)
        let x := { s with expect := seq + 1, sinceAck := s.sinceAck + 1, got := s.got ++ placeBytes f.hdr.off.toNat bs }
        let due := bit f.hdr.flags.toNat 2 || decide (16 ≤ s.sinceAck + 1)
        (seq = s.expect → due = false → exec (.data f) st = .next (withDev st ((d.setStripe x).advance (g / 256)))) ∧
        (seq = s.expect → due = true → exec (.data f) st = .next (withDev st (((d.setStripe { x with
          sinceAck := 0, ce := false }).answer f g 2 (seq + 1) (8 * b2n s.ce)).advance (g / 256)))) ∧
        (s.expect < seq → rest n → ∃ t, exec (.data f) st = .next t ∧ t.pending = st.pending ∧ sends t.dev n 3 s.expect)) ∧
      (st.dev.job g epoch = none → (st.dev.unseal (st.dev.grpKey g) p 1 f false).isSome = true → rest n →
        (st.dev.grpEpoch g ≤ epoch →
          ∃ t, exec (.data f) st = .next t ∧ t.pending = st.pending ∧ sends t.dev n 4 seq) ∧
        (epoch < st.dev.grpEpoch g → st.dev.grpFault g = false →
          ∃ t, exec (.data f) st = .next t ∧ t.pending = st.pending ∧ sends t.dev n 2 (seq + 1))) ∧
      (st.dev.stripe id = some s → s.acked < seq → seq ≤ s.frames →
        let x := { s with acked := seq, retries := 0, rnr := false }
        let u := st.dev.resend { x with retries := 1 }
        (bit f.hdr.flags.toNat 3 = false → exec (.ack f) st = .next (withDev st (st.dev.setStripe x))) ∧
        (bit f.hdr.flags.toNat 3 = true → exec (.ack f) st = .next (withDev st ((st.dev.setStripe x).cutStripe x))) ∧
        exec (.rnr f) st = .next (withDev st (st.dev.setStripe { x with rnr := true })) ∧
        (seq < s.frames → 0 < st.dev.fld rBrvTmo 19 16 →
          exec (.nak f) st = .next (withDev st ((u.nextJob g).advance (g / 256)))) ∧
        (seq < s.frames → rest s.port → u.stripe id = some { x with retries := 1 } ∧
          putsOut u s.port (fun y => y.ftype == 1 && y.g == s.id.g.toNat && y.epoch == s.id.epoch.toNat && y.seq == seq))) ∧
      (st.dev.job g epoch = none → st.dev.grpEpoch g ≤ epoch →
        ∃ t r, exec (.rdv f) st = .next t ∧ t = withDev st (((st.dev.keepRdv r).advance (g / 256)).nextJob g) ∧ r.g = g ∧
          r.epoch = epoch ∧ r.rank = rank ∧ r.op = f.hdr.op.toNat ∧ r.dtype = f.hdr.dtype.toNat ∧
          r.len = beNat (slice f.payload 0 8) ∧ r.nmem = beNat (slice f.payload 14 2)) ∧
      (let u := st.dev.hearAbort g epoch
       exec (.abort f) st = .next (withDev st ((u.advance (g / 256)).nextJob g)) ∧ u.grpFault g = true ∧
         u.fld (rBrvGrp g) 295 288 = 7) ∧
      (∀ j, st.dev.brv.jobs = [j] → j.g = g → j.epoch = epoch → g / 256 = p →
        ∃ t, exec (.abort f) st = .next t ∧ t.pending = st.pending ∧ t.dev.grpFault g = true ∧
          t.dev.fld (rBrvGrp g) 295 288 = 7 ∧ t.dev.job g epoch = none)) ∧
    (frameOk f 4096 = true → uncounted st.dev → st.dev.mem.errs = [] →
      let peer := (st.dev.peerAt p f.ip).getD 0
      let r (seq : Nat) (bs : List Byte) : SentFrame :=
        { port := n, ftype := 8, g := 0, epoch, peer := rank, stripe := f.hdr.stripe.toNat, seq, flags := 0, payload := bs,
          op := 7, off := f.hdr.off.toNat, net := some (st.dev.netTo p peer 0 f.hdr.stripe.toNat) }
      let sealed (k : Option (BitVec 256)) (x : SentFrame) : SentFrame := match k with | some k => x.seal k | none => x
      let want := st.dev.served p f.hdr.off.toNat f.hdr.plen.toNat
      (∀ k as, st.dev.farKey p f.ip = .ok k → want = some as →
        exec (.farReq f) st = .next (withDev st (st.dev.send (sealed k (r 0 (as.map fun a => st.dev.rim.byte a)))))) ∧
      (∀ k, st.dev.farKey p f.ip = .ok k → want = none →
        exec (.farReq f) st = .next (withDev st (st.dev.send (sealed k (r 6 []))))) ∧
      (∀ e, st.dev.farKey p f.ip = .error e → exec (.farReq f) st = .next (withDev st (st.dev.send (r e []))))) ∧
    (∀ x a, frameOk f 4096 = true → st.dev.farRead p epoch = some (x, a) →
      (seq ≠ 0 → exec (.farRsp f) st = .next (withDev st (st.dev.farFail x a seq 0))) ∧
      (∀ bs, seq = 0 → st.dev.unseal (st.dev.winKey p a) p 8 f false = some bs →
        exec (.farRsp f) st = .next (withDev st (st.dev.farDeliver x f.hdr.off.toNat bs))) ∧
      (∀ bs q b, seq = 0 → st.dev.unseal (st.dev.winKey p a) p 8 f false = some bs → uncounted st.dev → st.dev.mem.errs = [] →
        x.r.kind = .copy → x.r.pieces = [q] → isFar q.src = true → q.rd = 0 → q.got = [] → 0 < q.len → bs.length = q.len →
        q.dsts = [b] → isLs b = false → f.hdr.off.toNat = (st.dev.winTarget p q.src).2 % 2 ^ 48 →
        (st.dev.ctx x.h x.n).part = p →
        ∃ t, exec (.farRsp f) st = .next t ∧ t.pending = st.pending ∧ t.dev.rim = (st.dev.gwrite b bs).rim))

/-- R80, R197, R201, R203, R204. After the end of an op its group's next one begins and the partition's others go on; what the
event itself does is stated before that, and after it where the op is the only one.
Commands that it has complete, by their own effect: rtoTimeout, rnrRetryTimer, rendezvousTimeout, optmoTimeout,
barrovOpComplete. -/
def Obligations.BarrovTimersAndCompletion : Prop :=
  ∀ (st : State) (id : StripeId) (x : StripeSt) (g : BitVec 12) (epoch : BitVec 32) (j : BarrovJob), st.dev.sys.railsUp = true →
    let jobs := st.dev.brv.jobs.filter fun j => !(j.g == g.toNat && j.epoch == epoch.toNat)
    let p := g.toNat / 256
    let goesOn (d : Dev) : Dev := (d.nextJob g.toNat).advance p
    let resent (y : StripeSt) : Prop := x.port < 48 →
      (st.dev.port x.port).ignoring.contains (st.dev.fld rBrvCfg 19 16) = false → x.acked < x.frames →
      (st.dev.resend y).stripe id = some y ∧
      putsOut (st.dev.resend y) x.port (fun z => z.ftype == 1 && z.g == id.g.toNat && z.epoch == id.epoch.toNat &&
        z.seq == x.acked)
    (st.dev.stripe id = some x → x.acked < x.frames → x.retries < st.dev.fld rBrvTmo 19 16 →
      let y := { x with retries := x.retries + 1 }
      exec (.rtoTimeout id) st = .next (withDev st (((st.dev.resend y).nextJob id.g.toNat).advance (id.g.toNat / 256))) ∧
      resent y) ∧
    (st.dev.stripe id = some x → x.rnr = true →
      exec (.rnrRetryTimer id) st = .next (withDev st (st.dev.resend { x with rnr := false })) ∧ resent { x with rnr := false }) ∧
    (st.dev.job g.toNat epoch.toNat = some j →
      let u := st.dev.endJob j 0x21 (some 3)
      (u.brv.jobs = jobs ∧ u.grpFault g.toNat = true ∧ u.fld (rBrvGrp g.toNat) 295 288 = 3) ∧
      (j.begun = true → j.data = false → exec (.rendezvousTimeout g epoch) st = .next (withDev st (goesOn u))) ∧
      (exec (.optmoTimeout g epoch) st = .next (withDev st (goesOn u))) ∧
      (st.dev.brv.jobs = [j] → ∃ t, exec (.optmoTimeout g epoch) st = .next t ∧ t.pending = st.pending ∧
        t.dev.brv.jobs = [] ∧ t.dev.grpFault g.toNat = true ∧ t.dev.fld (rBrvGrp g.toNat) 295 288 = 3) ∧
      (∀ bs, j.data = true → st.dev.allAcked g.toNat epoch.toNat = true →
        ((st.dev.jobSet j).all fun b => j.sent.contains b) = true → st.dev.jobResult j = some bs →
        st.dev.chanHeld j.dst bs.length = false →
        exec (.barrovOpComplete g epoch) st = .next (withDev st (st.dev.completeJob j bs)) ∧
        (st.dev.brv.jobs = [j] → uncounted st.dev → st.dev.mem.errs = [] → isLs j.dst = false → bs ≠ [] →
          ((st.dev.ctx j.c.h.val j.c.n.val).requests.any fun r => r.kind == .barrov g.toNat epoch.toNat) = true →
          ∃ t, exec (.barrovOpComplete g epoch) st = .next t ∧ t.pending = st.pending ∧ t.dev.brv.jobs = [] ∧
            t.dev.rim = (st.dev.gwrite j.dst bs).rim)) ∧
      (∀ own b, let n := st.dev.grpMem g.toNat
        let rank := st.dev.grpRank g.toNat
        j.op = 2 → j.parity = none → j.o.rop = 0 → j.o.dtype = 0 → j.own = some own → 0 < rank → n = rank + 1 →
        st.dev.messageFrom j (rank - 1) = some b →
        st.dev.jobResult j = some ((List.range (j.len / 4)).flatMap fun k =>
          let s := (f32Add (leAt b (4 * k) 4) (leAt own (4 * k) 4)).code
          leBytes 4 (if (readF32 s).1.isNan then 0x7FC00000 else s))))

/-- R187 to R196. `uncounted`: no counter slot counts. No stripe and no op stands where a link changes, so that none moves.
Commands that it has complete, by their own effect: frameReceive, pfcPause, pfcWd, pfcWdEnd, cnp, rateIncreaseTimer, rekey,
associationExhausted, linkDown, linkUp, qpError, peerDelayTimeout, qpRetryTimeout. -/
def Obligations.PortEventsAndRates : Prop :=
  ∀ (st : State) (i : FrameInfo) (port : PortN) (prio : Fin 8) (k : Nat) (m : PdelayMeas) (x : Qp) (a : Fin 65536) (y : StripeSt),
    st.dev.sys.railsUp = true → uncounted st.dev →
    let n := port.val
    let d := st.dev
    let z := d.port n
    let pfc := d.reg (rPortPfc n)
    let got (d : Dev) : Dev := let e := d.addBytes n i.len 0; e.setPort n { e.port n with lastRx := d.now }
    (i.port = port → d.flag (rPortCfg n) 31 = true → d.ganged n = false → d.gateOn (gPort n) = true → i.fecCorrected = 0 →
      i.fecUncorrectable = false →
      (i.fcsOk = false → exec (.frameReceive i) st = .next (withDev st (((got d).portCount n 2).portErr n 1))) ∧
      (i.fcsOk = true → 64 ≤ i.len → i.len ≤ d.fld (rPortCfg n) 15 0 → d.flag (rPortCfg n) 20 = false → i.sec = none →
        (∀ (ver ty : BitVec 8), i.body = .barrov ver ty (some y.id) → (ver ≠ 1 ∨ ty = 0 ∨ 8 < ty.toNat) →
          exec (.frameReceive i) st = .next (withDev st (((got d).portCount n 2).portErr n 1))) ∧
        (∀ ty : BitVec 8, i.body = .barrov 1 ty (some y.id) → 1 ≤ ty.toNat → ty.toNat ≤ 8 → i.ce = true →
          d.stripe y.id = some y →
          exec (.frameReceive i) st = .next (withDev st (((got d).portCount n 7).setStripe { y with ce := true }))))) ∧
    (d.ganged n = false →
      (bit pfc (24 + prio.val) = true →
        (z.pauseRx.contains prio.val = false → z.ignoring.contains prio.val = false →
          exec (.pfcPause port prio (.received true)) st = .next (withDev st
            (d.setPort n { z with pauseRx := z.pauseRx ++ [prio.val] }))) ∧
        (bits pfc 23 12 < min (1024 - (z.occ.filter fun y => y.1 != prio.val).foldl (fun s y => s + y.2) 0) k →
          z.pauseTx.contains prio.val = false →
          ∃ t f, exec (.pfcPause port prio (.occupancy k)) st = .next t ∧ t.pending = st.pending ∧
            prio.val ∈ (t.dev.port n).pauseTx ∧ f ∈ t.dev.brv.sent ∧ f.ftype = 0x88 ∧ f.port = n ∧ f.stripe = prio.val ∧
            f.seq = 1)) ∧
      (exec (.pfcPause port prio (.received false)) st = .next (withDev st
        ((d.setPort n { z with pauseRx := z.pauseRx.filter fun j => j != prio.val }).release n)))) ∧
    (let gone (f : SentFrame) : Bool := d.framePrio f.ftype == some prio.val
     let lost := countIf gone z.queued
     z.pauseRx.contains prio.val = true → z.ignoring.contains prio.val = false → lost ≠ 0 →
      exec (.pfcWd port prio) st = .next (withDev st ((((d.setPort n { z with
        ignoring := z.ignoring ++ [prio.val], pauseRx := z.pauseRx.filter (fun j => j != prio.val),
        queued := z.queued.filter (fun f => !gone f) }).portCount n 5 lost).setFlag (rPortStatus n) 27 true).portRec n 0x25 prio.val))) ∧
    (exec (.pfcWdEnd port prio) st = .next (withDev st
      (d.setPort n { z with ignoring := z.ignoring.filter fun j => j != prio.val }))) ∧
    (d.flag (rPortStatus n) 28 = true →
      exec (.rekey port) st = .next (withDev st ((d.setPort n { z with txPn := 2 ^ 64 - 2 ^ 32 }).portRec n 0x27 z.assoc))) ∧
    (d.linkUp n = true → d.brv.stripes = [] → d.brv.jobs = [] →
      (d.flag (rPortStatus n) 28 = true → z.exhausted = true → ∃ t, exec (.associationExhausted port) st = .next t ∧ t.pending = st.pending ∧
        t.dev.linkUp n = false ∧ t.dev.flag (rPortStatus n) 26 = true ∧ (t.dev.port n).exhausted = true) ∧
      (∃ t, exec (.linkDown port) st = .next t ∧ t.pending = st.pending ∧ t.dev.linkUp n = false ∧
        t.dev.flag (rPortStatus n) 26 = true)) ∧
    (d.flag (rPortCfg n) 31 = true → d.fld (rPortCfg n) 30 28 ≠ 0 → d.ganged n = false → d.linkUp n = false →
      d.gateOn (gPort n) = true → d.flag (rClkPll (8 + n / 24)) 31 = true →
      ∃ t, exec (.linkUp port m) st = .next t ∧ t.pending = st.pending ∧ t.dev.linkUp n = true ∧
        t.dev.flag (rPortStatus n) 26 = true) ∧
    (exec (.peerDelayTimeout port) st = .next (withDev st ((d.setFld (rPortDist n) 45 45 0).setFld (rPortDist n) 47 46 3))) ∧
    (d.qp a.val = some x →
      (d.past50 x.cutAt = true → exec (.cnp (.qp a)) st = .next (withDev st (d.setQp { x with
        rate := max (x.rate * (256 - d.fld rBrvCc 7 0) / 256) (d.fld rBrvCc 31 24 * 1000), cutAt := d.now + 1 }))) ∧
      exec (.rateIncreaseTimer (.qp a)) st = .next (withDev st (d.setQp { x with
        rate := min (x.rate + d.fld rBrvCc 23 8 * 100) (d.lineRate x.path) })) ∧
      (x.error = false →
        (∃ t, exec (.qpError a) st = .next t ∧ t.pending = st.pending ∧ t.dev.qp a.val = some { x with error := true, wrs := [] }) ∧
        (x.retries < x.maxRetries → let r := { x with retries := x.retries + 1 }
          exec (.qpRetryTimeout a) st = .next (withDev st (forL r.wrs (fun w d => d.askRead r w) (d.setQp r))))))

/-! ## Ingest (11) -/

/-- Table 11-10, R210, R214, R221, R223, R228, R231 to R233. `v k` is parameter k. No granule of rim memory holds an error and
no counter slot counts, so that reading a log or a dictionary changes nothing.
Commands that it has complete, by their own effect: ingScratch, ingRingCfg, ingShard, ingRestore, ingStop, ingDictLoad,
ingBudget, ingQuota. -/
def Obligations.IngestCommands : Prop :=
  ∀ (st : State) (q : QueueN) (c : FetchedCmd) (e : Dev), st.dev.sys.railsUp = true →
    let p := c.part
    p < 16 → e.partValid p = true → uncounted e → e.mem.errs = [] →
    (let v := (c.params [.num 8, .num 2]).at
     Accepted st.dev q 0x501 [.num 8, .num 2] c e → v 0 < 2 ^ 48 → v 0 % (16 * MiB) = 0 → e.inShare p (v 0) (v 1 * (16 * MiB)) = true →
      exec (.ingScratch q) st = .next (withDev st (((e.setReg (rIngScrBase p) (v 0)).setReg (rIngScrSize p) (v 1)).done
        (began c)))) ∧
    (let spec := [PKind.num 1, .num 8, .num 2, .num 4, .num 2, .num 2, .num 1, .num 1, .num 1, .num 1, .num 2, .num 1, .num 2,
       .num 2, .num 1]
     let v := (c.params spec).at
     let r := v 0
     let cfg := 2 ^ 63 + v 8 * 2 ^ 62 + v 6 * 2 ^ 60 + v 7 * 2 ^ 56 + v 5 * 2 ^ 45 + v 3 * 2 ^ 27 + v 4 * 2 ^ 11
     Accepted st.dev q 0x502 spec c e → r < 4 → v 1 < 2 ^ 48 → v 1 % 4096 = 0 → 2 ≤ v 2 → v 2 < 2 ^ 16 → 1 ≤ v 3 → v 3 ≤ 131072 →
      4 ≤ v 4 → v 4 ≤ 16384 → v 4 % 4 = 0 → 1 ≤ v 5 → v 5 ≤ 1024 → v 6 < 4 → (v 7 ≤ 3 ∨ v 7 = 9) → v 8 < 2 → v 9 < 3 →
      v 10 < 2 ^ 14 → v 11 ≤ 128 → (e.ring p r).shards = [] → e.firstBad p (v 1) (v 2 * entrySize cfg) = none →
      ∃ t, exec (.ingRingCfg q) st = .next t ∧ t.pending = st.pending ∧ t.dev.reg (rIngRingBase p r) = v 2 * 2 ^ 48 + v 1 ∧
        t.dev.reg (rIngRingCfg p r) = cfg ∧ t.dev.ringOn p r = true ∧ t.dev.reg (rIngRingEsz p r) = entrySize cfg ∧
        t.dev.reg (rIngRingPtr p r) = 0) ∧
    (let spec := [PKind.num 1, .num 4, .num 8, .num 4, .num 8, .num 4, .num 8, .num 4]
     let v := (c.params spec).at
     let r := v 0
     let s := shardOf c.seq 1 (c.params spec)
     Accepted st.dev q 0x503 spec c e → r < 4 → e.ringOn p r = true → (e.ring p r).shards = [] → (e.ring p r).done = [] →
      e.shardBad p s = none → 0 < s.count →
      exec (.ingShard q) st = .next (withDev st (((e.setRing p r { e.ring p r with shards := [s] }).setReg (rIngLog p r)
        (s.cap * 2 ^ 96 + s.log)).updateCur p r))) ∧
    (let spec := [PKind.num 1, .bytes 64, .num 4, .num 8, .num 4, .num 8, .num 4, .num 8, .num 4]
     let v := (c.params spec).at
     let r := v 0
     let cur := v 1
     let s := shardOf c.seq 2 (c.params spec)
     let hd := e.rim.read s.log 16
     let lp := bits cur 319 288
     Accepted st.dev q 0x504 spec c e → r < 4 → e.ringOn p r = true → e.shardBad p s = none → lp < s.cap →
      bits cur 415 384 < s.count →
      ∃ t w, exec (.ingRestore q) st = .next t ∧ t.pending = st.pending ∧ (t.dev.ring p r).shards = [w] ∧ w.id = s.id ∧
        w.seq = c.seq ∧ w.pack = bits cur 415 384 ∧ w.fromFrame = bits cur 383 352 ∧ w.fromTok = bits cur 351 320 ∧
        w.logged = lp ∧ w.spareNext = bits cur 287 256 ∧ w.replay = e.readLog s.log lp (min (leAt hd 4 4) s.cap) ∧
        (t.dev.ring p r).rseq = bits cur 511 448 ∧ (t.dev.ring p r).ftag = bits cur 255 226 ∧ (t.dev.ring p r).rows = []) ∧
    (let r := (c.params [.num 1]).at 0
     Accepted st.dev q 0x505 [.num 1] c e → r < 4 →
      ∃ t, exec (.ingStop q) st = .next t ∧ t.pending = st.pending ∧ (t.dev.ring p r).shards = [] ∧
        (t.dev.ing.samples = e.ing.samples.filter fun s => !(s.id.p.val == p && s.id.ring.val == r)) ∧
        ∀ s ∈ (e.ring p r).shards, ∀ b ∈ t.dev.hq.fetched, b.seq ≠ s.seq) ∧
    (let v := (c.params [.num 1, .num 8]).at
     let n := leNat (e.rim.read (v 1 + 4) 4)
     let img := e.rim.read (v 1) (dictSize (min n 262144))
     Accepted st.dev q 0x506 [.num 1, .num 8] c e → v 0 < 4 → e.dictInUse p (v 0) = false →
      e.firstBad p (v 1) (dictSize (min n 262144)) = none → dictBad img = false →
      exec (.ingDictLoad q) st = .next (withDev st
        ((({ e with ing := { e.ing with dicts := alPut e.ing.dicts (p * 4 + v 0) img } } : Dev).setReg (rIngDict p (v 0))
          (2 ^ 127 + n * 2 ^ 64 + v 1)).done (began c)))) ∧
    (let v := (c.params [.num 1, .num 1]).at
     Accepted st.dev q 0x507 [.num 1, .num 1] c e → 2 ≤ v 0 → v 0 ≤ 64 → 1 ≤ v 1 → v 1 ≤ 50 →
      exec (.ingBudget q) st = .next (withDev st ((e.setReg (rIngBudget p) (v 1 * 2 ^ 8 + v 0)).done (began c)))) ∧
    (let v := (c.params [.num 1, .num 4, .num 4]).at
     let w := v 2 * 2 ^ 32 + v 1
     Accepted st.dev q 0x508 [.num 1, .num 4, .num 4] c e → v 0 < 6 → e.quotaOk p (v 0) w = true →
      exec (.ingQuota q) st = .next (withDev st ((e.setReg (rIngQuota p (v 0)) w).done (began c))))

/-- R210, R212 to R215, R217 to R220, R222, R228, R229, R232, R233. `uncounted` and no errors: reading a descriptor or an
object from rim memory changes nothing. All clauses but that of SAMPLE_START give the whole device after the step.
Commands that it has complete, by their own effect: sampleStart, sampleFetched, headerParse, sampleComplete, budgetExpiry,
fetchFail. -/
def Obligations.SamplesBecomeSegments : Prop :=
  ∀ (st : State) (i : SampleId) (s : Sample) (us : Nat), st.dev.sys.railsUp = true → uncounted st.dev → st.dev.mem.errs = [] →
    let p := i.p.val
    let r := i.ring.val
    let d := st.dev
    let x := d.ring p r
    let sh := x.shard
    let cfg := d.reg (rIngRingCfg p r)
    let desc := d.rim.read (sh.descs + 256 * i.sidx) 256
    let cls := codecClass (dCodec desc)
    let fresh : Sample := { id := i, stage := 1, cls, scratch := firstNeed desc, spare := 0xFFFFFFFF, log := [], desc, plain := [],
                            frames := 0, firstTag := 0, tries := 0, emitted := false, spent := 0 }
    let again (s : Sample) (reason : Nat) : Dev :=
      let e := (d.leaveEngine s).countReason p reason
      let l : LogEnt := { kind := 1, reason, sidx := i.sidx, x := sh.spareNext, y := s.frames }
      ((e.countIngest s.cls p 5 noSub 1).setRing p r (x.setShard { sh with spareNext := sh.spareNext + 1 })).setSample
        { s with stage := 0, spare := sh.spareNext, log := s.log ++ [l], scratch := 0, plain := [], frames := 0, firstTag := 0,
                 spent := 0 }
    (d.ringOn p r = true → x.shards ≠ [] → sh.ending = false → sh.full = false → d.flag rGovStatus 31 = false →
      d.sample i = none → sh.pack ≤ i.sidx → i.sidx < sh.count → (∀ e ∈ x.done, e.1 ≠ i.sidx) →
      d.startReason p r desc = none → sh.replaying i.sidx 0 = false →
      d.gateOn (gIcls cls) = true → d.hasCredit p cls = true → d.turn p cls = true →
      countIf (fun y => y.cls == cls && y.stage != 0) d.ing.samples < engines cls →
      d.reserve fresh (firstNeed desc) = some true →
      ∃ t, exec (.sampleStart i) st = .next t ∧ t.pending = st.pending ∧ t.dev.sample i = some fresh) ∧
    (d.sample i = some s →
      (∀ arrived, s.stage = 1 → d.hasCredit p 5 = true →
        let a := leAt s.desc 8 8
        let object := match dSrc s.desc with
          | 2 => d.mem.flash.read (flashAddr p a) (dLen s.desc)
          | 3 => d.rim.read a (dLen s.desc)
          | _ => arrived
        let e := d.leaveEngine s
        let spent := (e.deduct p 5 (dLen s.desc)).countIngest 5 p 7 noSub (dLen s.desc)
        match e.openObject p s.desc object with
        | .inr plain => exec (.sampleFetched i arrived) st = .next (withDev st (spent.setSample { s with stage := 2, plain }))
        | .inl reason => exec (.sampleFetched i arrived) st = .next (withDev st
            ((if reason = 5 then spent else e).reject s reason))) ∧
      (s.stage = 2 → match streamInfo s.desc s.plain with
        | none => exec (.headerParse i) st = .next (withDev st (d.reject s 9))
        | some c => match headerReason s.desc s.plain c with
          | some k => exec (.headerParse i) st = .next (withDev st (d.reject s k))
          | none => d.reserve s (scratchNeed s.desc c) = some true → exec (.headerParse i) st = .next (withDev st
              (d.setSample { s with stage := 3, scratch := scratchNeed s.desc c }))) ∧
      (s.stage = 3 → sh.replaying i.sidx s.frames = false → (isVideo (dCodec s.desc) = true → i.sidx = sh.pack) →
        let m := decode s.desc s.plain s.frames
        let n := unitsOf s.desc s.plain m
        let codec := dCodec s.desc
        let k := if isVideo codec then 1 else n
        let z := { s with spent := s.spent + us * 1000 }
        let e := (d.countIngest s.cls p 7 noSub k).noteTime p codec k (us * 1000 / k)
        let becomes (v : Dev) : Prop := exec (.sampleComplete i us) st = .next (withDev st v)
        let one (tokens : List Token) : Dev := (e.emit i (s.seg tokens)).completeSample { z with emitted := true }
        let next (v : Dev) (y : Sample) : Dev :=
          let y := { y with frames := s.frames + 1 }
          if Config.frames codec s.plain ≤ s.frames + 1 then (v.setSample y).completeSample y else (v.setSample y).pump p r
        let pixels (c : Img) : Img := resizeImg s.desc (dOutW s.desc) (dOutH s.desc) (orientImg s.desc c)
        s.spent + us * 1000 ≤ d.unitBudget p codec * n →
        (isImage codec = true → match Config.decodeFrame codec s.plain s.frames with
          | .error x => becomes (e.reject z (stopReason x))
          | .ok g => if dimBad codec g.w g.h then becomes (e.reject z 0xA) else match cropImg s.desc g.img with
            | none => becomes (e.reject z 0xF)
            | some c => becomes (one (patchTokens cfg 2 0 0 s.desc (pixels c)))) ∧
        (∀ rate chans, isAudio codec = true → m = .sound rate chans →
          becomes (one (audioTokens cfg (d.reg (rIngRingMel p r)) s.desc (mixAudio s.desc rate chans)))) ∧
        (∀ txt, isText codec = true → prepareText s.desc s.plain = some txt → txt.length ≤ 64 * MiB →
          becomes (one (textTokens s.desc (alGet [] d.ing.dicts (p * 4 + dDict s.desc)) txt))) ∧
        (∀ reason, m = .stop reason → becomes (e.reject z reason)) ∧
        (isVideo codec = true → match Config.decodeFrame codec s.plain s.frames with
          | .error x => becomes (e.reject z (stopReason x))
          | .ok g => if dimBad codec g.w g.h then becomes (e.reject z 0xA) else
            (frameEmitted s.desc s.frames = false → becomes (next e z)) ∧
            (frameEmitted s.desc s.frames = true → sh.fromFrame ≤ s.frames → bit (dFlags s.desc) 0 = false →
              match cropImg s.desc g.img with
              | none => becomes (e.reject z 0xF)
              | some c =>
                let tag := r * 2 ^ 30 + x.ftag % 2 ^ 30
                becomes (next ((e.setRing p r { x with ftag := (x.ftag + 1) % 2 ^ 30 }).emit i
                  { s.seg (patchTokens cfg 3 0 0 s.desc (pixels c)) with frame := s.frames, ftag := tag })
                  { z with firstTag := if s.emitted then s.firstTag else tag, log := [], emitted := true })))) ∧
      (sh.replaying i.sidx s.frames = false → sh.spareNext < sh.nspare → sh.nspare ≤ 0xFFFFFFFF →
        let budget := d.unitBudget p (dCodec s.desc) * unitsOf s.desc s.plain (decode s.desc s.plain s.frames)
        (s.stage = 3 → exec (.budgetExpiry i) st = .next (withDev st (again { s with spent := max s.spent budget } 0xE))) ∧
        (s.stage = 1 → exec (.fetchFail i) st = .next (withDev st (again s 1)))) ∧
      (sh.replaying i.sidx s.frames = true → s.stage = 1 → s.tries < 3 →
        exec (.fetchFail i) st = .next (withDev st (d.setSample { s with tries := s.tries + 1 }))))

/-- R225, R226, R230, R232. No take still copies the entry that the row would stand in.
Commands that it has complete, by their own effect: rowWritten, logFull, roiListRead, replayRoiTimeout. -/
def Obligations.RowsLogsAndLists : Prop :=
  ∀ (st : State) (p : PartN) (ring : Fin 4) (w : Row) (rest : List Row) (sh : Shard), st.dev.sys.railsUp = true →
    let r := ring.val
    let d := st.dev
    let x := d.ring p.val r
    let wr := d.ringWritten p.val r
    let nent := d.ringNent p.val r
    let ended (t : State) : Prop := t.pending = st.pending ∧ (t.dev.ring p.val r).shards = [] ∧
      (∀ s ∈ t.dev.ing.samples, ¬ (s.id.p = p ∧ s.id.ring = ring)) ∧ ∀ b ∈ t.dev.hq.fetched, b.seq ≠ sh.seq
    (x.rows = w :: rest → d.ringOn p.val r = true → diff32 wr (d.ringReleased p.val r) < nent →
      d.entryInUse p.val r ((wr + 2 ^ 32 - nent) % 2 ^ 32) = false →
      (∃ t, exec (.rowWritten p ring) st = .next t ∧ t.pending = st.pending ∧
        t.dev.ringWritten p.val r = (wr + 1) % 2 ^ 32 ∧ (t.dev.ring p.val r).landed = x.landed ++ [w]) ∧
      (x.shards = [] → exec (.rowWritten p ring) st = .next (withDev st ((((d.gwrite (d.ringEntry p.val r wr)
        (rowBytesOf (d.reg (rIngRingCfg p.val r)) d.now w)).setWritten p.val r ((wr + 1) % 2 ^ 32)).setRing p.val r
        { x with rows := rest, landed := x.landed ++ [w] }).updateCur p.val r)))) ∧
    (x.shards = [sh] →
      (sh.full = true → ∃ t, exec (.logFull p ring) st = .next t ∧ ended t) ∧
      ((sh.replay.any fun l => l.kind == 2) = true → ∃ t, exec (.replayRoiTimeout p ring) st = .next t ∧ ended t)) ∧
    (∀ a n tag posted, x.posted = (a, n, tag) :: posted →
      let b := d.gread p.val a (4 * n)
      let l : RoiList := { tag, corners := (List.range n).map fun k => (leAt b (4 * k) 2, leAt b (4 * k + 2) 2) }
      uncounted d → d.mem.errs = [] →
      exec (.roiListRead p ring) st = .next (withDev st (d.setRing p.val r
        { x with posted, rois := (l :: x.rois).take 16 })))

/-! ## Custody (12) -/

/-- R239 to R241, R251, Tables 12-2, 12-5 and 12-6. Which report index and which session index are given is the model's choice
(log 68): the lowest free one. A report's parts after its signature's input are the opaque crypto functions of log 6.
Commands that it has complete, by their own effect: attest, attCert, reportExpiry, sessionOpen, sessionClose, ownerSet,
lockoutExpiry. -/
def Obligations.AttestationAndSessions : Prop :=
  ∀ (st : State) (q : QueueN) (c : FetchedCmd) (e : Dev), st.dev.sys.railsUp = true →
    (∀ g : Dev,
      let spec := [PKind.bytes 32, .num 8]
      let v := (c.params spec).at
      let key := g.draw
      let kp := Config.mlkemKeygen key.1
      let ek := (kp.1 ++ List.replicate 1568 0).take 1568
      let body := g.reportBody c.part (leBytes 32 (v 0)) ek
      let sig := (Config.hssSign (g.cus.epoch - 1) g.cus.leaf body ++ List.replicate 2964 0).take 2964
      Accepted st.dev q 0x601 spec c e → (c.part = 0xFF ∨ (c.part < 16 ∧ e.partValid c.part = true)) →
      e.waitingReports.length < 16 → (e.interim (began c)).nextLeaf = some g →
      ∃ idx, idx < 16 ∧ (∀ r ∈ e.waitingReports, r.idx ≠ idx) ∧
        let rep : Report := { idx, part := c.part, decaps := kp.2, digest := Config.sha256 body, expired := false }
        let f : Dev := { key.2 with
                         cus := { key.2.cus with leaf := g.cus.leaf + 1,
                                                 reports := (e.cus.reports.filter fun (r : Report) => r.idx != idx) ++ [rep] },
                         sys := { key.2.sys with attFlash := (g.cus.epoch, g.cus.leaf + 1, true) },
                         hostMem := key.2.hostMem.write (v 1) (body ++ sig) }
        exec (.attest q true) st = .next (withDev st (f.showLeaf.done { began c with interim := true } idx))) ∧
    (let v := (c.params [.num 8]).at
     Accepted st.dev q 0x602 [.num 8] c e →
      exec (.attCert q) st = .next (withDev st
        (({ e with hostMem := e.hostMem.write (v 0) Config.attCert } : Dev).done (began c)))) ∧
    (∀ (i : Fin 16) (r : Report), r ∈ st.dev.cus.reports → r.idx = i.val →
      ∃ t, exec (.reportExpiry i) st = .next t ∧ t.pending = st.pending ∧ t.dev.regs = st.dev.regs ∧
        { r with decaps := 0, expired := true } ∈ t.dev.cus.reports ∧
        ∀ x, x.idx ≠ i.val → (x ∈ t.dev.cus.reports ↔ x ∈ st.dev.cus.reports)) ∧
    (∀ (r : Report) (s : Nat),
      let spec := [PKind.num 1, .bytes 1568]
      let v := (c.params spec).at
      let k := Config.mlkemDecaps r.decaps (leBytes 1568 (v 1))
      let pr : Principal := { k := s + 1, kek := Config.hkdf r.digest k (ascii "ez48 kek"),
                              mac := Config.hkdf r.digest k (ascii "ez48 mac"), lockouts := 0, born := e.cus.opened }
      Accepted st.dev q 0x603 spec c e → e.cus.reports.find? (fun x => x.idx == v 0 && x.part == c.part) = some r →
      r.expired = false → s < 256 → e.prinValid (s + 1) = false → (∀ j < s, e.prinValid (j + 1) = true) →
      ∃ t, exec (.sessionOpen q) st = .next t ∧ t.pending = st.pending ∧
        t.dev.cus.reports = e.cus.reports.filter (fun x => x.idx != r.idx) ∧
        t.dev.cus.principals = e.cus.principals ++ [pr] ∧ t.dev.cus.opened = e.cus.opened + 1 ∧
        t.dev.prinValid (s + 1) = true ∧ t.dev.sessionOf (s + 1) (if 16 ≤ r.part then 0xFF else r.part) = true ∧
        t.dev.fld (rCusPrin (s + 1)) 120 0 = 0) ∧
    (let v := (c.params [.num 1]).at
     Accepted st.dev q 0x604 [.num 1] c e → v 0 < 256 →
      ∃ t, exec (.sessionClose q) st = .next t ∧ t.pending = st.pending ∧
        t.dev.cus.principals = e.cus.principals.filter (fun x => x.k != v 0 + 1) ∧ t.dev.reg (rCusPrin (v 0 + 1)) = 0) ∧
    (∀ s : Principal,
      let k := if e.ownerSet then (c.params [.num 1]).at 0 + 1 else (prinOf (leAt c.entry 0x78 4)).getD 0
      Accepted st.dev q 0x605 [.num 1] c e → e.principal k = some s → e.sessionOf k 0xFF = true →
      ∃ t, exec (.ownerSet q) st = .next t ∧ t.pending = st.pending ∧ t.dev.ownerSet = true ∧
        t.dev.principal 0 = some { s with k := 0, lockouts := 0 } ∧ t.dev.reg (rCusPrin 0) = 2 ^ 127 + 2 ^ 121 ∧
        t.dev.sys.ownerFlash = some (s.kek, s.mac, 0)) ∧
    (∀ k : Fin 257, st.dev.flag (rCusPrin k.val) 126 = true →
      exec (.lockoutExpiry k) st = .next (withDev st (st.dev.setFlag (rCusPrin k.val) 126 false)))

/-- R242 to R246, Tables 11-2 and 12-6. `detail` names the slot where the spec gives DETAIL one. That an UNSEAL's plaintext lands
when it starts, and a SEAL's envelope when it completes, is the model's choice (log 69). `uncounted` and no errors: reading
the source changes nothing.
Commands that it has complete, by their own effect: keyInstall, keyErase, policySet, sealRange, unsealRange, copyOut,
sealComplete. -/
def Obligations.KeysAndSealing : Prop :=
  ∀ (st : State) (q : QueueN) (c : FetchedCmd) (e : Dev), st.dev.sys.railsUp = true →
    let p := c.part
    (let spec := [PKind.num 2, .num 1, .bytes 40]
     let v := (c.params spec).at
     let k := c.prin
     let own := if k = 0 then 2 ^ 61 else p % 16 * 2 ^ 57 + (k - 1) * 2 ^ 45
     (st.dev.startable q.val = some c → k ≠ 0 → p < 16 → st.dev.switchedOut p = true → exec (.keyInstall q) st = .next st) ∧
     (Accepted st.dev q 0x606 spec c e → (k = 0 ∨ 16 ≤ p ∨ st.dev.switchedOut p = false) → v 0 < 4096 → e.flag rCusStatus 62 = false →
      (if k = 0 then v 1 = 5 else 1 ≤ v 1 ∧ v 1 ≤ 4) → e.flag (rCusSlot (v 0)) 63 = false →
      match Config.unwrap (((e.principal k).map Principal.kek).getD 0) (leBytes 40 (v 2)) with
      | some key => ∃ t, exec (.keyInstall q) st = .next t ∧ t.pending = st.pending ∧
          t.dev.reg (rCusSlot (v 0)) = 2 ^ 63 + own + v 1 * 2 ^ 53 ∧ alGet 0 t.dev.cus.slotKeys (v 0) = key ∧
          t.dev.cus.slotBy.get (v 0) = e.bornOf k ∧
          ∀ n, n ≠ v 0 → t.dev.reg (rCusSlot n) = e.reg (rCusSlot n) ∧ alGet 0 t.dev.cus.slotKeys n = alGet 0 e.cus.slotKeys n
      | none => exec (.keyInstall q) st = .next (withDev st (e.fail (began c) 0x15 (detail 0 0 0 0 (v 0)))))) ∧
    (let slot := (c.params [.num 2]).at 0
     let r := e.reg (rCusSlot slot)
     Accepted st.dev q 0x607 [.num 2] c e → slot < 4096 → bit r 63 = true → bit r 62 = false → e.mayErase c.prin p slot = true →
      ∃ t, exec (.keyErase q) st = .next t ∧ t.pending = st.pending ∧
        (∀ x purpose, t.dev.slotFor slot x purpose = none) ∧
        (e.slotUsed slot = false → t.dev.reg (rCusSlot slot) = 0 ∧ alGet 0 t.dev.cus.slotKeys slot = 0 ∧
          ∀ b ∈ t.dev.hq.fetched, b.seq ≠ c.seq) ∧
        (e.slotUsed slot = true → t.dev.flag (rCusSlot slot) 62 = true ∧ (slot, c.seq) ∈ t.dev.cus.erasing ∧
          alGet 0 t.dev.cus.slotKeys slot = alGet 0 e.cus.slotKeys slot)) ∧
    (let x := (c.params [.num 1]).at 0
     Accepted st.dev q 0x608 [.num 1] c e → x ≤ 1 → p < 16 → e.partValid p = true →
      ∃ t, exec (.policySet q) st = .next t ∧ t.pending = st.pending ∧ t.dev.flag (rCusPol p) 63 = decide (x = 1) ∧
        t.dev.fld (rCusPol p) 31 0 = (e.fld (rCusPol p) 31 0 + 1) % 2 ^ 32 ∧
        (e.flag (rCusPol p) 63 = false ∨ x = 1 ∨ (∀ g ∈ e.groupsOn p, e.grpKey g ≠ 0xFFFF) →
          t = withDev st ((e.setReg (rCusPol p) (x * 2 ^ 63 + (e.fld (rCusPol p) 31 0 + 1) % 2 ^ 32)).done (began c)))) ∧
    (let spec := [PKind.num 2, .num 8, .num 8, .num 8, .num 8]
     let v := (c.params spec).at
     let slot := v 0
     p < 16 → e.partValid p = true → uncounted e → e.mem.errs = [] → (∀ key, e.sealKey slot p = some key →
      (Accepted st.dev q 0x609 spec c e → 1 ≤ v 2 → v 2 ≤ 2 ^ 32 → e.fld (rCusSlot slot) 32 0 < 2 ^ 32 →
        e.sealBad p (v 1) (v 2) true = none → e.sealBad p (v 3) (v 2 + 48) false = none →
        let d := e.setFld (rCusSlot slot) 32 0 (e.fld (rCusSlot slot) 32 0 + 1)
        let iv := d.draw
        let j : SealJob := { seq := c.seq, p, isUnseal := false, slot, dst := v 3, len := v 2, ok := true,
                             bytes := envelope key (v 4) (BitVec.ofNat 96 iv.1.toNat) (d.gread p (v 1) (v 2)) }
        exec (.sealRange q) st = .next (withDev st { iv.2 with cus := { iv.2.cus with seals := e.cus.seals ++ [j] } })) ∧
      (Accepted st.dev q 0x60A spec c e → 48 ≤ v 2 → v 2 ≤ 2 ^ 32 + 48 → e.sealBad p (v 1) (v 2) false = none →
        e.sealBad p (v 3) (v 2 - 48) true = none →
        let obj := e.gread p (v 1) (v 2)
        leAt obj 0 4 = 0x4F454E31 → leAt obj 4 2 = 1 → leAt obj 6 2 = 0 → leAt obj 0x1C 4 = 0 → leAt obj 8 8 = v 4 →
        let iv := BitVec.ofNat 96 (beNat (slice obj 0x10 12))
        let ct := slice obj 0x20 (v 2 - 48)
        let tag := BitVec.ofNat 128 (beNat (slice obj (v 2 - 16) 16))
        let j : SealJob := { seq := c.seq, p, isUnseal := true, slot, dst := v 3, len := v 2 - 48, bytes := [],
                             ok := (Config.gcmDec key iv (obj.take 32) ct tag).isSome }
        exec (.unsealRange q) st = .next (withDev st (({ e with cus := { e.cus with seals := e.cus.seals ++ [j] } } : Dev).gwrite
          (v 3) ((Config.gcmPlain key iv (obj.take 32) ct ++ List.replicate (v 2 - 48) 0).take (v 2 - 48))))))) ∧
    (∀ (cid : BitVec 32) (j : SealJob) (b : FetchedCmd), st.dev.cus.seals.find? (fun s =>
        (st.dev.fetchedCmd s.seq).any fun x => x.q == q.val && x.cid == cid.toNat) = some j → st.dev.fetchedCmd j.seq = some b →
      let d : Dev := { st.dev with cus := { st.dev.cus with seals := st.dev.cus.seals.filter fun (s : SealJob) => s.seq != j.seq } }
      exec (.sealComplete q cid) st = .next (withDev st (
        if j.isUnseal = false then
          let f := d.putOut j.p j.dst (placeBytes 0 j.bytes)
          let g := if rimTop ≤ j.dst then f else f.openRegion j.p j.dst j.bytes.length
          (if j.ok then g.done b else g.fail b 0x1E (detail 0 0 0 0 j.slot)).sweepErasing
        else if j.ok then (d.done b).sweepErasing
        else ((d.gwrite j.dst (List.replicate j.len 0)).fail b 0x1E (detail 0 0 0 0 j.slot)).sweepErasing))) ∧
    (let v := (c.params [.num 8, .num 8, .num 8]).at
     Accepted st.dev q 0x60B [.num 8, .num 8, .num 8] c e → 1 ≤ v 1 → v 1 ≤ 2 ^ 32 → p < 16 → e.partValid p = true →
      uncounted e → e.mem.errs = [] → e.flag (rCusPol p) 63 = true → e.sealBad p (v 0) (v 1) true = none → e.sealBad p (v 2) (v 1) false = none →
      exec (.copyOut q) st = .next (withDev st ((e.putOut p (v 2) (placeBytes 0 (e.gread p (v 0) (v 1)))).done (began c))))

/-- R237, R238, R252, R253, R323.
Commands that it has complete, by their own effect: fwUpdate, svnCommit, rootRevoke, killFuse, debugUnlock, debugLock. -/
def Obligations.FirmwareAndFuses : Prop :=
  ∀ (st : State) (q : QueueN) (c : FetchedCmd) (e : Dev), st.dev.sys.railsUp = true →
    (let v := (c.params [.num 1, .num 1]).at
     let k := v 0
     let img := if v 1 = 0 then c.buf else (e.bank k).other
     Accepted st.dev q 0x60C [.num 1, .num 1] c e → k ≤ 4 → v 1 ≤ 1 → (e.sys.pldm.map fun x => x.val) ≠ some k →
      (v 1 = 1 → (e.bank k).staged = true) →
      ∃ t, exec (.fwUpdate q) st = .next t ∧ t.pending = st.pending ∧ (t.dev.bank k).running = (e.bank k).running ∧
        (∀ j, j ≠ k → t.dev.bank j = e.bank j) ∧
        (if e.imageOk img then (t.dev.bank k).next = true ∧ (t.dev.bank k).other = img ∧ t.dev.flag rBootFw (8 * k + 6) = true
         else ∀ b ∈ t.dev.hq.fetched, b.seq ≠ c.seq)) ∧
    (let v := min 64 (max e.cus.svnMin (e.fld rFlfStatus 55 48))
     Accepted st.dev q 0x60D [] c e →
      exec (.svnCommit q) st = .next (withDev st
        ((({ e with cus := { e.cus with svnMin := v } } : Dev).setFld rCusStatus 46 40 v).done (began c)))) ∧
    (let r := Config.revokedRoot c.buf
     let all := Nat.lor e.cus.revoked (2 ^ r)
     let signer := Config.imageRoot c.buf
     Accepted st.dev q 0x60E [] c e →
      exec (.rootRevoke q) st = .next (withDev st
        (if 4 ≤ r then e.fail (began c) 0x5 else if all = 15 then e.fail (began c) 0x1A
         else if signer = r ∨ 4 ≤ signer ∨ bit e.cus.revoked signer ∨ !Config.imageSigned c.buf then e.fail (began c) 0x5
         else (({ e with cus := { e.cus with revoked := all } } : Dev).setFld rCusStatus 59 56 all).done (began c)))) ∧
    (Accepted st.dev q 0x610 [] c e → e.cus.killFuse = false → e.cus.unlock = none →
      ∃ t, exec (.debugUnlock q) st = .next t ∧ t.pending = st.pending ∧
        (∀ n < 4096, t.dev.flag (rCusSlot n) 63 = false) ∧ (∀ s < 256, t.dev.prinValid (s + 1) = false) ∧
        (∀ g < 16, ∀ a, (g + 1) * sectorBytes - t.dev.carveBytes ≤ a → a < (g + 1) * sectorBytes → t.dev.rim.byte a = 0) ∧
        (t.dev.fld rCusStatus 15 0 = 0 → t.dev.flag rCusStatus 62 = true ∧ t.dev.flag rCusStatus 61 = true) ∧
        (t.dev.fld rCusStatus 15 0 ≠ 0 → t.dev.cus.unlock = some c.seq)) ∧
    (Accepted st.dev q 0x611 [] c e →
      let f := e.setFlag rCusStatus 62 false
      exec (.debugLock q) st = .next (withDev st (if e.ownerSet
        then ({ f with sys := { f.sys with tap := Tap.inReset } } : Dev).done (began c) else e.fail (began c) 0x13))) ∧
    (Accepted st.dev q 0x60F [] c e →
      ∃ t, exec (.killFuse q) st = .next t ∧ t.pending = st.pending ∧ t.dev.cus.killFuse = true ∧ t.dev.cus.unlock = none ∧
        t.dev.flag rGlbId 8 = true ∧ t.dev.flag rCusStatus 63 = true ∧ t.dev.flag rCusStatus 62 = false ∧
        t.dev.sys.tap = Tap.inReset ∧ ∀ s, e.cus.unlock = some s → s ≠ c.seq → ∀ b ∈ t.dev.hq.fetched, b.seq ≠ s)

/-! ## Partitions (14) -/

/-- R247, R248, R279 to R281, R287, R358, Table 14-1. The encodings of GROUP, MEMBER and STATE are Table 14-6's.
Commands that it has complete, by their own effect: partitionCreate, partitionDestroy, sectorZeroised, partitionReset. -/
def Obligations.PartitionsAreCreatedAndEnd : Prop :=
  ∀ (st : State) (q : QueueN) (c : FetchedCmd) (e : Dev), st.dev.sys.railsUp = true →
    let p := c.part
    (let spec := [PKind.num 2, .num 1, .num 1, .num 1, .num 1, .num 8, .num 1, .num 1, .num 1, .num 4]
     let v := (c.params spec).at
     let x := creationOf p (c.params spec)
     Accepted st.dev q 0x701 spec c e → 1 ≤ v 0 → v 0 < 2 ^ 16 → (v 1 ≤ 7 ∨ v 1 = 0xF) → v 2 ≤ 3 → v 3 < 256 → v 4 < 256 →
      v 5 < 2 ^ 48 → v 8 ≤ 3 → 2000 ≤ v 9 → v 9 ≤ 1000000 → p < 16 → e.partValid p = false → e.createParam x = none →
      e.createBusy x = false →
      (∀ h < 2, (e.groupMembers x).isEmpty = true → sectorsOn x.sectors h ≠ 0 → e.flag (rSeqLock h) 0 = false) →
      ∃ t, exec (.partitionCreate q) st = .next t ∧ t.pending = st.pending ∧ t.dev.partValid p = true ∧ t.dev.sectors p = v 0 ∧
        t.dev.sliceGroup p = v 1 ∧ t.dev.memberIdx p = v 2 ∧ t.dev.fld (rPrtCfg p) 43 36 = v 3 ∧
        t.dev.fld (rPrtCfg p) 51 44 = v 4 ∧ t.dev.fld (rPrtCfg p) 53 52 = v 8 ∧ t.dev.reg (rPrtPorts p) = v 5 ∧
        t.dev.reg (rPrtSlice p) = v 9 ∧
        (e.groupMembers x = [] → t.dev.partState p = 1 ∧ (∀ g < 16, bit (v 0) g = true → t.dev.residentOf g = some p) ∧
          ∀ y ∈ t.dev.ctxsOf p, (t.dev.ctx y.1 y.2).state = .idle ∧ (t.dev.ctx y.1 y.2).part = p) ∧
        (e.groupMembers x ≠ [] → t.dev.partState p = 2 ∧ t.dev.reg rPrtSectRes = e.reg rPrtSectRes ∧
          ∃ i, t.dev.image p = some i ∧ i.count = 0 ∧ i.ls = [] ∧ ∀ y ∈ i.ctxs, y.2.state = .idle ∧ y.2.part = p)) ∧
    (Accepted st.dev q 0x702 [] c e → p < 16 → e.partValid p = true → e.partState p ≠ 6 →
      ∃ t, exec (.partitionDestroy q) st = .next t ∧ t.pending = st.pending ∧
        (e.live p = true → (t.dev.part p).goal = .destroy ∧ (t.dev.part p).cmd = some c.seq ∧ t.dev.partState p = 6 ∧
          t.dev.partValid p = true) ∧
        (e.live p = false → t = withDev st ((e.interim (began c)).destroyNow p (some c.seq)) ∧ t.dev.partValid p = false ∧
          ((e.mates p).all (fun m => m == p) = true → t.dev.partState p = 6 ∧ (t.dev.part p).cmd = some c.seq ∧
            ∀ g < 16, e.holds p g = true → t.dev.dirty g = true) ∧
          ((e.mates p).all (fun m => m == p) = false → t.dev.partState p = 0))) ∧
    (∀ g : Fin 16, st.dev.dirty g.val = true →
      ∃ t, exec (.sectorZeroised g) st = .next t ∧ t.pending = st.pending ∧ t.dev.dirty g.val = false ∧
        (∀ a, g.val * sectorBytes ≤ a → a < (g.val + 1) * sectorBytes - st.dev.carveBytes → t.dev.rim.byte a = 0) ∧
        ∀ r < 16, (st.dev.part r).zeroing = 2 ^ g.val → ∀ b, (st.dev.part r).cmd = some b →
          t.dev.partState r = 0 ∧ ∀ x ∈ t.dev.hq.fetched, x.seq ≠ b) ∧
    (Accepted st.dev q 0x706 [] c e → (e.devQueue c.q = true ∨ c.q = 0) → p < 16 → e.partValid p = true → e.partState p ≠ 6 →
      (e.part p).goal ≠ .reset →
      ∃ t, exec (.partitionReset q) st = .next t ∧ t.pending = st.pending ∧
        (e.live p = true → (t.dev.part p).goal = .reset ∧ (t.dev.part p).cmd = some c.seq ∧ t.dev.partState p = 3) ∧
        (e.live p = false → t = withDev st ((e.interim (began c)).resetNow p (some c.seq)) ∧ t.dev.partFatal p = false ∧
          ∀ b ∈ t.dev.hq.fetched, b.seq ≠ c.seq))

/-- R282 to R286, Table 14-5. The order of the steps within one command is Table 14-2's and R283's.
Commands that it has complete, by their own effect: prtSlice, prtPreempt, prtWays, sliceEnd, preemptDrainTimeout,
drainComplete, saveComplete, restoreComplete. -/
def Obligations.SlicesAndPreemption : Prop :=
  ∀ (st : State) (q : QueueN) (c : FetchedCmd) (e : Dev) (pn : PartN), st.dev.sys.railsUp = true →
    let p := c.part
    let r := pn.val
    let d := st.dev
    (p < 16 → e.partValid p = true →
      (let v := (c.params [.num 4]).at 0
       Accepted d q 0x703 [.num 4] c e → 2000 ≤ v → v ≤ 1000000 →
        exec (.prtSlice q) st = .next (withDev st ((e.setReg (rPrtSlice p) v).done (began c)))) ∧
      (let v := (c.params [.num 1]).at 0
       Accepted d q 0x704 [.num 1] c e →
        (v = 0 → e.partFatal p = false → exec (.prtPreempt q) st = .next (withDev st
          ((if e.maySwitch p then e.beginSwitch p else e).done (began c)))) ∧
        (v = 1 → ∃ t, exec (.prtPreempt q) st = .next t ∧ t.pending = st.pending ∧ t.dev.parked p = true ∧
          (e.partState p = 1 → e.anyDebugHalt p = false → (t.dev.part p).goal = .switch ∧ t.dev.partState p = 3)) ∧
        (v = 2 → e.partFatal p = false → ∃ t, exec (.prtPreempt q) st = .next t ∧ t.pending = st.pending ∧
          t.dev.parked p = false)) ∧
      (let v := (c.params [.num 1, .num 1, .num 1]).at
       Accepted d q 0x705 [.num 1, .num 1, .num 1] c e → v 0 ≤ 1 → (e.ctxNum p (v 0)).isSome = true →
        v 1 ≤ (e.freeWays (v 0)).length →
        (v 2 = 0 ∨ v 2 < (e.mates p).foldl (fun n m => n + (e.waysOf m (v 0)).length) 0) →
        exec (.prtWays q) st = .next (withDev st
          ((e.setPart p { e.part p with ways := (e.part p).ways ++ [(v 0, v 1, v 2)] }).done (began c))))) ∧
    (d.maySwitch r = true → ∃ t, exec (.sliceEnd pn) st = .next t ∧ t.pending = st.pending ∧ (t.dev.part r).goal = .switch ∧
      t.dev.partState r = 3 ∧ (d.unstoppable r = false → ∀ y ∈ d.ctxsOf r, (d.ctx y.1 y.2).part = r →
        (t.dev.ctx y.1 y.2).state ≠ .running)) ∧
    (d.draining r = true → (∀ x ∈ (d.stopForDrain r).inFlight r, ∀ g ep, x.r.kind ≠ .barrov g ep) →
      ∃ t, exec (.preemptDrainTimeout pn) st = .next t ∧ t.pending = st.pending ∧
        (∀ y ∈ d.ctxsOf r, (d.ctx y.1 y.2).part = r → (t.dev.ctx y.1 y.2).streams = []) ∧
        ∀ x ∈ (d.stopForDrain r).inFlight r, (t.dev.ctx x.h x.n).tagErr.contains x.r.tag = true ∧
          ∀ y ∈ (t.dev.ctx x.h x.n).requests, y.id ≠ x.r.id) ∧
    (d.draining r = true → d.unstoppable r = false →
      ((d.part r).goal ≠ .none → (d.stopForDrain r).drained r = true → ∀ us,
        let f := (d.stopForDrain r).settleAll r
        ((d.part r).goal = .switch → exec (.drainComplete pn us) st = .next (withDev st ((f.overrun r us).beginSaving r)) ∧
          ∃ t, exec (.drainComplete pn us) st = .next t ∧ t.dev.partState r = 4 ∧ (t.dev.part r).goal = .none ∧
            (t.dev.part r).saves = (f.part r).saves + 1 ∧
            ∃ i, t.dev.image r = some i ∧ i.count = (f.part r).saves + 1 ∧ i.sectors = f.sectors r) ∧
        ((d.part r).goal = .destroy → exec (.drainComplete pn us) st = .next (withDev st (f.destroyNow r (f.part r).cmd))) ∧
        ((d.part r).goal = .reset → exec (.drainComplete pn us) st = .next (withDev st (f.resetNow r (f.part r).cmd)))) ∧
      ((d.part r).goal = .none → d.drained r = true → ∀ us, ∃ t, exec (.drainComplete pn us) st = .next t ∧
        t.pending = st.pending ∧ t.dev.psvPhase r = 2)) ∧
    (d.partState r = 4 → ∃ t, exec (.saveComplete pn) st = .next t ∧ t.pending = st.pending ∧
      (∀ y ∈ d.ctxsOf r, (t.dev.ctx y.1 y.2).state = .absent) ∧
      (∀ g < 16, d.holds r g = true → ∀ a, g * 16 * 0x200000 ≤ a → a < (g * 16 + 16) * 0x200000 → t.dev.ls.byte a = 0) ∧
      let f := (d.clearHeld r).setPartState r 2
      ((f.afterMe r).filter f.runnable = [] → t.dev.partState r = 2 ∧ ∀ g < 16, d.holds r g = true → t.dev.residentOf g = none) ∧
      ∀ m ms, (f.afterMe r).filter f.runnable = m :: ms → (d.part m).cut < d.reg (rPrtSlice m) →
        t.dev.partState m = 5 ∧ ∀ g < 16, d.holds m g = true → t.dev.residentOf g = some m) ∧
    (d.partState r = 5 → (∀ j ∈ d.brv.jobs, j.g / 256 ≠ r) → ∀ bad : BitVec 16, (∀ g < 16, d.holds r g = true → bad.getLsbD g = false) →
      ∃ t, exec (.restoreComplete pn bad) st = .next t ∧ t.pending = st.pending ∧ t.dev.partState r = 1 ∧
        (d.image r = none → ∀ y ∈ d.ctxsOf r, (t.dev.ctx y.1 y.2).state = .idle ∧ (t.dev.ctx y.1 y.2).part = r) ∧
        ∀ i, d.image r = some i → (i.ctxs.map fun x => x.1) = ((d.ctxsOf r).map fun y => y.1 * 8 + y.2) →
          (∀ x ∈ i.regs, x.1 ≠ rPrtCfg r) → t.dev.image r = none ∧
          ∀ y ∈ d.ctxsOf r, t.dev.ctx y.1 y.2 = (alGet Ctx.absent i.ctxs (y.1 * 8 + y.2)).wake)

/-! ## Surviving failures (15) -/

/-- R292, R293, R295, R296, R299, Table 15-9. The end of a phase is an event the outside gives (log 70). Where the template stands in
the reserve is a free value (log 103). `uncounted` and no errors: the snapshot reads every range as it stands.
Commands that it has complete, by their own effect: psvConfig, psvPlan, psvSave, savePointReached, savePointTimeout,
snapshotDone, partnerPhaseDone, flashPhaseDone, sharedPhaseDone, saveAbandoned. -/
def Obligations.SavesArePlannedAndTaken : Prop :=
  ∀ (st : State) (q : QueueN) (c : FetchedCmd) (e : Dev) (pn : PartN), st.dev.sys.railsUp = true →
    let d := st.dev
    (let p := c.part
     p < 16 → e.partValid p = true →
      (let spec := [PKind.num 2, .num 1, .num 2, .num 2, .num 1, .num 2, .num 1, .num 8, .num 2, .num 2, .num 1, .num 8, .num 1,
         .num 1, .num 1, .num 4]
       let v := (c.params spec).at
       Accepted d q 0x801 spec c e → e.psvBusy p = false → v 0 % 2 = 0 → v 0 ≤ e.fld (rPrtCfg p) 51 44 → 20 ≤ v 1 → v 1 ≤ 32 →
        (v 2 < 4096 ∨ v 2 = 0xFFFF) → (v 3 < 8192 ∧ e.inBranch p 0 (v 3) = false ∨ v 3 = 0xFFFF) → v 4 ≤ 15 →
        (v 5 < 8192 ∧ e.inBranch p 1 (v 5) = false ∨ v 5 = 0xFFFF) → v 6 ≤ 15 → v 7 % 64 = 0 → v 7 < 2 ^ 48 → 30 ≤ v 8 →
        v 8 ≤ v 9 → v 9 ≤ 21600 → 1 ≤ v 10 → v 10 < 256 → v 12 < 256 → v 13 < 256 → v 14 ≤ 1 →
        v 15 ≤ (if v 14 = 0 then 15 else 65535) →
        ∃ t, exec (.psvConfig q) st = .next t ∧ t.pending = st.pending ∧ t.dev.flag (rPsvCfg p) 63 = true ∧
          t.dev.fld (rPsvCfg p) 5 0 = v 1 ∧ t.dev.fld (rPsvCfg p) 15 8 = v 12 ∧ t.dev.fld (rPsvCfg p) 23 16 = v 13 ∧
          t.dev.fld (rPsvCfg p) 31 24 = v 10 ∧ t.dev.fld (rPsvCfg p) 47 32 = v 2 ∧ t.dev.reg (rPsvRsv p) = v 0 ∧
          t.dev.flag (rPsvSpt p) 31 = (v 3 != 0xFFFF) ∧ t.dev.flag (rPsvSpt p) 63 = (v 5 != 0xFFFF) ∧
          (v 3 ≠ 0xFFFF → t.dev.fld (rPsvSpt p) 12 0 = v 3) ∧ (v 5 ≠ 0xFFFF → t.dev.fld (rPsvSpt p) 44 32 = v 5) ∧
          t.dev.fld (rPsvSpt p) 19 16 = v 4 ∧ t.dev.fld (rPsvSpt p) 51 48 = v 6 ∧ t.dev.reg (rPsvStepw p) = v 7 ∧
          t.dev.fld (rPsvClamp p) 15 0 = v 8 ∧ t.dev.fld (rPsvClamp p) 31 16 = v 9 ∧ t.dev.reg (rPsvMtbf p) = v 11) ∧
      (let spec := [PKind.num 2, .list [8, 8, 1, 1, 1, 1, 1]]
       let v := (c.params spec).at
       let plan := ((c.params spec).lst 0).map regionOf
       let log2 := e.fld (rPsvCfg p) 5 0
       Accepted d q 0x802 spec c e → v 0 < 2 ^ 14 → (e.psvPhase p = 0 ∨ 3 < e.psvPhase p) → plan.length ≤ 4094 →
        (∀ r ∈ plan, r.len ≠ 0 ∧ ceilDiv r.len (2 ^ log2) ≤ 4096 ∧ r.addr + r.len ≤ rimTop ∧ e.firstBad p r.addr r.len = none ∧
          (r.prot = 0 ∨ r.prot = 1 ∧ 1 ≤ r.n ∧ r.n ≤ 16 ∧ 1 ≤ r.r ∧ r.r ≤ 4 ∨ r.prot = 2 ∧ 2 ≤ r.n)) →
        planBytes log2 plan ≤ e.slotBytes p →
        exec (.psvPlan q) st = .next (withDev st (((e.setPsv p { e.psvOf p with rank := v 0, plan }).putTemplate p (planBytes log2 plan)
          (manifestTemplate (v 0) log2 plan)).done (began c)))) ∧
      (let v := (c.params [.num 4, .num 8, .num 2]).at
       Accepted d q 0x803 [.num 4, .num 8, .num 2] c e → 1 ≤ v 0 → v 0 < 2 ^ 24 → 1 ≤ v 2 → v 2 ≤ 600 →
        (e.psvPhase p = 0 ∨ 3 < e.psvPhase p) → (e.psvOf p).maxId < v 0 → e.flag (rPsvCfg p) 63 = true →
        ∃ t s, exec (.psvSave q) st = .next t ∧ t.pending = st.pending ∧ t.dev.psvPhase p = 1 ∧
          t.dev.fld (rPsvSave p) 127 64 = v 0 ∧ t.dev.fld (rPsvSave p) 39 0 = e.fld (rPsvSave p) 39 0 ∧
          (t.dev.psvOf p).current = some s ∧ s.saveId = v 0 ∧ s.shards = [] ∧ (t.dev.psvOf p).cmd = some c.seq ∧
          (t.dev.psvOf p).maxId = v 0 ∧ (t.dev.psvOf p).target = v 1)) ∧
    (let p := pn.val
     let x := d.psvOf p
     let ended (t : State) : Prop := t.dev.psvPhase p = 7 ∧ (t.dev.psvOf p).current = none ∧
       (∀ m, x.cmd = some m → ∀ b ∈ t.dev.hq.fetched, b.seq ≠ m) ∧
       ∀ y ∈ d.ctxsOf p, (t.dev.ctxFor p y.1 y.2).saveStop = false
     (∀ k : CtxId, d.moves k = true → d.atSavePoint k.h.val k.n.val = true →
       ∃ t, exec (.savePointReached k) st = .next t ∧ t.pending = st.pending ∧
         t.dev.ctx k.h.val k.n.val = { d.ctx k.h.val k.n.val with saveStop := true }) ∧
     (d.psvPhase p = 1 → d.atSave p = false → ∃ t, exec (.savePointTimeout pn) st = .next t ∧ t.pending = st.pending ∧ ended t) ∧
     ((1 ≤ d.psvPhase p ∧ d.psvPhase p ≤ 3) → ∃ t, exec (.saveAbandoned pn) st = .next t ∧ t.pending = st.pending ∧ ended t) ∧
     (∀ s key us, d.psvPhase p = 2 → d.saveHit p = false → x.current = some s → d.slotFor (d.fld (rPsvCfg p) 47 32) p 3 = some key → s.shards = [] →
       uncounted d → d.mem.errs = [] →
       let todo := (((List.range s.plan.length).zip s.plan).flatMap fun k =>
         (shardsOf (d.fld (rPsvCfg p) 5 0) k.2).map fun h => oidOf s.saveId x.rank k.1 h.1) ++
         [oidOf s.saveId x.rank 0xFFE 0, oidOf s.saveId x.rank 0xFFF 0]
       ∃ t z, exec (.snapshotDone pn us) st = .next t ∧ t.pending = st.pending ∧ t.dev.psvPhase p = 3 ∧
         (t.dev.psvOf p).current = some z ∧ z.saveId = s.saveId ∧ z.cost = us ∧ z.made = d.now - us * 1000 ∧ (z.shards.map fun y => y.1) = todo ∧
         z.digests.length = s.digests.length + todo.length ∧ ∀ y ∈ d.ctxsOf p, (t.dev.ctxFor p y.1 y.2).saveStop = false) ∧
     (∀ s m, d.psvPhase p = 3 → d.saveHit p = false → x.current = some s → x.cmd = some m → s.saveId < 2 ^ 24 →
       d.fld (rPsvSave p) 127 64 = s.saveId → (∀ b ∈ x.background, b.1 ≠ s.saveId) → ∀ dv,
       let flash := everyNth s.saveId (d.fld (rPsvCfg p) 15 8)
       let shared := everyNth s.saveId (d.fld (rPsvCfg p) 23 16)
       ∃ t, exec (.partnerPhaseDone pn dv) st = .next t ∧ t.pending = st.pending ∧
         t.dev.psvPhase p = (if flash then 4 else if shared then 5 else 6) ∧ t.dev.fld (rPsvSave p) 39 0 = s.saveId ∧
         t.dev.fld (rPsvSave p) 44 42 = 1 ∧ { s with tiers := 1, divergent := dv } ∈ (t.dev.psvOf p).saves ∧
         (t.dev.psvOf p).current = none ∧ ∀ b ∈ t.dev.hq.fetched, b.seq ≠ m) ∧
     (∀ s us dv, d.saveHit p = true → x.current = some s →
       (d.psvPhase p = 2 → ∃ t, exec (.snapshotDone pn us) st = .next t ∧ t.pending = st.pending ∧ ended t) ∧
       (d.psvPhase p = 3 → ∃ t, exec (.partnerPhaseDone pn dv) st = .next t ∧ t.pending = st.pending ∧ ended t)) ∧
     (∀ id m rest, x.background = (id, m) :: rest → d.saveHit p = false → (∀ b ∈ rest, b.1 ≠ id) → d.fld (rPsvSave p) 127 64 = id → m < 4 →
       let next := if bit m 1 then 5 else 6
       (d.psvPhase p = 4 → bit m 0 = true →
         (∃ t, exec (.flashPhaseDone pn) st = .next t ∧ t.pending = st.pending ∧ t.dev.psvPhase p = next ∧
           t.dev.flag (rPsvSave p) 43 = true ∧ ∀ z ∈ x.saves, z.saveId = id →
             { z with tiers := Nat.lor z.tiers 2 } ∈ (t.dev.psvOf p).saves) ∧
         ∃ t, exec (.saveAbandoned pn) st = .next t ∧ t.pending = st.pending ∧ t.dev.psvPhase p = next ∧
           t.dev.flag (rPsvSave p) 43 = d.flag (rPsvSave p) 43 ∧ (t.dev.psvOf p).saves = x.saves) ∧
       (d.psvPhase p = 5 → m = 2 → ∃ t, exec (.sharedPhaseDone pn) st = .next t ∧ t.pending = st.pending ∧
         t.dev.psvPhase p = 6 ∧ t.dev.flag (rPsvSave p) 44 = true ∧ ∀ z ∈ x.saves, z.saveId = id →
           { z with tiers := Nat.lor z.tiers 4 } ∈ (t.dev.psvOf p).saves)))

/-- R298, R300 to R303, Table 15-3. `sources` are the envelopes that the outside gives (log 70); `mine` is the save in the module's
own reserve, of a survivor; a context shard and a sidecar of another module are decoded by opaque functions (log 6); what
PSV_p_SAVE shows after a restore is the model's choice (log 104).
Commands that it has complete, by their own effect: psvFailNote, psvRestore, deepTier. -/
def Obligations.FailuresAndRestores : Prop :=
  ∀ (st : State) (q : QueueN) (c : FetchedCmd) (e : Dev), st.dev.sys.railsUp = true →
    let p := c.part
    (p < 16 → e.partValid p = true → Accepted st.dev q 0x804 [.num 8] c e →
      let t0 := (c.params [.num 8]).at 0
      let a := e.fld (rPsvCfg p) 31 24
      let m := e.reg (rPsvMtbf p)
      ∃ t, exec (.psvFailNote q) st = .next t ∧ t.pending = st.pending ∧ t.dev.reg (rPsvLastfail p) = t0 ∧
        (t.dev.psvOf p).lastFail = some t0 ∧
        ((e.psvOf p).lastFail = none → t.dev.reg (rPsvMtbf p) = m) ∧
        (∀ l, (e.psvOf p).lastFail = some l →
          t.dev.reg (rPsvMtbf p) = ((256 - a) * m + a * ((t0 - l) / 1000000)) / 256) ∧
        t.dev.reg (rPsvTau p) ≤ e.fld (rPsvClamp p) 31 16 ∧
        (e.fld (rPsvClamp p) 15 0 ≤ e.fld (rPsvClamp p) 31 16 → e.fld (rPsvClamp p) 15 0 ≤ t.dev.reg (rPsvTau p))) ∧
    (∀ (pn : PartN) (g : BitVec 8) (tm : BitVec 64) (t0 : Nat), (st.dev.psvOf pn.val).lastFail = some t0 →
      exec (.deepTier pn g tm) st = .next (withDev st
        (((st.dev.bump64 (rPsvCnt pn.val 3)).psvCapture pn.val 4 0 0 g.toNat tm.toNat t0).psvRecord pn.val 0x204 g.toNat))) ∧
    (∀ (images : List (List Byte)) (saved : SavedShape) (sources : List ShardSource) (key : BitVec 256),
      let spec := [PKind.num 4, .num 1, .list [2, 8], .list [8], .num 1]
      let v := (c.params spec).at
      let held := (e.psvOf p).saves.find? fun s => s.saveId == v 0
      let mine := if v 1 = 0 then held else none
      let loaded (f : Dev) : Dev :=
        let l := f.withImage p fun d => forL ((d.ctxsOf p).zip images) (fun y (d : Dev) => d.writeImage y.1.1 y.1.2 (parseImage y.2)) d
        l.setPsv p { l.psvOf p with programs := images.map Config.sha256 }
      let restored (f : Dev) (shards : List (Nat × List Byte)) : State :=
        let plain (k : Nat) : List Byte := ((shards.find? fun s => bits s.1 23 12 == k).map Prod.snd).getD []
        let side := sidecarIn mine (plain 0xFFF)
        withDev st (((((loaded f).placeShards p shards).putBack p (contextIn mine (plain 0xFFE)) side.1 side.2
          (v 2 == 1)).showRestored p (v 0) held).done (began c))
      let free (f : Dev) : Prop := f.busyCtx p = none ∧ f.checkImages p images = none
      p < 16 → e.partValid p = true → Accepted st.dev q 0x805 spec c e → v 1 ≤ 1 → v 2 ≤ 1 →
      (e.psvPhase p = 0 ∨ 3 < e.psvPhase p) → saved.sectors0 = sectorsOn (e.sectors p) 0 →
      saved.sectors1 = sectorsOn (e.sectors p) 1 → images.map Config.sha256 = saved.programs →
      images.length = (e.ctxsOf p).length → e.slotFor (e.fld (rPsvCfg p) 47 32) p 3 = some key →
      (let x := Dev.fetchShards p key mine saved sources e
       (∀ g ∈ x.2, g.2 ≠ none) → free x.1 →
        exec (.psvRestore q images saved sources) st =
          .next (restored x.1 (x.2.filterMap fun g => g.2.map fun b => (g.1, b)))) ∧
      (∀ plain : BitVec 64 → List Byte, mine = none → free e →
        (∀ s ∈ sources, (saved.digests.find? fun g => g.1 == s.oid).map Prod.snd = some (Config.sha256 (plain s.oid)) ∧
          (s.rebuilt ≠ none ∨ s.flash ≠ none ∨ s.shared ≠ none) ∧
          ∀ b, (s.rebuilt = some b ∨ s.flash = some b ∨ s.shared = some b) →
            openEnvelope key s.oid.toNat b = some (plain s.oid)) →
        exec (.psvRestore q images saved sources) st =
          .next (restored e (sources.map fun s => (s.oid.toNat, plain s.oid)))))

/-! ## Monitoring, the runtime and register writes (16, 17, 00) -/

/-- R307, R308, R310 to R313, Tables 16-2 to 16-5. The profile codes and instance numbers are the model's choice (log 71).
Commands that it has complete, by their own effect: pmuProfile, pmuSample, pmuBw, pmuSnapshot, counterWrapSample,
sampleDelivery, bwWindowEnd, snapshotFire, pmuSnapAt, freeze, clearCounts, sampleRecordLand. -/
def Obligations.CountersWindowsAndSnapshots : Prop :=
  ∀ (st : State) (q : QueueN) (c : FetchedCmd) (e : Dev), st.dev.sys.railsUp = true →
    let d := st.dev
    (let spec := [PKind.num 1, .list [2], .num 1]
     let v := (c.params spec).at
     let pr := profileOf (v 0)
     let filter := if v 1 = 0xFF then 0 else 2 ^ 29 + v 1 * 2 ^ 24
     let slots := ((c.params spec).lst 0).flatMap fun x => (List.range pr.2.length).map fun k => (slotOf pr.1 (x.getD 0 0) k, pr.2.getD k (0, 0))
     Accepted d q 0x901 spec c e → v 0 ≤ 4 → (v 1 < 16 ∨ v 1 = 0xFF) →
      (∀ s ∈ slots, ∃ x, s.1 = some x ∧ e.mayWriteSlot (e.fnOfCmd c) x = true) →
      ∃ t, exec (.pmuProfile q) st = .next t ∧ t.pending = st.pending ∧ ∀ s ∈ slots, ∀ x, s.1 = some x →
        t.dev.reg (ctrBase x) = 2 ^ 31 + filter + s.2.2 * 2 ^ 8 + s.2.1 ∧ t.dev.reg (ctrBase x + 8) = 0) ∧
    (let spec := [PKind.list [1, 1, 1], .num 1, .num 1, .num 8, .num 8, .num 1, .num 2]
     let v := (c.params spec).at
     let p := c.part
     let slots := ((c.params spec).lst 0).map fun x => if x.getD 0 0 < 2 then slotOf (x.getD 0 0) (x.getD 1 0) (x.getD 2 0) else none
     let start := (2 ^ 48 - v 2) % 2 ^ 48
     Accepted d q 0x902 spec c e → p < 16 → e.partValid p = true → 1 ≤ v 2 → v 2 ≤ 2 ^ 48 → v 3 % 4096 = 0 → v 3 < 2 ^ 48 →
      4 ≤ v 4 → v 4 ≤ 20 → v 5 < 2048 → (∀ s ∈ slots, ∃ x, s = some x ∧ e.mayWriteSlot (e.fnOfCmd c) x = true) →
      ∃ t, exec (.pmuSample q) st = .next t ∧ t.pending = st.pending ∧ t.dev.reg (rPmuSrBase p) = v 3 ∧
        t.dev.reg (rPmuSrCfg p) = 2 ^ 31 + v 5 * 2 ^ 20 + v 4 ∧ t.dev.reg (rPmuSrHead p) = 0 ∧ t.dev.reg (rPmuSrTail p) = 0 ∧
        ∀ s ∈ slots, ∀ x, s = some x → t.dev.reg (ctrBase x) = 2 ^ 31 + 2 ^ 30 + v 1 * 2 ^ 8 + v 0 ∧
          t.dev.reg (ctrBase x + 8) = start ∧ t.dev.reg (ctrBase x + 0x18) = start) ∧
    (let spec := [PKind.list [1], .num 4]
     let us := (c.params spec).at 0
     let units := ((c.params spec).lst 0).map fun x => x.getD 0 0
     Accepted d q 0x903 spec c e → 1 ≤ us → us ≤ 1000000 → (∀ n ∈ units, n ≤ 48) →
      ∃ t, exec (.pmuBw q) st = .next t ∧ t.pending = st.pending ∧ ∀ n ∈ units, t.dev.flag (rPmuBw n) 31 = true ∧
        t.dev.fld (rPmuBw n) 19 0 = (if e.flag (rPmuBw n) 31 then e.fld (rPmuBw n) 19 0 else us) ∧
        t.dev.reg (rPmuBw n + 0x18) = 0 ∧ t.dev.reg (rPmuBw n + 0x20) = 0) ∧
    (let v := (c.params [.num 4, .num 8]).at
     Accepted d q 0x904 [.num 4, .num 8] c e → 10 ≤ v 0 → v 0 ≤ 1000000 → e.sys.snapCmd = none →
      ∃ t, exec (.pmuSnapshot q) st = .next t ∧ t.pending = st.pending ∧ t.dev.sys.snapCmd = some c.seq ∧
        ((e.flag rPmuSnapStat 31 = false ∨ e.now < e.reg rPmuSnapAt) → t.dev.reg rPmuSnapAt = e.now + v 0 * 1000 ∧
          t.dev.flag rPmuSnapStat 31 = true)) ∧
    (∀ x : BitVec 64, (∀ n, d.sys.snapCmd = some n → exec (.pmuSnapAt x) st = .next (withDev st
        { d with sys := { d.sys with snapHeld := d.sys.snapHeld ++ [x.toNat] } })) ∧
      (d.sys.snapCmd = none → ∃ t, exec (.pmuSnapAt x) st = .next t ∧ t.pending = st.pending ∧
      if d.now < x.toNat ∧ (d.flag rPmuSnapStat 31 = false ∨ d.now < d.reg rPmuSnapAt)
       then t.dev.reg rPmuSnapAt = x.toNat ∧ t.dev.flag rPmuSnapStat 31 = true
       else t.dev.reg rPmuSnapAt = d.reg rPmuSnapAt ∧ t.dev.flag rPmuSnapStat 30 = true)) ∧
    (d.flag rPmuSnapStat 31 = true → d.sys.snapHeld = [] → (d.regs.map fun x => x.1).Nodup →
      ∃ t, exec .snapshotFire st = .next t ∧ t.pending = st.pending ∧
        (∀ s : PmuSlot, t.dev.reg (ctrBase s + 0x10) = d.reg (ctrBase s + 8) ∧ t.dev.reg (ctrBase s + 8) = d.reg (ctrBase s + 8)) ∧
        t.dev.flag rPmuSnapStat 31 = false ∧ t.dev.fld rPmuSnapStat 63 32 = (d.fld rPmuSnapStat 63 32 + 1) % 2 ^ 32 ∧
        ∀ n, d.sys.snapCmd = some n → t.dev.sys.snapCmd = none ∧ ∀ b ∈ t.dev.hq.fetched, b.seq ≠ n) ∧
    (∀ (s : PmuSlot) (x : Nat),
      (d.flag (ctrBase s) 31 = true → d.flag (ctrBase s) 30 = true → ∃ t, exec (.counterWrapSample s x) st = .next t ∧
        t.pending = st.pending ∧ t.dev.reg (ctrBase s + 8) = 2 ^ 63 + (d.fld (ctrBase s + 0x18) 47 0 + x) % 2 ^ 48 ∧
        ∀ h n, d.slotOwner s = some (h, n) → (d.ctx h n).state ≠ .absent → (∀ y ∈ d.samples, y.slot ≠ s) →
          ∃ y, t.dev.samples = d.samples ++ [y] ∧ y.slot = s ∧ y.part = (d.ctx h n).part ∧ y.bidx = (d.ctx h n).bidx ∧
            y.icount = (d.ctx h n).icount) ∧
      (∀ y, d.samples.find? (fun z => z.slot == s) = some y → ∃ t, exec (.sampleDelivery s) st = .next t ∧
        t.pending = st.pending ∧ t.dev.samples = d.samples.filter (fun z => z.slot != s) ∧
        (d.flag (rPmuSrCfg y.part) 31 = true → alGet [] t.dev.smpRing y.part = alGet [] d.smpRing y.part ++ [d.sampleRecord y]) ∧
        (d.flag (rPmuSrCfg y.part) 31 = false → t.dev.smpRing = d.smpRing))) ∧
    (∀ (pn : PartN) (rec : List Byte) (rest : List (List Byte)), alGet [] d.smpRing pn.val = rec :: rest →
      let p := pn.val
      let head := d.reg (rPmuSrHead p)
      let n := 2 ^ d.fld (rPmuSrCfg p) 4 0
      ∃ t, exec (.sampleRecordLand pn) st = .next t ∧ t.pending = st.pending ∧ alGet [] t.dev.smpRing p = rest ∧
        (diff32 head (d.reg (rPmuSrTail p)) ≠ n → t.dev.reg (rPmuSrHead p) = (head + 1) % 2 ^ 32 ∧
          t.dev.rim = (d.rimPut (placeBytes (d.reg (rPmuSrBase p) + head % n * 32) rec)).rim) ∧
        (diff32 head (d.reg (rPmuSrTail p)) = n → t.dev.reg (rPmuSrHead p) = head ∧ t.dev.rim = d.rim)) ∧
    (∀ n : Fin 49, let a := rPmuBw n.val
      let rx := d.sys.bw.get (n.val * 4)
      let tx := d.sys.bw.get (n.val * 4 + 1)
      d.flag a 31 = true → ∃ t, exec (.bwWindowEnd n) st = .next t ∧ t.pending = st.pending ∧ t.dev.sys.bw.get (n.val * 4) = 0 ∧
        t.dev.sys.bw.get (n.val * 4 + 1) = 0 ∧ (d.sys.bw.get (n.val * 4 + 2) ≠ 0 → t.dev.reg (a + 8) = rx ∧
          t.dev.reg (a + 0x10) = tx ∧ t.dev.reg (a + 0x18) = max (d.reg (a + 0x18)) rx ∧
          t.dev.reg (a + 0x20) = max (d.reg (a + 0x20)) tx)) ∧
    (∀ on, exec (.freeze on) st = .next (withDev st (d.setFlag rPmuCtrl 31 on))) ∧
    (∃ t, exec .clearCounts st = .next t ∧ t.pending = st.pending ∧ (∀ s, t.dev.reg (ctrBase s + 8) = 0) ∧
      ∀ o, (o < 0x3100000 ∨ 0x3160000 ≤ o ∨ o % 0x20 ≠ 8) → t.dev.reg o = d.reg o)

/-- R5, R7, R57, R318 to R324, R373, R376, R382, Tables 00-6 and 17-6. RT_INFO's layout and the PLDM codes are the model's choice
(logs 72, 114), and so is what a device-fatal error leaves writable (log 100).
Commands that it has complete, by their own effect: rtInfo, wdogCfg, flfCarve, rtCore, rtHang, rtUe, codeDigestCheck,
registerWrite, pldmRequest. -/
def Obligations.RuntimeAndRegisterWrites : Prop :=
  ∀ (st : State) (q : QueueN) (c : FetchedCmd) (e : Dev),
    let d := st.dev
    (d.sys.inputOn = true →
      (∀ off len, exec (.pldmRequest (.eepromRead off len)) st = .next (withDev st
        { d with sys := { d.sys with reply := some (.data (slice d.eeprom off.toNat len)) } })) ∧
      ∀ off b, exec (.pldmRequest (.eepromWrite off b)) st = .next (withDev st { d with sys := { d.sys with reply := some .nack } })) ∧
    (d.sys.railsUp = true → (Accepted d q 0xB01 [] c e → exec (.rtInfo q) st = .next (withDev st (e.done (began c) e.rtInfoResult))) ∧
    (let v := (c.params [.num 2, .num 2]).at
     Accepted d q 0xB02 [.num 2, .num 2] c e → 1 ≤ v 0 → v 0 ≤ 1000 → 10 ≤ v 1 → v 1 ≤ 10000 →
      exec (.wdogCfg q) st = .next (withDev st (((e.setFld rFlfWdog 31 16 (v 1)).setFld rFlfWdog 15 0 (v 0)).done (began c)))) ∧
    (let v := (c.params [.num 1]).at 0
     Accepted d q 0xB03 [.num 1] c e → 4 ≤ v → v ≤ 16 → e.flag rMemLock 0 = false →
      exec (.flfCarve q) st = .next (withDev st ((e.setFld rMemCfg 20 16 v).done (began c)))) ∧
    (d.rtUp = true →
      (∀ core : Fin 16, d.coreOnline core.val = true → ∃ t, exec (.rtCore core []) st = .next t ∧ t.pending = st.pending ∧
        t.dev.fld (rFlfCore core.val) 31 0 = (d.fld (rFlfCore core.val) 31 0 + 1) % 2 ^ 32 ∧
        let times := ((d.sys.coreRecent.set (core.val * 4 + 2) (d.sys.coreRecent.get (core.val * 4 + 1))).set (core.val * 4 + 1)
          (d.sys.coreRecent.get (core.val * 4))).set (core.val * 4) (d.now + 1)
        t.dev.sys.coreRecent = times ∧
        (t.dev.coreOnline core.val = true ↔ ({ d with sys := { d.sys with coreRecent := times } } : Dev).wdRecent core.val < 3)) ∧
      exec .rtHang st = .next (withDev st (d.record { part := none, cls := clsDevice, cause := 0x301, block := 13,
                                                      det := detail 0 0 0 0 d.coresOnline })) ∧
      (∀ k : Fin 4, exec (.rtUe k) st = .next (withDev st (d.record { part := none, cls := clsDevice, cause := 0x302, block := 13,
                                                                      det := detail 0 0 0 0 k.val }))) ∧
      exec (.codeDigestCheck true) st = .next st ∧
      exec (.codeDigestCheck false) st = .next (withDev st (d.record { part := none, cls := clsDevice, cause := 0x302, block := 13,
                                                                       det := detail 0 0 0 0 2 })) ∧
      ∀ r : PldmReq,
        let answer (y : Reply) : State := withDev st { d with sys := { d.sys with reply := some y } }
        (r.ptype = 4 → exec (.pldmRequest (.pldm r)) st = .next (answer (.data d.fruRecord))) ∧
        (r.ptype = 2 → exec (.pldmRequest (.pldm r)) st = .next (answer
          (match d.sensor r.code with | some v => .data (leBytes 4 v) | none => .error))) ∧
        (r.ptype = 5 →
          (r.code = 0 → d.sys.pldm = none → exec (.pldmRequest (.pldm r)) st = .next (withDev st
            { d with sys := { d.sys with pldm := some r.kind, reply := some (.data []) } })) ∧
          (r.code = 1 → d.sys.pldm = some r.kind → ∃ t, exec (.pldmRequest (.pldm r)) st = .next t ∧ t.pending = st.pending ∧
            t.dev.sys.pldm = none ∧ (t.dev.bank r.kind.val).other = r.image ∧ (t.dev.bank r.kind.val).staged = true ∧
            (t.dev.bank r.kind.val).next = false ∧ (t.dev.bank r.kind.val).running = (d.bank r.kind.val).running))) ∧
    (∀ (n : Nat) (v : BitVec 64),
      let w (by_ : Writer) : Host.Outcome State Fault Refusal := exec (.registerWrite by_ n v) st
      (d.debugOpen = false → (∀ x, w (.debug x) = .next st) ∧ ∀ a b c, w (.tap a b c) = .next st) ∧
      (d.debugOpen = true →
        (∀ trstN tms tdi, w (.tap trstN tms tdi) = .next (withDev st
          { d with sys := { d.sys with tap := if trstN then d.sys.tap.cycle tms tdi else Tap.inReset } })) ∧
        ∀ f : FacetN, (d.facetHalted f.val = false → (∀ k r l, w (.debug (.vreg f k r l)) = .next st) ∧
            (∀ k x l, w (.debug (.preg f k x l)) = .next st) ∧ (∀ z r c, w (.debug (.acc f z r c)) = .next st) ∧
            ∀ a, w (.debug (.store f a)) = .next st) ∧
          (d.facetHalted f.val = true →
            (∀ k r l, w (.debug (.vreg f k r l)) = .next (withDev st
              { d with vregs := d.vregs.set (vIdx f.val k.val r.val l.val) (v.toNat % 2 ^ 32) })) ∧
            (∀ k x l, w (.debug (.preg f k x l)) = .next (withDev st
              { d with pregs := d.pregs.set (pIdx f.val k.val x.val l.val) (v.toNat % 2) })) ∧
            (∀ a : BitVec 21, a.toNat % n = 0 → w (.debug (.store f a)) = .next (withDev st
              (d.lsWrite f.val (placeBytes a.toNat (leBytes n v.toNat)))))))) ∧
    (∀ (fn : FnN) (off : BitVec 26) (n : Nat) (v : BitVec 64),
      ∃ t, exec (.registerWrite (.host fn off) n v) st = .next t ∧ t.pending = st.pending ∧
        ((d.hostUp = false ∨ off.toNat % n ≠ 0 ∨ regAt off.toNat = none ∧ regAt (off.toNat + 4) = none) → t.dev.regs = d.regs) ∧
        (∀ r, n = 4 → off.toNat % 4 = 0 → regAt off.toNat = some r → d.reaches fn.val r = false →
          t.dev.regs = d.regs) ∧
        (∀ r, n = 4 → off.toNat % 4 = 0 → regAt off.toNat = some r → d.flag rHqDevstat 30 = true →
          (r.base < 0x30000 ∨ 0x40000 ≤ r.base) → t.dev.regs = d.regs) ∧
        ∀ r, d.hostUp = true → d.flag rHqDevstat 30 = false → n = 4 → off.toNat % 4 = 0 → regAt off.toNat = some r → r.base = off.toNat → r.bytes = 4 → fn = 0 →
          r.flds ≠ [] → (0x40000 ≤ off.toNat ∧ off.toNat < 0x80000) →
          t.dev.reg off.toNat = d.merged r (2 ^ 32 - 1) (v.toNat % 2 ^ 32) ||| woBits r (2 ^ 32 - 1) (v.toNat % 2 ^ 32)))

/-! ## Power (19, 21) -/

/-- R338, R339, R342, R346 to R351, R357, R372. `govRec` is a corrected record of the governor with a value.
Commands that it has complete, by their own effect: govPowerCap, govCeilSet, govRampCfg, govBrakeCfg, govThermCfg,
governorTick, brake, brakeRelease, brakeChatter, chatterRelease, brakeHeldSecond, throttle, throttleRecover, thermtrip,
inputRange, inputUndervoltage, inputOvervoltage, railFail, inputRangeExit. -/
def Obligations.GovernorCommandsAndBrake : Prop :=
  ∀ (st : State) (q : QueueN) (c : FetchedCmd) (e : Dev),
    let d := st.dev
    (d.sys.railsUp = true →
      (let v := (c.params [.num 2]).at 0
       Accepted d q 0xA01 [.num 2] c e → 700 ≤ v → v ≤ e.fld rGovCap 26 16 → ∃ t, exec (.govPowerCap q) st = .next t ∧
        t.pending = st.pending ∧ (e.braked = false → t.dev.fld rGovCap 10 0 = v) ∧
        (e.braked = true → t.dev.fld rGovCap 10 0 = e.fld rGovCap 10 0 ∧ (0, v) ∈ t.dev.sys.heldGov)) ∧
      (let v := (c.params [.num 2]).at 0
       Accepted d q 0xA02 [.num 2] c e → 700 ≤ v → v ≤ 1200 → ∃ t, exec (.govCeilSet q) st = .next t ∧ t.pending = st.pending ∧
        t.dev.fld rGovCap 26 16 = v ∧ t.dev.fld rGovCap 10 0 = min v (e.fld rGovCap 10 0) ∧ t.dev.sys.ceilFlash = v) ∧
      (let v := (c.params [.num 2, .num 1]).at
       Accepted d q 0xA03 [.num 2, .num 1] c e → 25 ≤ v 0 → v 0 ≤ 1500 → v 1 ≤ 90 → e.flag rGovLock 0 = false →
        ∃ t, exec (.govRampCfg q) st = .next t ∧ t.pending = st.pending ∧
        (e.braked = false → t.dev.fld rGovRamp 26 16 = v 0 ∧ t.dev.fld rGovRamp 6 0 = v 1) ∧
        (e.braked = true → t.dev.reg rGovRamp = e.reg rGovRamp ∧ (1, v 0) ∈ t.dev.sys.heldGov ∧ (2, v 1) ∈ t.dev.sys.heldGov)) ∧
      (let v := (c.params [.num 2, .num 2]).at
       Accepted d q 0xA04 [.num 2, .num 2] c e → 300 ≤ v 0 → v 0 ≤ 700 → 1000 ≤ v 1 → v 1 ≤ 5000 → e.flag rGovLock 0 = false →
        exec (.govBrakeCfg q) st = .next (withDev st (((e.setFld rGovBrake 28 16 (v 1)).setFld rGovBrake 9 0 (v 0)).done
          (began c)))) ∧
      (let v := (c.params [.num 1]).at 0
       Accepted d q 0xA05 [.num 1] c e → 85 ≤ v → v ≤ 105 → e.flag rGovLock 0 = false →
        exec (.govThermCfg q) st = .next (withDev st ((e.setFld rGovTherm 7 0 v).done (began c)))) ∧
      (d.governorUp = true →
        (∀ r : GovReading, ∃ t, exec (.governorTick r) st = .next t ∧ t.pending = st.pending ∧
          t.dev.reg rGovPwr = r.p10us.toNat * 2 ^ 32 + r.p1ms.toNat * 2 ^ 16 + r.p100ms.toNat ∧
          t.dev.reg rGovTemp = r.tempAnn.toNat * 2 ^ 16 + r.tempH1.toNat * 2 ^ 8 + r.tempH0.toNat ∧
          (∀ (k : Nat) (x : BitVec 8), k < 8 → r.tempStacks[k]? = some x → t.dev.reg (rMemTemp k) = x.toNat) ∧
          ∀ h < 2, (600 ≤ d.fld (rClkTpll h) 26 16 → t.dev.fld (rClkTpll h) 10 0 ≤ d.fld (rClkTpll h) 26 16) ∧
            600 ≤ t.dev.fld (rClkTpll h) 10 0 ∧ (d.braked = true → t.dev.fld (rClkTpll h) 10 0 = 600) ∧
            (d.hemiThrottled h = true → 600 ≤ d.fld (rClkTpll h) 10 0 →
              t.dev.fld (rClkTpll h) 10 0 ≤ d.fld (rClkTpll h) 10 0) ∧
            (d.hemiThrottled h = true → d.thrTick.thrLowers r h = true → 625 ≤ d.fld (rClkTpll h) 10 0 →
              t.dev.fld (rClkTpll h) 10 0 + 25 ≤ d.fld (rClkTpll h) 10 0)) ∧
        (∀ x : ThermSource, d.sys.throttled.contains (thermCode x) = false →
          let f : Dev := { d with sys := { d.sys with throttled := d.sys.throttled ++ [thermCode x] } }
          exec (.throttle x) st = .next (withDev st (((f.setFlag rGovStatus 29 true).bump rGovThrotCnt).govRec 0x502
            (thermCode x))))) ∧
      (∀ x : ThermSource, ∃ t, exec (.throttleRecover x) st = .next t ∧ t.pending = st.pending ∧
        t.dev.sys.throttled = d.sys.throttled.filter (fun y => y != thermCode x) ∧
        t.dev.throttledAny = !t.dev.sys.throttled.isEmpty) ∧
      (d.brakeRuns = true → d.braked = false →
        (∃ t, exec .brake st = .next t ∧ t.pending = st.pending ∧ t.dev.braked = true ∧ t.dev.flag rGovStatus 26 = false ∧
          t.dev.sys.pwrbrkHigh = false ∧ t.dev.sys.brakeSecs = 0 ∧ t.dev.fld rGovBrakeCnt 30 0 = (d.fld rGovBrakeCnt 30 0 + 1) % 2 ^ 31) ∧
        (d.sys.chatterHeld = false → ∃ t, exec .brakeChatter st = .next t ∧ t.pending = st.pending ∧ t.dev.braked = true ∧
          t.dev.flag rGovStatus 30 = true ∧ t.dev.sys.chatterHeld = true)) ∧
      (d.braked = true →
        (d.sys.chatterHeld = false → ∃ t, exec .brakeRelease st = .next t ∧ t.pending = st.pending ∧ t.dev.braked = false ∧
          t.dev.sys.heldGov = [] ∧ t.dev.sys.pwrbrkHigh = true) ∧
        (d.sys.chatterHeld = true →
          (∃ t, exec .brakeRelease st = .next t ∧ t.dev.braked = true ∧ t.dev.sys.heldGov = d.sys.heldGov) ∧
          ∃ t, exec .chatterRelease st = .next t ∧ t.pending = st.pending ∧ t.dev.braked = false ∧ t.dev.sys.heldGov = [] ∧
            t.dev.sys.chatterHeld = false) ∧
        let f : Dev := { d with sys := { d.sys with brakeSecs := d.sys.brakeSecs + 1 } }
        exec .brakeHeldSecond st = .next (withDev st (f.govRec 0x500 (d.sys.brakeSecs + 1)))) ∧
      (∀ mv : BitVec 16,
        (42000 ≤ mv.toNat → mv.toNat < 46000 ∨ 58000 < mv.toNat → mv.toNat ≤ 60000 → ∃ t, exec (.inputRange mv) st = .next t ∧
          t.pending = st.pending ∧ t.dev.sys.inputBad = true ∧ t.dev.reg rGovVin = mv.toNat ∧
          (d.sys.inputBad = false → t.dev.flag rGovStatus 24 = true)) ∧
        (46000 ≤ mv.toNat → mv.toNat ≤ 58000 → ∃ t, exec (.inputRangeExit mv) st = .next t ∧ t.pending = st.pending ∧
          t.dev.sys.inputBad = false ∧ t.dev.reg rGovVin = mv.toNat ∧ t.dev.flag rGovStatus 24 = d.flag rGovStatus 24)) ∧
      (∃ t, exec .thermtrip st = .next t ∧ t.pending = st.pending ∧ t.dev.sys.railsUp = false ∧ t.dev.sys.thermtrip = true ∧
        t.dev.cus.killFuse = d.cus.killFuse ∧ t.dev.mem.flash = d.mem.flash ∧ t.dev.sys.banks = d.sys.banks) ∧
      (d.sys.stages.contains 2 = true → ∃ t, exec .railFail st = .next t ∧ t.pending = st.pending ∧ t.dev.sys.railsUp = false ∧
        t.dev.sys.railLatched = true)) ∧
    (∃ t, exec .inputUndervoltage st = .next t ∧ t.pending = st.pending ∧ t.dev.sys.railsUp = false ∧ t.dev.sys.inputOn = false ∧
      t.dev.sys.thermtrip = false ∧ t.dev.sys.railLatched = false ∧ t.dev.rim = [] ∧ t.dev.mem.flash = d.mem.flash) ∧
    (∃ t, exec .inputOvervoltage st = .next t ∧ t.pending = st.pending ∧ t.dev.sys.railsUp = false ∧ t.dev.sys.inputOn = false ∧
      t.dev.sys.thermtrip = d.sys.thermtrip ∧ t.dev.sys.railLatched = d.sys.railLatched)

/-! ## Clocks (18) -/

/-- R326 to R328, R331, R333 to R337, Tables 18-2 and 18-3. The end of a window is an event the outside gives with its count.
Commands that it has complete, by their own effect: ptpSync, ptpHoldover, clkGate, tclkLimit, tbConfig, tpllStep,
refclk25Qualify, refWindow, pllLockWindow, clkRef, clkCoast, clkLock, clkGateOff, clkGateOn, clkTbStep, clkTbAdj,
tbStepAbsorbed. -/
def Obligations.ClocksAndTimeBase : Prop :=
  ∀ (st : State) (q : QueueN) (c : FetchedCmd) (e : Dev), st.dev.sys.railsUp = true →
    let d := st.dev
    let next (i : Instr) (p : Dev → Prop) : Prop := ∃ t, exec i st = .next t ∧ t.pending = st.pending ∧ p t.dev
    (d.flag (rClkRef 0) 31 = false → next .refclk25Qualify fun f => f.flag (rClkRef 0) 31 = true ∧ f.flag (rClkRef 0) 29 = true) ∧
    (∀ (r : Fin 4) (n : Nat), r ≠ 0 → d.flag (rClkRef 0) 31 = true →
      let good := ((n : Int) - refNominal r.val).natAbs * 1000000 ≤ 300 * refNominal r.val
      (good → d.flag (rClkRef r.val) 31 = false → next (.refWindow r n) fun f =>
        f.flag (rClkRef r.val) 31 = (d.sys.refWindows.get r.val != 0) ∧
        (f.sys.refWindows.get r.val = if d.sys.refWindows.get r.val = 0 then 1 else 0)) ∧
      (¬ good → d.flag (rClkRef r.val) 31 = true → next (.refWindow r n) fun f => f.flag (rClkRef r.val) 31 = false ∧
        f.flag (rClkRef r.val) 30 = true ∧ ∀ k < 13, pllRef k = r.val → f.flag (rClkPll k) 31 = false ∧
          f.flag (rClkPll k) 30 = true ∧ f.flag (rClkPll k) 29 = true)) ∧
    (∀ r : Fin 4, d.flag (rClkRef r.val) 31 = true → next (.clkRef r) fun f => f.flag (rClkRef r.val) 31 = false ∧
      f.flag (rClkRef r.val) 30 = true ∧ f.flag (rClkRef r.val) 29 = false ∧ ∀ k < 13, pllRef k = r.val →
        f.flag (rClkPll k) 31 = false ∧ f.flag (rClkPll k) 30 = true ∧ f.flag (rClkPll k) 29 = true) ∧
    (∀ (k : Fin 13) (n : Nat), let m := k.val
      (d.flag (rClkRef 0) 31 = true → d.flag (rClkRef (pllRef m)) 31 = true → d.flag (rClkPll m) 31 = false →
        let want := if m < 2 then 600 else d.pllTarget m
        (25 * (n : Int) - 4096 * want).natAbs * 1000 ≤ 5 * 4096 * want → next (.pllLockWindow k n) fun f =>
          (f.flag (rClkPll m) 31 = true ↔ d.sys.pllWindows.get m ≠ 0) ∧
          (d.sys.pllWindows.get m ≠ 0 → f.fld (rClkPll m) 15 0 = want % 2 ^ 16 ∧ f.flag (rClkPll m) 30 = false)) ∧
      (d.flag (rClkPll m) 31 = true → d.flag (rClkRef (pllRef m)) 31 = true → next (.clkCoast k) fun f =>
        f.flag (rClkPll m) 31 = false ∧ f.flag (rClkPll m) 30 = true ∧ f.flag (rClkPll m) 28 = true ∧
        ∀ z, coastMhz m = some z → z - z / 10 ≤ f.fld (rClkPll m) 15 0 ∧ f.fld (rClkPll m) 15 0 ≤ z + z / 10) ∧
      (d.sys.relocks.get m ≠ 0 → next (.clkLock k) fun f => f.sys.relocks.get m = 0 ∧ f.flag rHqDevstat 30 = true)) ∧
    (∀ m : BitVec 128, exec (.clkGateOn m) st = .next (withDev st (d.gatesOn m.toNat)) ∧
      exec (.clkGateOff m) st = .next (withDev st (d.gatesOff m.toNat)) ∧
      ∀ x < 100, m.getLsbD x = true → (d.gatesOn m.toNat).flag rClkGateEn x = true) ∧
    (let spec := [PKind.list [1], .num 1]
     let gs := (c.params spec).lst 0
     let v := (c.params spec).at 0
     let m := gs.foldl (fun n x => Nat.lor n (2 ^ x.getD 0 0)) 0
     Accepted d q 0xA06 spec c e → (∀ x ∈ gs, x.getD 0 0 ≤ 99) → v ≤ 1 →
      let f := if v = 1 then e.gatesOn m else e.gatesOff m
      exec (.clkGate q) st = .next (withDev st (f.done (began c) (f.reg rClkGateRef)))) ∧
    (∀ h : Hemi, let f := d.fld (rClkPll h.val) 15 0
      let t := d.fld (rClkTpll h.val) 10 0
      next (.tpllStep h) fun g => g.fld (rClkPll h.val) 15 0 =
        if d.flag (rClkPll h.val) 31 = false then f else if f < t then min t (f + 25) else max t (f - 25)) ∧
    (let v := (c.params [.num 1, .num 2]).at
     Accepted d q 0xA07 [.num 1, .num 2] c e → v 0 ≤ 1 → fmaxOk (v 1) = true → e.flag rClkLock 0 = false →
      next (.tclkLimit q) fun f => f.fld (rClkTpll (v 0)) 26 16 = v 1 ∧
        f.fld (rClkTpll (v 0)) 10 0 = min (v 1) (e.fld (rClkTpll (v 0)) 10 0)) ∧
    (∀ v : BitVec 32,
      (d.ptpOn = false →
        (d.stepBusy = true → exec (.clkTbStep v) st = .next (withDev st (d.setFlag rClkTbStat 30 true))) ∧
        (d.stepBusy = false → (0 : Int) ≤ v.toInt → next (.clkTbStep v) fun f => f.now = (d.now + v.toNat) % 2 ^ 64) ∧
        (d.stepBusy = false → v.toInt < (0 : Int) → next (.clkTbStep v) fun f => f.now = d.now ∧ f.stepBusy = true ∧
          f.sys.negStep = 2 * v.toInt.natAbs) ∧
        (v.toInt.natAbs ≤ 1099511627 → exec (.clkTbAdj v) st = .next (withDev st (d.setReg rClkTbAdj v.toNat)))) ∧
      (d.ptpOn = true → exec (.clkTbStep v) st = .next st ∧ exec (.clkTbAdj v) st = .next st)) ∧
    (d.stepBusy = true → next .tbStepAbsorbed fun f => f.stepBusy = false ∧ f.sys.negStep = 0 ∧
      f.now = (d.now + (d.sys.negStep + 1) / 2) % 2 ^ 64) ∧
    (d.ptpOn = true →
      (∀ off adj : Int, d.linkUp (d.fld rClkPtpStat 61 56) = true →
        let good := if off.natAbs < 100 then min 16 (d.sys.ptpGood + 1) else 0
        next (.ptpSync off adj) fun f => f.sys.ptpGood = good ∧ f.flag rClkPtpStat 63 = (good == 16) ∧
          f.flag rClkPtpStat 62 = false ∧
          (off.natAbs ≤ 1000 → adjOk adj = true → f.reg rClkTbAdj = ofSigned 32 adj ∧ f.now = d.now) ∧
          (off < -1000 → d.stepBusy = false → f.now = (d.now + off.natAbs) % 2 ^ 64) ∧
          (1000 < off → d.stepBusy = false → f.stepBusy = true ∧ f.sys.negStep = 2 * off.natAbs)) ∧
      next .ptpHoldover fun f => f.flag rClkPtpStat 62 = true ∧
        f.fld rClkPtpStat 61 56 = if d.flag rClkPtpCfg 30 then d.fld rClkPtpCfg 21 16 else d.fld rClkPtpStat 61 56) ∧
    (let spec := [PKind.num 1, .num 1, .num 1, .num 1, .num 4, .num 4]
     let v := (c.params spec).at
     Accepted d q 0xA08 spec c e →
      (v 0 = 1 → v 1 ≤ 47 → (v 2 ≤ 47 ∨ v 2 = 0xFF) → v 3 ≤ 127 → next (.tbConfig q) fun f => f.ptpOn = true ∧
        f.fld rClkPtpCfg 29 24 = v 1 ∧ f.fld rClkPtpCfg 15 8 = v 3 ∧ f.flag rClkPtpCfg 30 = (v 2 != 0xFF) ∧
        (v 2 ≠ 0xFF → f.fld rClkPtpCfg 21 16 = v 2) ∧ f.fld rClkPtpStat 61 56 = v 1) ∧
      (v 0 = 0 → v 4 < 2 ^ 32 → v 5 < 2 ^ 32 → adjOk (toSigned 32 (v 4)) = true → next (.tbConfig q) fun f => f.ptpOn = false ∧
        f.reg rClkTbAdj = v 4 ∧ (e.stepBusy = false → toSigned 32 (v 5) ≥ 0 → f.now = (e.now + v 5) % 2 ^ 64)))

/-! ## Reset and boot (20) -/

/-- R353 to R364, Tables 20-2 to 20-8.
Commands that it has complete, by their own effect: coldReset, perstFall, perstRelease, hotReset, warm, warmResetEntry,
bootStageEnd, deadline, stackTestEnd, go, recoveryLoadDone, bootCfg. -/
def Obligations.ResetsAndBoot : Prop :=
  ∀ st : State,
    let d := st.dev
    let next (i : Instr) (p : Dev → Prop) : Prop := ∃ t, exec i st = .next t ∧ t.pending = st.pending ∧ p t.dev
    let warming (k : Nat) (f : Dev) : Prop := f.sys.warmPending = some k ∧ f.sys.stages = [] ∧ f.hostUp = false ∧ f.reg rHqLink = 0
    (next .coldReset fun f => f.sys.stages = [1] ∧ f.sys.railsUp = true ∧ f.sys.coldBoot = true ∧ f.rim = [] ∧ f.ctxs = [] ∧
      f.hq.fetched = [] ∧ f.cus.killFuse = d.cus.killFuse ∧ f.cus.epoch = d.cus.epoch ∧ f.cus.svnMin = d.cus.svnMin ∧
      f.cus.revoked = d.cus.revoked ∧ f.cus.signedSinceCold = false ∧ f.mem.flash = d.mem.flash ∧ f.sys.banks = d.sys.banks ∧ f.sys.variant = d.sys.variant ∧
      (∀ p < 16, f.partValid p = false) ∧
      (d.sys.ceilFlash < 2 ^ 11 → f.fld rGovCap 26 16 = d.sys.ceilFlash ∧ f.fld rGovCap 10 0 = d.sys.ceilFlash)) ∧
    (d.sys.railsUp = true →
      (next .perstFall fun f => f.sys.perstHigh = false ∧ (d.pastStage6 = true → d.sys.warmPending = none → warming 1 f) ∧
        (d.pastStage6 = false → f.sys.warmPending = d.sys.warmPending ∧ f.regs = d.regs)) ∧
      (next .perstRelease fun f => f.sys.perstHigh = true ∧ (d.sys.ended.contains 6 = true → d.sys.ended.contains 10 = false →
        d.sys.warmPending = none → f.sys.stages.contains 10 = true)) ∧
      (d.pastStage6 = true → d.sys.perstHigh = true → d.sys.ended.contains 10 = true → d.sys.warmPending = none →
        next .hotReset (warming 2)) ∧
      (∀ v : BitVec 32, d.hostUp = true → d.sys.warmPending = none →
        (v.toNat / 2 ^ 8 % 2 ^ 8 = 0xA5 → v.getLsbD 0 = true → next (.warm v) (warming 3)) ∧
        (v.toNat / 2 ^ 8 % 2 ^ 8 ≠ 0xA5 → exec (.warm v) st = .next st)) ∧
      (∀ k, d.sys.warmPending = some k → next .warmResetEntry fun f => f.sys.stages = [6] ∧ f.sys.coldBoot = false ∧
        f.sys.warmPending = none ∧ f.rim = d.rim ∧ f.sys.tb = d.sys.tb ∧ f.cus.epoch = d.cus.epoch ∧
        f.cus.signedSinceCold = d.cus.signedSinceCold ∧ f.cus.slotKeys = [] ∧ f.mem.repairs = d.mem.repairs ∧
        f.hq.fetched = [] ∧ f.ctxs = [] ∧ f.reg rGovCap = d.endTests.applyHeld.fld rGovCap 31 0 ∧
        f.fld rBootStatus 48 46 = k % 8 ∧ f.fld rBootStatus 63 60 = 6 ∧ (∀ p < 16, f.partValid p = false) ∧
        (∀ s < 256, f.prinValid (s + 1) = false) ∧ (∀ n < 4096, f.flag (rCusSlot n) 63 = false) ∧
        ∀ p < 16, d.partValid p = true → ∀ g < 16, d.holds p g = true → f.dirty g = true) ∧
      (∀ x : StageEnd, let s := x.stage.toNat
        d.sys.stages.contains s = true → d.bootFailed = false →
        (s = 1 ∨ s = 2 → x.code = 0 → d.sys.ended.contains 9 = false → (∀ k < 5, (d.bank k).next = false) → d.sys.stages = [s] → next (.bootStageEnd x) fun f =>
          f.sys.stages = [s + 1] ∧ f.sys.ended = d.sys.ended ++ [s] ∧ f.fld rBootStatus 63 60 = s + 1) ∧
        (s = 6 → x.code = 0 → d.sys.ended.contains 9 = false → (∀ k < 5, (d.bank k).next = false) → d.sys.stages = [6] → next (.bootStageEnd x) fun f =>
          f.sys.stages = [7, 8] ++ (if d.sys.perstHigh then [10] else []) ∧ f.fld rBootStatus 63 60 = 7 ∧
          (∀ n < 8, f.flag (rClkPll n) 31 = true) ∧ (x.serdesBad ≠ 0 → f.flag rBootDegr 3 = true)) ∧
        (s = 10 → x.code = 0 → (∀ k < 5, (d.bank k).next = false) → d.sys.ended.contains 9 = true → d.fld rBootCfg 1 0 = 0 →
          d.sys.stages = [10] → next (.bootStageEnd x) fun f => f.hostUp = true ∧ f.fld rBootStatus 63 60 = 0xF ∧
          f.reg rHqLink = x.link.toNat) ∧
        (x.code ≠ 0 → stageCodeOk s x.code.toNat = true → next (.bootStageEnd x) fun f => f.bootFailed = true ∧
          f.fld rBootStatus 59 52 = x.code.toNat % 2 ^ 8 ∧ f.flag rBootStatus 50 = recoverable x.code.toNat ∧ f.hostUp = true ∧
          f.flag rHqDevstat 30 = true)) ∧
      (d.hostUp = false → d.sys.perstHigh = true → d.sys.stages ≠ [] → next .deadline fun f => f.bootFailed = true ∧
        f.fld rBootStatus 59 52 = 0xA ∧ f.hostUp = true) ∧
      (∀ x : Fin 8, d.sys.testing.get x.val ≠ 0 → d.sys.testing.get x.val ≤ 2 ^ 32 → next (.stackTestEnd x []) fun f =>
        f.fld (rMemStk x.val) 31 0 = d.sys.testing.get x.val - 1 ∧ f.sys.testing.get x.val = 0 ∧
        ∀ a, 2 * x.val * sectorBytes ≤ a → a < (2 * x.val + 1) * sectorBytes - d.carveBytes → f.rim.byte a = 0) ∧
      (∀ v : BitVec 32, d.hostUp = true → let k := v.toNat / 2 ^ 24 % 8
        let len := v.toNat % 2 ^ 17
        v.getLsbD 31 = true → k ≤ 4 → 1 ≤ len → len ≤ bankKib k → d.flag rBootRcvCtl 30 = false → d.flag rBootStatus 50 = true →
        next (.go v) fun f => f.fld rBootRcvCtl 26 24 = k ∧ f.fld rBootRcvCtl 16 0 = len ∧ f.flag rBootRcvCtl 30 = true) ∧
      (∀ (img : List Byte) (b : Bool), d.flag rBootRcvCtl 30 = true → let k := d.fld rBootRcvCtl 26 24
        let i := img.take (d.fld rBootRcvCtl 16 0 * 1024)
        next (.recoveryLoadDone img b) fun f => f.flag rBootRcvCtl 30 = false ∧
          (d.imageOk i = true → b = true → (f.bank k).next = true ∧ (f.bank k).other = i) ∧
          (d.imageOk i = false → f.sys.banks = d.sys.banks)) ∧
      ∀ v : BitVec 32, d.hostUp = true → v.toNat % 4 ≠ 3 → next (.bootCfg v) fun f => f.reg rBootCfg = v.toNat % 4 ∧
        f.sys.bootProfile = v.toNat % 4)

/-! ## Every command -/

/-- R10, with the DETAIL of R271 and the order that 14_partitions.md gives PARTITION_CREATE. `off` is the register named. These seven
commands are all that set an RWL field. -/
def Obligations.LockedFieldsAreRefused : Prop :=
  ∀ (st : State) (q : QueueN) (c : FetchedCmd) (e : Dev), st.dev.sys.railsUp = true →
    let refused (i : Instr) (off : Nat) : Prop :=
      let t := withDev st (e.fail (began c) 0x3 (detail 0 0 0 0 off))
      exec i st = .next t ∧ ∀ o, (o < 0x80000 ∨ 0x100000 ≤ o) → t.dev.reg o = e.reg o
    (let v := (c.params [.num 1]).at 0
     Accepted st.dev q 0xB03 [.num 1] c e → 4 ≤ v → v ≤ 16 → e.flag rMemLock 0 = true → refused (.flfCarve q) rMemCfg) ∧
    (let spec := [PKind.num 1, .num 1, .num 1, .num 1, .num 1]
     let v := (c.params spec).at
     Accepted st.dev q 0x003 spec c e → (∀ k < 4, 1 ≤ v k ∧ v k ≤ 15) → 1 ≤ v 4 → v 4 ≤ 4 → e.flag rHqLock 0 = true →
      refused (.queueArb q) rHqArb ∧ (e.fail (began c) 0x3 (detail 0 0 0 0 rHqArb)).reg rHqArb = e.reg rHqArb) ∧
    (let v := (c.params [.num 2, .num 1]).at
     Accepted st.dev q 0xA03 [.num 2, .num 1] c e → 25 ≤ v 0 → v 0 ≤ 1500 → v 1 ≤ 90 → e.flag rGovLock 0 = true →
      refused (.govRampCfg q) rGovRamp) ∧
    (let v := (c.params [.num 2, .num 2]).at
     Accepted st.dev q 0xA04 [.num 2, .num 2] c e → 300 ≤ v 0 → v 0 ≤ 700 → 1000 ≤ v 1 → v 1 ≤ 5000 → e.flag rGovLock 0 = true →
      refused (.govBrakeCfg q) rGovBrake) ∧
    (let v := (c.params [.num 1]).at 0
     Accepted st.dev q 0xA05 [.num 1] c e → 85 ≤ v → v ≤ 105 → e.flag rGovLock 0 = true → refused (.govThermCfg q) rGovTherm) ∧
    (let v := (c.params [.num 1, .num 2]).at
     Accepted st.dev q 0xA07 [.num 1, .num 2] c e → v 0 ≤ 1 → fmaxOk (v 1) = true → e.flag rClkLock 0 = true →
      refused (.tclkLimit q) (rClkTpll (v 0))) ∧
    (let spec := [PKind.num 2, .num 1, .num 1, .num 1, .num 1, .num 8, .num 1, .num 1, .num 1, .num 4]
     let v := (c.params spec).at
     let x := creationOf c.part (c.params spec)
     Accepted st.dev q 0x701 spec c e → 1 ≤ v 0 → (v 1 ≤ 7 ∨ v 1 = 0xF) → v 2 ≤ 3 → v 5 < 2 ^ 48 → v 8 ≤ 3 → 2000 ≤ v 9 →
      v 9 ≤ 1000000 → c.part < 16 → e.partValid c.part = false → e.createParam x = none → e.createBusy x = false →
      e.groupMembers x = [] → ∀ h < 2, sectorsOn (v 0) h ≠ 0 → e.flag (rSeqLock h) 0 = true →
      (h = 1 → sectorsOn (v 0) 0 = 0 ∨ e.flag (rSeqLock 0) 0 = false) → refused (.partitionCreate q) (rSeqIsbank h))

/-- The queue is the model's (log 4). That an empty queue lets one cycle of the time base pass is the model's choice (log 11).
What each command does on the way to its own effect, the statements about its family say. -/
def Obligations.StepRunsTheFrontCommand : Prop :=
  (∀ (s : State) (c : Instr) (cs : List Instr), s.pending = c :: cs → step s = exec c { s with pending := cs }) ∧
    (∀ (i : Instr) (s : State), ∃ d : Dev, exec i s = .next { s with dev := d }) ∧
    (∀ s : State, s.pending = [] → ∃ t, step s = .next t ∧ t.pending = []) ∧
    ∀ s : State, s.pending = [] → s.dev.sys.railsUp = false → step s = .next s

/-- The register values are the reset columns of the chapters' tables. That unwritten memory reads 0 is the model's choice (log 3). -/
def Obligations.ResetLeavesTheSpecsValues : Prop :=
  let d := State.reset.dev
  memoryOk d = true ∧ queueOk State.reset = true ∧ State.reset.pending = [] ∧ d.sys.railsUp = true ∧ d.sys.stages = [1] ∧
    d.fld rBootStatus 63 60 = 1 ∧ d.hostUp = false ∧ d.hq.fetched = [] ∧ d.reg rClkGateEn = 2 ^ 100 - 1 ∧
    d.fld rGovCap 26 16 = 1200 ∧ d.fld rGovCap 10 0 = 1200 ∧ d.fld rGovTherm 7 0 = 105 ∧
    (∀ h < 2, d.fld (rClkTpll h) 26 16 = 1500 ∧ d.fld (rClkTpll h) 10 0 = 600 ∧ d.reg (rSeqIsbank h) = 2 ^ 32 - 1) ∧
    (∀ p < 16, d.partValid p = false ∧ d.sliceGroup p = 15 ∧ d.reg (rPrtSlice p) = 10000 ∧ d.partState p = 0) ∧
    (d.weight 0 = 8 ∧ d.weight 1 = 4 ∧ d.weight 2 = 2 ∧ d.weight 3 = 1) ∧ d.reg rGlbId = 0xE4800010

/-- Tables 03-1 to 03-16. The words are those of the bundle's slots; the commands of the table have no bits of their own. -/
def Obligations.OpFieldsRoundTrip : Prop :=
  (∀ a, decLA (encLA a) = a) ∧ (∀ a, decGA (encGA a) = a) ∧
    (∀ o, decMma (encMma o) = o ∧ opcOf (encMma o) = 1) ∧ (∀ o, decDrain (encDrain o) = o ∧ opcOf (encDrain o) = 2) ∧
    (∀ o, decPcfg (encPcfg o) = o ∧ opcOf (encPcfg o) = 3) ∧ (∀ o, decPvld (encPvld o) = o ∧ opcOf (encPvld o) = 4) ∧
    (∀ opc o, decLane (encLane opc o) = o ∧ opcOf (encLane opc o) = opc.toNat) ∧
    (∀ opc o, decLs (encLs opc o) = o ∧ opcOf (encLs opc o) = opc.toNat) ∧
    (∀ opc o, decXld (encXld opc o) = o ∧ opcOf (encXld opc o) = opc.toNat) ∧
    (∀ o, decMove (encMove o) = o ∧ opcOf (encMove o) = 1) ∧ (∀ o, decXfer (encXfer o) = o ∧ opcOf (encXfer o) = 2) ∧
    ∀ opc o, decBarrov (encBarrov opc o) = o ∧ opcOf (encBarrov opc o) = opc.toNat

/-- The queue is the model's (log 4); that no command stops is what the spec's effects give (NOTES.md, Stops). -/
def Obligations.CommandsRunInOrder : Prop :=
  (∀ s t : State, queueOk s = true → step s = .next t → queueOk t = true) ∧
    (∀ s : State, answers (step s)) ∧
    ∀ (n : Nat) (s : State), n ≤ s.pending.length →
      ∃ t, runs n s t ∧ t.pending = s.pending.drop n ∧ (queueOk s = true → queueOk t = true) ∧ ∀ u, runs n s u → u = t

/-- R238, R239, R253, with R236 and R356 for the resets. SVN_MIN is a thermometer of 64 fuses (R238). -/
def Obligations.FusesNeverReturn : Prop :=
  (∀ s t : State, s.dev.cus.svnMin ≤ 64 → step s = .next t →
      (s.dev.cus.killFuse = true → t.dev.cus.killFuse = true) ∧ (∀ i, bit s.dev.cus.revoked i = true → bit t.dev.cus.revoked i = true) ∧
      s.dev.cus.svnMin ≤ t.dev.cus.svnMin ∧ t.dev.cus.svnMin ≤ 64 ∧ s.dev.cus.epoch ≤ t.dev.cus.epoch) ∧
    ∀ (n : Nat) (s t : State), s.dev.cus.svnMin ≤ 64 → runs n s t → (s.dev.cus.killFuse = true → t.dev.cus.killFuse = true) ∧
      s.dev.cus.svnMin ≤ t.dev.cus.svnMin ∧ s.dev.cus.epoch ≤ t.dev.cus.epoch
end

