-- ==== Sys2Proof/Laws/Arrays.lean ====
section
/-! SUPPORT. Sparse arrays and byte memories: reading what was written, and the canonical form that every operation
keeps. -/

namespace Sys2Proof.Machine

variable {α : Type}

/-! ## Reading -/

theorem alGet_alPut_same (d : α) (m : List (Nat × α)) (k : Nat) (x : α) : alGet d (alPut m k x) k = x := by
  induction m with
  | nil => simp [alPut, alGet]
  | cons e m ih =>
    obtain ⟨j, y⟩ := e
    simp only [alPut]
    split
    · simp [alGet]
    · split
      · simp [alGet]
      · rename_i h1 h2
        simp only [alGet, if_neg (fun h : j = k => h2 h.symm), ih]

theorem alGet_alPut_other (d : α) (m : List (Nat × α)) (k j : Nat) (x : α) (h : j ≠ k) :
    alGet d (alPut m k x) j = alGet d m j := by
  induction m with
  | nil => simp [alPut, alGet, Ne.symm h]
  | cons e m ih =>
    obtain ⟨i, y⟩ := e
    simp only [alPut]
    split
    · simp [alGet, Ne.symm h]
    · split
      · rename_i h2
        subst h2
        simp [alGet, Ne.symm h]
      · simp only [alGet, ih]

theorem alGet_alDrop_other (d : α) (m : List (Nat × α)) (k j : Nat) (h : j ≠ k) : alGet d (alDrop m k) j = alGet d m j := by
  induction m with
  | nil => rfl
  | cons e m ih =>
    obtain ⟨i, y⟩ := e
    simp only [alDrop]
    split
    · rename_i h2
      subst h2
      simp [alGet, Ne.symm h, ih]
    · simp only [alGet, ih]

/-- Another index reads as before a write. -/
theorem alGet_alSet_other [DecidableEq α] (d : α) (m : List (Nat × α)) (k j : Nat) (x : α) (h : j ≠ k) :
    alGet d (alSet d m k x) j = alGet d m j := by
  unfold alSet
  split
  · exact alGet_alDrop_other d m k j h
  · exact alGet_alPut_other d m k j x h

theorem alGet_alDrop_same (d : α) (m : List (Nat × α)) (k : Nat) : alGet d (alDrop m k) k = d := by
  induction m with
  | nil => rfl
  | cons e m ih =>
    obtain ⟨j, y⟩ := e
    simp only [alDrop]
    split
    · exact ih
    · rename_i h
      simp only [alGet, if_neg h]
      exact ih

/-- Any value reads as written. -/
theorem alGet_alSet_same [DecidableEq α] (d : α) (m : List (Nat × α)) (k : Nat) (x : α) : alGet d (alSet d m k x) k = x := by
  unfold alSet
  split
  · rename_i h
    rw [h]
    exact alGet_alDrop_same d m k
  · exact alGet_alPut_same d m k x

/-! ## The canonical form -/

/-- Every index from here on is above `k`. -/
def allAbove (k : Nat) (m : List (Nat × α)) : Prop := ∀ e ∈ m, k < e.1

theorem alWf_cons [DecidableEq α] (d : α) (k : Nat) (x : α) (m : List (Nat × α)) :
    alWf d ((k, x) :: m) = true ↔ x ≠ d ∧ allAbove k m ∧ alWf d m = true := by
  induction m generalizing k x with
  | nil => simp [alWf, allAbove]
  | cons e m ih =>
    obtain ⟨j, y⟩ := e
    simp only [alWf, Bool.and_eq_true, decide_eq_true_eq]
    constructor
    · rintro ⟨⟨hx, hk⟩, hw⟩
      refine ⟨hx, ?_, hw⟩
      have h2 := ((ih j y).mp hw).2.1
      intro e he
      rcases List.mem_cons.mp he with rfl | he
      · exact hk
      · exact Nat.lt_trans hk (h2 e he)
    · rintro ⟨hx, ha, hw⟩
      exact ⟨⟨hx, ha (j, y) List.mem_cons_self⟩, hw⟩

theorem allAbove_alPut (k j : Nat) (x : α) (m : List (Nat × α)) (h : allAbove k m) (hj : k < j) :
    allAbove k (alPut m j x) := by
  induction m with
  | nil => intro e he; simp [alPut] at he; subst he; exact hj
  | cons e m ih =>
    obtain ⟨i, y⟩ := e
    have hm : allAbove k m := fun e he => h e (List.mem_cons_of_mem _ he)
    have hi : k < i := h (i, y) List.mem_cons_self
    simp only [alPut]
    split
    · intro e he
      rcases List.mem_cons.mp he with rfl | he
      · exact hj
      · exact h e he
    · split
      · intro e he
        rcases List.mem_cons.mp he with rfl | he
        · exact hj
        · exact hm e he
      · intro e he
        rcases List.mem_cons.mp he with rfl | he
        · exact hi
        · exact ih hm e he

theorem allAbove_alDrop (k j : Nat) (m : List (Nat × α)) (h : allAbove k m) : allAbove k (alDrop m j) := by
  induction m with
  | nil => exact h
  | cons e m ih =>
    obtain ⟨i, y⟩ := e
    have hm : allAbove k m := fun e he => h e (List.mem_cons_of_mem _ he)
    simp only [alDrop]
    split
    · exact ih hm
    · intro e he
      rcases List.mem_cons.mp he with rfl | he
      · exact h _ List.mem_cons_self
      · exact ih hm e he

theorem alWf_alPut [DecidableEq α] (d : α) (m : List (Nat × α)) (k : Nat) (x : α) (hx : x ≠ d) (h : alWf d m = true) :
    alWf d (alPut m k x) = true := by
  induction m with
  | nil => simp [alPut, alWf, hx]
  | cons e m ih =>
    obtain ⟨j, y⟩ := e
    obtain ⟨hy, ha, hw⟩ := (alWf_cons d j y m).mp h
    simp only [alPut]
    split
    · rename_i hk
      refine (alWf_cons d k x _).mpr ⟨hx, ?_, h⟩
      intro e he
      rcases List.mem_cons.mp he with rfl | he
      · exact hk
      · exact Nat.lt_trans hk (ha e he)
    · split
      · rename_i h2
        subst h2
        exact (alWf_cons d k x m).mpr ⟨hx, ha, hw⟩
      · rename_i h1 h2
        exact (alWf_cons d j y _).mpr ⟨hy, allAbove_alPut j k x m ha (by omega), ih hw⟩

theorem alWf_alDrop [DecidableEq α] (d : α) (m : List (Nat × α)) (k : Nat) (h : alWf d m = true) :
    alWf d (alDrop m k) = true := by
  induction m with
  | nil => exact h
  | cons e m ih =>
    obtain ⟨j, y⟩ := e
    obtain ⟨hy, ha, hw⟩ := (alWf_cons d j y m).mp h
    simp only [alDrop]
    split
    · exact ih hw
    · exact (alWf_cons d j y _).mpr ⟨hy, allAbove_alDrop j k m ha, ih hw⟩

/-- A write keeps the canonical form. -/
theorem alWf_alSet [DecidableEq α] (d : α) (m : List (Nat × α)) (k : Nat) (x : α) (h : alWf d m = true) :
    alWf d (alSet d m k x) = true := by
  unfold alSet
  split
  · exact alWf_alDrop d m k h
  · rename_i hx
    exact alWf_alPut d m k x hx h

/-- Taking entries away keeps the canonical form. -/
theorem alWf_filter [DecidableEq α] (d : α) (p : Nat × α → Bool) (m : List (Nat × α)) (h : alWf d m = true) :
    alWf d (m.filter p) = true := by
  induction m with
  | nil => exact h
  | cons e m ih =>
    obtain ⟨j, y⟩ := e
    obtain ⟨hy, ha, hw⟩ := (alWf_cons d j y m).mp h
    simp only [List.filter]
    split
    · exact (alWf_cons d j y _).mpr ⟨hy, fun e he => ha e (List.mem_filter.mp he).1, ih hw⟩
    · exact ih hw

/-- Clearing a range keeps the canonical form. -/
theorem alWf_alClear [DecidableEq α] (d : α) (m : List (Nat × α)) (lo hi : Nat) (h : alWf d m = true) :
    alWf d (alClear m lo hi) = true := alWf_filter d _ m h

/-! ## Byte memories -/

theorem Memory.byte_put_same (m : Memory) (a : Nat) (b : Byte) : (m.put a b).byte a = b :=
  alGet_alSet_same 0 m a b

theorem Memory.byte_put_other (m : Memory) (a c : Nat) (b : Byte) (h : c ≠ a) : (m.put a b).byte c = m.byte c :=
  alGet_alSet_other 0 m a c b h

theorem Memory.put_wf (m : Memory) (a : Nat) (b : Byte) (h : m.wf = true) : (m.put a b).wf = true := alWf_alSet 0 m a b h

theorem Memory.write_wf (m : Memory) (a : Nat) (bs : List Byte) (h : m.wf = true) : (m.write a bs).wf = true := by
  induction bs generalizing m a with
  | nil => exact h
  | cons b bs ih => exact ih _ _ (m.put_wf a b h)

theorem Memory.writeAt_wf (m : Memory) (l : List (Nat × Byte)) (h : m.wf = true) : (m.writeAt l).wf = true := by
  induction l generalizing m with
  | nil => exact h
  | cons e l ih => exact ih _ (m.put_wf e.1 e.2 h)

theorem Memory.zero_wf (m : Memory) (lo hi : Nat) (h : m.wf = true) : (m.zero lo hi).wf = true := alWf_alClear 0 m lo hi h

theorem Memory.filter_wf (m : Memory) (p : Host.Cell → Bool) (h : m.wf = true) : Memory.wf (m.filter p) = true :=
  alWf_filter 0 p m h

/-- A byte outside a consecutive write reads as before. -/
theorem Memory.byte_write_outside (m : Memory) (a : Nat) (bs : List Byte) (c : Nat) (h : c < a ∨ a + bs.length ≤ c) :
    (m.write a bs).byte c = m.byte c := by
  induction bs generalizing m a with
  | nil => rfl
  | cons b bs ih =>
    simp only [Memory.write, List.length_cons] at *
    rw [ih (m.put a b) (a + 1) (by omega), m.byte_put_other a c b (by omega)]

/-- A byte that a list of writes does not name reads as before. -/
theorem Memory.byte_writeAt_other (m : Memory) (l : List (Nat × Byte)) (c : Nat) (h : ∀ e ∈ l, e.1 ≠ c) :
    (m.writeAt l).byte c = m.byte c := by
  induction l generalizing m with
  | nil => rfl
  | cons e l ih =>
    obtain ⟨a, b⟩ := e
    simp only [Memory.writeAt]
    rw [ih _ fun e he => h e (List.mem_cons_of_mem _ he),
      m.byte_put_other a c b (Ne.symm (h (a, b) List.mem_cons_self))]

/-! ## Folds -/

/-- What each step of a fold keeps, the fold keeps. -/
theorem forL_keeps {β γ : Type} (P : γ → Prop) (l : List β) (f : β → γ → γ) (a : γ) (ha : P a)
    (hf : ∀ b ∈ l, ∀ c, P c → P (f b c)) : P (forL l f a) := by
  unfold forL
  induction l generalizing a with
  | nil => exact ha
  | cons b l ih =>
    exact ih (f b a) (hf b List.mem_cons_self a ha) fun c hc => hf c (List.mem_cons_of_mem _ hc)

theorem forN_keeps {γ : Type} (P : γ → Prop) (n : Nat) (f : Nat → γ → γ) (a : γ) (ha : P a)
    (hf : ∀ i c, P c → P (f i c)) : P (forN n f a) := by
  unfold forN
  generalize List.range n = l
  induction l generalizing a with
  | nil => exact ha
  | cons b l ih => exact ih (f b a) (hf b a ha)

end Sys2Proof.Machine
end

