-- ==== Sys2Proof/Laws/Commands.lean ====
section
/-! SUPPORT. Registers read back what was written, and what the wrapper of a host command does. -/

namespace Sys2Proof.Machine

/-! ## Registers -/

theorem Dev.reg_setReg_other (d : Dev) (off v o : Nat) (h : o ≠ off) : (d.setReg off v).reg o = d.reg o := by
  have key : ∀ (m : NatMap) (w : Nat), alGet w (alSet (regReset off) m off v) o = alGet w m o := by
    intro m w
    unfold alSet
    split
    · exact alGet_alDrop_other w m off o h
    · exact alGet_alPut_other w m off o v h
  exact key d.regs (regReset o)

theorem Dev.reg_setReg_same (d : Dev) (off v : Nat) : (d.setReg off v).reg off = v :=
  alGet_alSet_same (regReset off) d.regs off v

@[simp] theorem Dev.reg_setFetched (d : Dev) (c : FetchedCmd) (o : Nat) : (d.setFetched c).reg o = d.reg o := rfl

@[simp] theorem Dev.flag_setFetched (d : Dev) (c : FetchedCmd) (o i : Nat) : (d.setFetched c).flag o i = d.flag o i := rfl

@[simp] theorem Dev.fld_setFetched (d : Dev) (c : FetchedCmd) (o i j : Nat) : (d.setFetched c).fld o i j = d.fld o i j := rfl

/-! ## The wrapper -/

/-- A command of another opcode, or none, at the head of the queue: the row has no effect. -/
theorem Dev.cmd_idle (d : Dev) (q : QueueN) (opc : Nat) (spec : List PKind) (bad : Params → Option Nat)
    (act : FetchedCmd → Params → Dev → Dev) (h : ∀ c, d.startable q.val = some c → c.opc ≠ opc) :
    d.cmd q opc spec bad act = d := by
  unfold Dev.cmd
  cases hc : d.startable q.val with
  | none => rfl
  | some c => simp [h c hc]

/-- A command that no check stops and that is not critical acts. -/
theorem Dev.cmd_acts (d : Dev) (q : QueueN) (opc : Nat) (spec : List PKind) (bad : Params → Option Nat)
    (act : FetchedCmd → Params → Dev → Dev) (c : FetchedCmd) (hs : d.startable q.val = some c) (ho : c.opc = opc)
    (hf : d.flag rHqDevstat 30 = false) (hp : c.part < 16 → d.partFatal c.part = true → runsWhenFatal opc = true)
    (hk : (c.params spec).ok = true) (hb : bad (c.params spec) = none) (hc : c.crit = false) :
    d.cmd q opc spec bad act = act { c with started := true } (c.params spec) (d.setFetched { c with started := true }) := by
  have hpart : ((decide (c.part < 16) && d.partFatal c.part) && !runsWhenFatal opc) = false := by
    by_cases h1 : c.part < 16
    · cases h2 : d.partFatal c.part with
      | false => simp
      | true => simp [hp h1 h2]
    · simp [h1]
  have hcrit : ({ c with started := true } : FetchedCmd).crit = false := hc
  unfold Dev.cmd
  simp only [hs, ho, ne_eq, not_true_eq_false, if_false, Dev.flag_setFetched, hf, Bool.false_eq_true, hk, Bool.not_true,
    hb, hcrit]
  have hpf : (d.setFetched { c with started := true }).partFatal = d.partFatal := rfl
  have hpp : ({ c with started := true } : FetchedCmd).part = c.part := rfl
  rw [hpf, hpp, hpart]
  rfl

/-- A critical command that no check stops, and whose authentication and buffer digest hold, acts. -/
theorem Dev.cmd_crit (d e : Dev) (q : QueueN) (opc : Nat) (spec : List PKind) (bad : Params → Option Nat)
    (act : FetchedCmd → Params → Dev → Dev) (c : FetchedCmd) (hs : d.startable q.val = some c) (ho : c.opc = opc)
    (hf : d.flag rHqDevstat 30 = false) (hp : c.part < 16 → d.partFatal c.part = true → runsWhenFatal opc = true)
    (hk : (c.params spec).ok = true) (hb : bad (c.params spec) = none) (hc : c.crit = true)
    (ha : (d.setFetched { c with started := true }).critCheck { c with started := true } (c.params spec) = (e, none))
    (hd : c.plen = 0 ∨ (Config.sha256 c.buf).toNat = beNat (slice c.entry 0x20 32)) :
    d.cmd q opc spec bad act = act { c with started := true } (c.params spec) e := by
  have hpart : ((decide (c.part < 16) && d.partFatal c.part) && !runsWhenFatal opc) = false := by
    by_cases h1 : c.part < 16
    · cases h2 : d.partFatal c.part with
      | false => simp
      | true => simp [hp h1 h2]
    · simp [h1]
  have hcrit : ({ c with started := true } : FetchedCmd).crit = true := hc
  have hdig : (({ c with started := true } : FetchedCmd).plen != 0 &&
      (Config.sha256 c.buf).toNat != beNat (slice c.entry 0x20 32)) = false := by
    rcases hd with h | h
    · have : ({ c with started := true } : FetchedCmd).plen = 0 := h
      simp [this]
    · simp [h]
  unfold Dev.cmd
  simp only [hs, ho, ne_eq, not_true_eq_false, if_false, Dev.flag_setFetched, hf, Bool.false_eq_true, hk, Bool.not_true,
    hb, hcrit, if_true, ha, hdig]
  have hpf : (d.setFetched { c with started := true }).partFatal = d.partFatal := rfl
  have hpp : ({ c with started := true } : FetchedCmd).part = c.part := rfl
  rw [hpf, hpp, hpart]
  rfl

end Sys2Proof.Machine
end

