-- ==== Sys2Proof/Laws/State.lean ====
section
/-! SUPPORT. What each named update of the device leaves as it was, one lemma for each field. -/

namespace Sys2Proof.Machine

/-! ## setReg -/

section

variable (d : Dev) (off v : Nat)

@[simp] theorem Dev.setReg_ctxs : (d.setReg off v).ctxs = d.ctxs := rfl
@[simp] theorem Dev.setReg_istore : (d.setReg off v).istore = d.istore := rfl
@[simp] theorem Dev.setReg_fill : (d.setReg off v).fill = d.fill := rfl
@[simp] theorem Dev.setReg_spanQ : (d.setReg off v).spanQ = d.spanQ := rfl
@[simp] theorem Dev.setReg_hemis : (d.setReg off v).hemis = d.hemis := rfl
@[simp] theorem Dev.setReg_box : (d.setReg off v).box = d.box := rfl
@[simp] theorem Dev.setReg_ls : (d.setReg off v).ls = d.ls := rfl
@[simp] theorem Dev.setReg_vregs : (d.setReg off v).vregs = d.vregs := rfl
@[simp] theorem Dev.setReg_pregs : (d.setReg off v).pregs = d.pregs := rfl
@[simp] theorem Dev.setReg_aregs : (d.setReg off v).aregs = d.aregs := rfl
@[simp] theorem Dev.setReg_accs : (d.setReg off v).accs = d.accs := rfl
@[simp] theorem Dev.setReg_pds : (d.setReg off v).pds = d.pds := rfl
@[simp] theorem Dev.setReg_pvs : (d.setReg off v).pvs = d.pvs := rfl
@[simp] theorem Dev.setReg_wds : (d.setReg off v).wds = d.wds := rfl
@[simp] theorem Dev.setReg_cells : (d.setReg off v).cells = d.cells := rfl
@[simp] theorem Dev.setReg_dcnt : (d.setReg off v).dcnt = d.dcnt := rfl
@[simp] theorem Dev.setReg_rng : (d.setReg off v).rng = d.rng := rfl
@[simp] theorem Dev.setReg_claims : (d.setReg off v).claims = d.claims := rfl
@[simp] theorem Dev.setReg_nextReq : (d.setReg off v).nextReq = d.nextReq := rfl
@[simp] theorem Dev.setReg_rim : (d.setReg off v).rim = d.rim := rfl
@[simp] theorem Dev.setReg_hostMem : (d.setReg off v).hostMem = d.hostMem := rfl
@[simp] theorem Dev.setReg_images : (d.setReg off v).images = d.images := rfl
@[simp] theorem Dev.setReg_mem : (d.setReg off v).mem = d.mem := rfl
@[simp] theorem Dev.setReg_brv : (d.setReg off v).brv = d.brv := rfl
@[simp] theorem Dev.setReg_ing : (d.setReg off v).ing = d.ing := rfl
@[simp] theorem Dev.setReg_cus : (d.setReg off v).cus = d.cus := rfl
@[simp] theorem Dev.setReg_hq : (d.setReg off v).hq = d.hq := rfl
@[simp] theorem Dev.setReg_parts : (d.setReg off v).parts = d.parts := rfl
@[simp] theorem Dev.setReg_psv : (d.setReg off v).psv = d.psv := rfl
@[simp] theorem Dev.setReg_nevRing : (d.setReg off v).nevRing = d.nevRing := rfl
@[simp] theorem Dev.setReg_smpRing : (d.setReg off v).smpRing = d.smpRing := rfl
@[simp] theorem Dev.setReg_samples : (d.setReg off v).samples = d.samples := rfl
@[simp] theorem Dev.setReg_sys : (d.setReg off v).sys = d.sys := rfl
@[simp] theorem Dev.setReg_fresh : (d.setReg off v).fresh = d.fresh := rfl

end

/-! ## resetReg -/

section

variable (d : Dev) (off : Nat)

@[simp] theorem Dev.resetReg_ctxs : (d.resetReg off).ctxs = d.ctxs := rfl
@[simp] theorem Dev.resetReg_istore : (d.resetReg off).istore = d.istore := rfl
@[simp] theorem Dev.resetReg_fill : (d.resetReg off).fill = d.fill := rfl
@[simp] theorem Dev.resetReg_spanQ : (d.resetReg off).spanQ = d.spanQ := rfl
@[simp] theorem Dev.resetReg_hemis : (d.resetReg off).hemis = d.hemis := rfl
@[simp] theorem Dev.resetReg_box : (d.resetReg off).box = d.box := rfl
@[simp] theorem Dev.resetReg_ls : (d.resetReg off).ls = d.ls := rfl
@[simp] theorem Dev.resetReg_vregs : (d.resetReg off).vregs = d.vregs := rfl
@[simp] theorem Dev.resetReg_pregs : (d.resetReg off).pregs = d.pregs := rfl
@[simp] theorem Dev.resetReg_aregs : (d.resetReg off).aregs = d.aregs := rfl
@[simp] theorem Dev.resetReg_accs : (d.resetReg off).accs = d.accs := rfl
@[simp] theorem Dev.resetReg_pds : (d.resetReg off).pds = d.pds := rfl
@[simp] theorem Dev.resetReg_pvs : (d.resetReg off).pvs = d.pvs := rfl
@[simp] theorem Dev.resetReg_wds : (d.resetReg off).wds = d.wds := rfl
@[simp] theorem Dev.resetReg_cells : (d.resetReg off).cells = d.cells := rfl
@[simp] theorem Dev.resetReg_dcnt : (d.resetReg off).dcnt = d.dcnt := rfl
@[simp] theorem Dev.resetReg_rng : (d.resetReg off).rng = d.rng := rfl
@[simp] theorem Dev.resetReg_claims : (d.resetReg off).claims = d.claims := rfl
@[simp] theorem Dev.resetReg_nextReq : (d.resetReg off).nextReq = d.nextReq := rfl
@[simp] theorem Dev.resetReg_rim : (d.resetReg off).rim = d.rim := rfl
@[simp] theorem Dev.resetReg_hostMem : (d.resetReg off).hostMem = d.hostMem := rfl
@[simp] theorem Dev.resetReg_images : (d.resetReg off).images = d.images := rfl
@[simp] theorem Dev.resetReg_mem : (d.resetReg off).mem = d.mem := rfl
@[simp] theorem Dev.resetReg_brv : (d.resetReg off).brv = d.brv := rfl
@[simp] theorem Dev.resetReg_ing : (d.resetReg off).ing = d.ing := rfl
@[simp] theorem Dev.resetReg_cus : (d.resetReg off).cus = d.cus := rfl
@[simp] theorem Dev.resetReg_hq : (d.resetReg off).hq = d.hq := rfl
@[simp] theorem Dev.resetReg_parts : (d.resetReg off).parts = d.parts := rfl
@[simp] theorem Dev.resetReg_psv : (d.resetReg off).psv = d.psv := rfl
@[simp] theorem Dev.resetReg_nevRing : (d.resetReg off).nevRing = d.nevRing := rfl
@[simp] theorem Dev.resetReg_smpRing : (d.resetReg off).smpRing = d.smpRing := rfl
@[simp] theorem Dev.resetReg_samples : (d.resetReg off).samples = d.samples := rfl
@[simp] theorem Dev.resetReg_sys : (d.resetReg off).sys = d.sys := rfl
@[simp] theorem Dev.resetReg_fresh : (d.resetReg off).fresh = d.fresh := rfl

end

/-! ## resetRegs -/

section

variable (d : Dev) (lo hi : Nat)

@[simp] theorem Dev.resetRegs_ctxs : (d.resetRegs lo hi).ctxs = d.ctxs := rfl
@[simp] theorem Dev.resetRegs_istore : (d.resetRegs lo hi).istore = d.istore := rfl
@[simp] theorem Dev.resetRegs_fill : (d.resetRegs lo hi).fill = d.fill := rfl
@[simp] theorem Dev.resetRegs_spanQ : (d.resetRegs lo hi).spanQ = d.spanQ := rfl
@[simp] theorem Dev.resetRegs_hemis : (d.resetRegs lo hi).hemis = d.hemis := rfl
@[simp] theorem Dev.resetRegs_box : (d.resetRegs lo hi).box = d.box := rfl
@[simp] theorem Dev.resetRegs_ls : (d.resetRegs lo hi).ls = d.ls := rfl
@[simp] theorem Dev.resetRegs_vregs : (d.resetRegs lo hi).vregs = d.vregs := rfl
@[simp] theorem Dev.resetRegs_pregs : (d.resetRegs lo hi).pregs = d.pregs := rfl
@[simp] theorem Dev.resetRegs_aregs : (d.resetRegs lo hi).aregs = d.aregs := rfl
@[simp] theorem Dev.resetRegs_accs : (d.resetRegs lo hi).accs = d.accs := rfl
@[simp] theorem Dev.resetRegs_pds : (d.resetRegs lo hi).pds = d.pds := rfl
@[simp] theorem Dev.resetRegs_pvs : (d.resetRegs lo hi).pvs = d.pvs := rfl
@[simp] theorem Dev.resetRegs_wds : (d.resetRegs lo hi).wds = d.wds := rfl
@[simp] theorem Dev.resetRegs_cells : (d.resetRegs lo hi).cells = d.cells := rfl
@[simp] theorem Dev.resetRegs_dcnt : (d.resetRegs lo hi).dcnt = d.dcnt := rfl
@[simp] theorem Dev.resetRegs_rng : (d.resetRegs lo hi).rng = d.rng := rfl
@[simp] theorem Dev.resetRegs_claims : (d.resetRegs lo hi).claims = d.claims := rfl
@[simp] theorem Dev.resetRegs_nextReq : (d.resetRegs lo hi).nextReq = d.nextReq := rfl
@[simp] theorem Dev.resetRegs_rim : (d.resetRegs lo hi).rim = d.rim := rfl
@[simp] theorem Dev.resetRegs_hostMem : (d.resetRegs lo hi).hostMem = d.hostMem := rfl
@[simp] theorem Dev.resetRegs_images : (d.resetRegs lo hi).images = d.images := rfl
@[simp] theorem Dev.resetRegs_mem : (d.resetRegs lo hi).mem = d.mem := rfl
@[simp] theorem Dev.resetRegs_brv : (d.resetRegs lo hi).brv = d.brv := rfl
@[simp] theorem Dev.resetRegs_ing : (d.resetRegs lo hi).ing = d.ing := rfl
@[simp] theorem Dev.resetRegs_cus : (d.resetRegs lo hi).cus = d.cus := rfl
@[simp] theorem Dev.resetRegs_hq : (d.resetRegs lo hi).hq = d.hq := rfl
@[simp] theorem Dev.resetRegs_parts : (d.resetRegs lo hi).parts = d.parts := rfl
@[simp] theorem Dev.resetRegs_psv : (d.resetRegs lo hi).psv = d.psv := rfl
@[simp] theorem Dev.resetRegs_nevRing : (d.resetRegs lo hi).nevRing = d.nevRing := rfl
@[simp] theorem Dev.resetRegs_smpRing : (d.resetRegs lo hi).smpRing = d.smpRing := rfl
@[simp] theorem Dev.resetRegs_samples : (d.resetRegs lo hi).samples = d.samples := rfl
@[simp] theorem Dev.resetRegs_sys : (d.resetRegs lo hi).sys = d.sys := rfl
@[simp] theorem Dev.resetRegs_fresh : (d.resetRegs lo hi).fresh = d.fresh := rfl

end

/-! ## setFld -/

section

variable (d : Dev) (off hi lo v : Nat)

@[simp] theorem Dev.setFld_ctxs : (d.setFld off hi lo v).ctxs = d.ctxs := Dev.setReg_ctxs ..
@[simp] theorem Dev.setFld_istore : (d.setFld off hi lo v).istore = d.istore := Dev.setReg_istore ..
@[simp] theorem Dev.setFld_fill : (d.setFld off hi lo v).fill = d.fill := Dev.setReg_fill ..
@[simp] theorem Dev.setFld_spanQ : (d.setFld off hi lo v).spanQ = d.spanQ := Dev.setReg_spanQ ..
@[simp] theorem Dev.setFld_hemis : (d.setFld off hi lo v).hemis = d.hemis := Dev.setReg_hemis ..
@[simp] theorem Dev.setFld_box : (d.setFld off hi lo v).box = d.box := Dev.setReg_box ..
@[simp] theorem Dev.setFld_ls : (d.setFld off hi lo v).ls = d.ls := Dev.setReg_ls ..
@[simp] theorem Dev.setFld_vregs : (d.setFld off hi lo v).vregs = d.vregs := Dev.setReg_vregs ..
@[simp] theorem Dev.setFld_pregs : (d.setFld off hi lo v).pregs = d.pregs := Dev.setReg_pregs ..
@[simp] theorem Dev.setFld_aregs : (d.setFld off hi lo v).aregs = d.aregs := Dev.setReg_aregs ..
@[simp] theorem Dev.setFld_accs : (d.setFld off hi lo v).accs = d.accs := Dev.setReg_accs ..
@[simp] theorem Dev.setFld_pds : (d.setFld off hi lo v).pds = d.pds := Dev.setReg_pds ..
@[simp] theorem Dev.setFld_pvs : (d.setFld off hi lo v).pvs = d.pvs := Dev.setReg_pvs ..
@[simp] theorem Dev.setFld_wds : (d.setFld off hi lo v).wds = d.wds := Dev.setReg_wds ..
@[simp] theorem Dev.setFld_cells : (d.setFld off hi lo v).cells = d.cells := Dev.setReg_cells ..
@[simp] theorem Dev.setFld_dcnt : (d.setFld off hi lo v).dcnt = d.dcnt := Dev.setReg_dcnt ..
@[simp] theorem Dev.setFld_rng : (d.setFld off hi lo v).rng = d.rng := Dev.setReg_rng ..
@[simp] theorem Dev.setFld_claims : (d.setFld off hi lo v).claims = d.claims := Dev.setReg_claims ..
@[simp] theorem Dev.setFld_nextReq : (d.setFld off hi lo v).nextReq = d.nextReq := Dev.setReg_nextReq ..
@[simp] theorem Dev.setFld_rim : (d.setFld off hi lo v).rim = d.rim := Dev.setReg_rim ..
@[simp] theorem Dev.setFld_hostMem : (d.setFld off hi lo v).hostMem = d.hostMem := Dev.setReg_hostMem ..
@[simp] theorem Dev.setFld_images : (d.setFld off hi lo v).images = d.images := Dev.setReg_images ..
@[simp] theorem Dev.setFld_mem : (d.setFld off hi lo v).mem = d.mem := Dev.setReg_mem ..
@[simp] theorem Dev.setFld_brv : (d.setFld off hi lo v).brv = d.brv := Dev.setReg_brv ..
@[simp] theorem Dev.setFld_ing : (d.setFld off hi lo v).ing = d.ing := Dev.setReg_ing ..
@[simp] theorem Dev.setFld_cus : (d.setFld off hi lo v).cus = d.cus := Dev.setReg_cus ..
@[simp] theorem Dev.setFld_hq : (d.setFld off hi lo v).hq = d.hq := Dev.setReg_hq ..
@[simp] theorem Dev.setFld_parts : (d.setFld off hi lo v).parts = d.parts := Dev.setReg_parts ..
@[simp] theorem Dev.setFld_psv : (d.setFld off hi lo v).psv = d.psv := Dev.setReg_psv ..
@[simp] theorem Dev.setFld_nevRing : (d.setFld off hi lo v).nevRing = d.nevRing := Dev.setReg_nevRing ..
@[simp] theorem Dev.setFld_smpRing : (d.setFld off hi lo v).smpRing = d.smpRing := Dev.setReg_smpRing ..
@[simp] theorem Dev.setFld_samples : (d.setFld off hi lo v).samples = d.samples := Dev.setReg_samples ..
@[simp] theorem Dev.setFld_sys : (d.setFld off hi lo v).sys = d.sys := Dev.setReg_sys ..
@[simp] theorem Dev.setFld_fresh : (d.setFld off hi lo v).fresh = d.fresh := Dev.setReg_fresh ..

end

/-! ## setFlag -/

section

variable (d : Dev) (off i : Nat) (b : Bool)

@[simp] theorem Dev.setFlag_ctxs : (d.setFlag off i b).ctxs = d.ctxs := Dev.setFld_ctxs ..
@[simp] theorem Dev.setFlag_istore : (d.setFlag off i b).istore = d.istore := Dev.setFld_istore ..
@[simp] theorem Dev.setFlag_fill : (d.setFlag off i b).fill = d.fill := Dev.setFld_fill ..
@[simp] theorem Dev.setFlag_spanQ : (d.setFlag off i b).spanQ = d.spanQ := Dev.setFld_spanQ ..
@[simp] theorem Dev.setFlag_hemis : (d.setFlag off i b).hemis = d.hemis := Dev.setFld_hemis ..
@[simp] theorem Dev.setFlag_box : (d.setFlag off i b).box = d.box := Dev.setFld_box ..
@[simp] theorem Dev.setFlag_ls : (d.setFlag off i b).ls = d.ls := Dev.setFld_ls ..
@[simp] theorem Dev.setFlag_vregs : (d.setFlag off i b).vregs = d.vregs := Dev.setFld_vregs ..
@[simp] theorem Dev.setFlag_pregs : (d.setFlag off i b).pregs = d.pregs := Dev.setFld_pregs ..
@[simp] theorem Dev.setFlag_aregs : (d.setFlag off i b).aregs = d.aregs := Dev.setFld_aregs ..
@[simp] theorem Dev.setFlag_accs : (d.setFlag off i b).accs = d.accs := Dev.setFld_accs ..
@[simp] theorem Dev.setFlag_pds : (d.setFlag off i b).pds = d.pds := Dev.setFld_pds ..
@[simp] theorem Dev.setFlag_pvs : (d.setFlag off i b).pvs = d.pvs := Dev.setFld_pvs ..
@[simp] theorem Dev.setFlag_wds : (d.setFlag off i b).wds = d.wds := Dev.setFld_wds ..
@[simp] theorem Dev.setFlag_cells : (d.setFlag off i b).cells = d.cells := Dev.setFld_cells ..
@[simp] theorem Dev.setFlag_dcnt : (d.setFlag off i b).dcnt = d.dcnt := Dev.setFld_dcnt ..
@[simp] theorem Dev.setFlag_rng : (d.setFlag off i b).rng = d.rng := Dev.setFld_rng ..
@[simp] theorem Dev.setFlag_claims : (d.setFlag off i b).claims = d.claims := Dev.setFld_claims ..
@[simp] theorem Dev.setFlag_nextReq : (d.setFlag off i b).nextReq = d.nextReq := Dev.setFld_nextReq ..
@[simp] theorem Dev.setFlag_rim : (d.setFlag off i b).rim = d.rim := Dev.setFld_rim ..
@[simp] theorem Dev.setFlag_hostMem : (d.setFlag off i b).hostMem = d.hostMem := Dev.setFld_hostMem ..
@[simp] theorem Dev.setFlag_images : (d.setFlag off i b).images = d.images := Dev.setFld_images ..
@[simp] theorem Dev.setFlag_mem : (d.setFlag off i b).mem = d.mem := Dev.setFld_mem ..
@[simp] theorem Dev.setFlag_brv : (d.setFlag off i b).brv = d.brv := Dev.setFld_brv ..
@[simp] theorem Dev.setFlag_ing : (d.setFlag off i b).ing = d.ing := Dev.setFld_ing ..
@[simp] theorem Dev.setFlag_cus : (d.setFlag off i b).cus = d.cus := Dev.setFld_cus ..
@[simp] theorem Dev.setFlag_hq : (d.setFlag off i b).hq = d.hq := Dev.setFld_hq ..
@[simp] theorem Dev.setFlag_parts : (d.setFlag off i b).parts = d.parts := Dev.setFld_parts ..
@[simp] theorem Dev.setFlag_psv : (d.setFlag off i b).psv = d.psv := Dev.setFld_psv ..
@[simp] theorem Dev.setFlag_nevRing : (d.setFlag off i b).nevRing = d.nevRing := Dev.setFld_nevRing ..
@[simp] theorem Dev.setFlag_smpRing : (d.setFlag off i b).smpRing = d.smpRing := Dev.setFld_smpRing ..
@[simp] theorem Dev.setFlag_samples : (d.setFlag off i b).samples = d.samples := Dev.setFld_samples ..
@[simp] theorem Dev.setFlag_sys : (d.setFlag off i b).sys = d.sys := Dev.setFld_sys ..
@[simp] theorem Dev.setFlag_fresh : (d.setFlag off i b).fresh = d.fresh := Dev.setFld_fresh ..

end

/-! ## bump -/

section

variable (d : Dev) (off n : Nat)

@[simp] theorem Dev.bump_ctxs : (d.bump off n).ctxs = d.ctxs := Dev.setReg_ctxs ..
@[simp] theorem Dev.bump_istore : (d.bump off n).istore = d.istore := Dev.setReg_istore ..
@[simp] theorem Dev.bump_fill : (d.bump off n).fill = d.fill := Dev.setReg_fill ..
@[simp] theorem Dev.bump_spanQ : (d.bump off n).spanQ = d.spanQ := Dev.setReg_spanQ ..
@[simp] theorem Dev.bump_hemis : (d.bump off n).hemis = d.hemis := Dev.setReg_hemis ..
@[simp] theorem Dev.bump_box : (d.bump off n).box = d.box := Dev.setReg_box ..
@[simp] theorem Dev.bump_ls : (d.bump off n).ls = d.ls := Dev.setReg_ls ..
@[simp] theorem Dev.bump_vregs : (d.bump off n).vregs = d.vregs := Dev.setReg_vregs ..
@[simp] theorem Dev.bump_pregs : (d.bump off n).pregs = d.pregs := Dev.setReg_pregs ..
@[simp] theorem Dev.bump_aregs : (d.bump off n).aregs = d.aregs := Dev.setReg_aregs ..
@[simp] theorem Dev.bump_accs : (d.bump off n).accs = d.accs := Dev.setReg_accs ..
@[simp] theorem Dev.bump_pds : (d.bump off n).pds = d.pds := Dev.setReg_pds ..
@[simp] theorem Dev.bump_pvs : (d.bump off n).pvs = d.pvs := Dev.setReg_pvs ..
@[simp] theorem Dev.bump_wds : (d.bump off n).wds = d.wds := Dev.setReg_wds ..
@[simp] theorem Dev.bump_cells : (d.bump off n).cells = d.cells := Dev.setReg_cells ..
@[simp] theorem Dev.bump_dcnt : (d.bump off n).dcnt = d.dcnt := Dev.setReg_dcnt ..
@[simp] theorem Dev.bump_rng : (d.bump off n).rng = d.rng := Dev.setReg_rng ..
@[simp] theorem Dev.bump_claims : (d.bump off n).claims = d.claims := Dev.setReg_claims ..
@[simp] theorem Dev.bump_nextReq : (d.bump off n).nextReq = d.nextReq := Dev.setReg_nextReq ..
@[simp] theorem Dev.bump_rim : (d.bump off n).rim = d.rim := Dev.setReg_rim ..
@[simp] theorem Dev.bump_hostMem : (d.bump off n).hostMem = d.hostMem := Dev.setReg_hostMem ..
@[simp] theorem Dev.bump_images : (d.bump off n).images = d.images := Dev.setReg_images ..
@[simp] theorem Dev.bump_mem : (d.bump off n).mem = d.mem := Dev.setReg_mem ..
@[simp] theorem Dev.bump_brv : (d.bump off n).brv = d.brv := Dev.setReg_brv ..
@[simp] theorem Dev.bump_ing : (d.bump off n).ing = d.ing := Dev.setReg_ing ..
@[simp] theorem Dev.bump_cus : (d.bump off n).cus = d.cus := Dev.setReg_cus ..
@[simp] theorem Dev.bump_hq : (d.bump off n).hq = d.hq := Dev.setReg_hq ..
@[simp] theorem Dev.bump_parts : (d.bump off n).parts = d.parts := Dev.setReg_parts ..
@[simp] theorem Dev.bump_psv : (d.bump off n).psv = d.psv := Dev.setReg_psv ..
@[simp] theorem Dev.bump_nevRing : (d.bump off n).nevRing = d.nevRing := Dev.setReg_nevRing ..
@[simp] theorem Dev.bump_smpRing : (d.bump off n).smpRing = d.smpRing := Dev.setReg_smpRing ..
@[simp] theorem Dev.bump_samples : (d.bump off n).samples = d.samples := Dev.setReg_samples ..
@[simp] theorem Dev.bump_sys : (d.bump off n).sys = d.sys := Dev.setReg_sys ..
@[simp] theorem Dev.bump_fresh : (d.bump off n).fresh = d.fresh := Dev.setReg_fresh ..

end

/-! ## bump64 -/

section

variable (d : Dev) (off n : Nat)

@[simp] theorem Dev.bump64_ctxs : (d.bump64 off n).ctxs = d.ctxs := Dev.setReg_ctxs ..
@[simp] theorem Dev.bump64_istore : (d.bump64 off n).istore = d.istore := Dev.setReg_istore ..
@[simp] theorem Dev.bump64_fill : (d.bump64 off n).fill = d.fill := Dev.setReg_fill ..
@[simp] theorem Dev.bump64_spanQ : (d.bump64 off n).spanQ = d.spanQ := Dev.setReg_spanQ ..
@[simp] theorem Dev.bump64_hemis : (d.bump64 off n).hemis = d.hemis := Dev.setReg_hemis ..
@[simp] theorem Dev.bump64_box : (d.bump64 off n).box = d.box := Dev.setReg_box ..
@[simp] theorem Dev.bump64_ls : (d.bump64 off n).ls = d.ls := Dev.setReg_ls ..
@[simp] theorem Dev.bump64_vregs : (d.bump64 off n).vregs = d.vregs := Dev.setReg_vregs ..
@[simp] theorem Dev.bump64_pregs : (d.bump64 off n).pregs = d.pregs := Dev.setReg_pregs ..
@[simp] theorem Dev.bump64_aregs : (d.bump64 off n).aregs = d.aregs := Dev.setReg_aregs ..
@[simp] theorem Dev.bump64_accs : (d.bump64 off n).accs = d.accs := Dev.setReg_accs ..
@[simp] theorem Dev.bump64_pds : (d.bump64 off n).pds = d.pds := Dev.setReg_pds ..
@[simp] theorem Dev.bump64_pvs : (d.bump64 off n).pvs = d.pvs := Dev.setReg_pvs ..
@[simp] theorem Dev.bump64_wds : (d.bump64 off n).wds = d.wds := Dev.setReg_wds ..
@[simp] theorem Dev.bump64_cells : (d.bump64 off n).cells = d.cells := Dev.setReg_cells ..
@[simp] theorem Dev.bump64_dcnt : (d.bump64 off n).dcnt = d.dcnt := Dev.setReg_dcnt ..
@[simp] theorem Dev.bump64_rng : (d.bump64 off n).rng = d.rng := Dev.setReg_rng ..
@[simp] theorem Dev.bump64_claims : (d.bump64 off n).claims = d.claims := Dev.setReg_claims ..
@[simp] theorem Dev.bump64_nextReq : (d.bump64 off n).nextReq = d.nextReq := Dev.setReg_nextReq ..
@[simp] theorem Dev.bump64_rim : (d.bump64 off n).rim = d.rim := Dev.setReg_rim ..
@[simp] theorem Dev.bump64_hostMem : (d.bump64 off n).hostMem = d.hostMem := Dev.setReg_hostMem ..
@[simp] theorem Dev.bump64_images : (d.bump64 off n).images = d.images := Dev.setReg_images ..
@[simp] theorem Dev.bump64_mem : (d.bump64 off n).mem = d.mem := Dev.setReg_mem ..
@[simp] theorem Dev.bump64_brv : (d.bump64 off n).brv = d.brv := Dev.setReg_brv ..
@[simp] theorem Dev.bump64_ing : (d.bump64 off n).ing = d.ing := Dev.setReg_ing ..
@[simp] theorem Dev.bump64_cus : (d.bump64 off n).cus = d.cus := Dev.setReg_cus ..
@[simp] theorem Dev.bump64_hq : (d.bump64 off n).hq = d.hq := Dev.setReg_hq ..
@[simp] theorem Dev.bump64_parts : (d.bump64 off n).parts = d.parts := Dev.setReg_parts ..
@[simp] theorem Dev.bump64_psv : (d.bump64 off n).psv = d.psv := Dev.setReg_psv ..
@[simp] theorem Dev.bump64_nevRing : (d.bump64 off n).nevRing = d.nevRing := Dev.setReg_nevRing ..
@[simp] theorem Dev.bump64_smpRing : (d.bump64 off n).smpRing = d.smpRing := Dev.setReg_smpRing ..
@[simp] theorem Dev.bump64_samples : (d.bump64 off n).samples = d.samples := Dev.setReg_samples ..
@[simp] theorem Dev.bump64_sys : (d.bump64 off n).sys = d.sys := Dev.setReg_sys ..
@[simp] theorem Dev.bump64_fresh : (d.bump64 off n).fresh = d.fresh := Dev.setReg_fresh ..

end

/-! ## setCtx -/

section

variable (d : Dev) (h n : Nat) (c : Ctx)

@[simp] theorem Dev.setCtx_regs : (d.setCtx h n c).regs = d.regs := rfl
@[simp] theorem Dev.setCtx_istore : (d.setCtx h n c).istore = d.istore := rfl
@[simp] theorem Dev.setCtx_fill : (d.setCtx h n c).fill = d.fill := rfl
@[simp] theorem Dev.setCtx_spanQ : (d.setCtx h n c).spanQ = d.spanQ := rfl
@[simp] theorem Dev.setCtx_hemis : (d.setCtx h n c).hemis = d.hemis := rfl
@[simp] theorem Dev.setCtx_box : (d.setCtx h n c).box = d.box := rfl
@[simp] theorem Dev.setCtx_ls : (d.setCtx h n c).ls = d.ls := rfl
@[simp] theorem Dev.setCtx_vregs : (d.setCtx h n c).vregs = d.vregs := rfl
@[simp] theorem Dev.setCtx_pregs : (d.setCtx h n c).pregs = d.pregs := rfl
@[simp] theorem Dev.setCtx_aregs : (d.setCtx h n c).aregs = d.aregs := rfl
@[simp] theorem Dev.setCtx_accs : (d.setCtx h n c).accs = d.accs := rfl
@[simp] theorem Dev.setCtx_pds : (d.setCtx h n c).pds = d.pds := rfl
@[simp] theorem Dev.setCtx_pvs : (d.setCtx h n c).pvs = d.pvs := rfl
@[simp] theorem Dev.setCtx_wds : (d.setCtx h n c).wds = d.wds := rfl
@[simp] theorem Dev.setCtx_cells : (d.setCtx h n c).cells = d.cells := rfl
@[simp] theorem Dev.setCtx_dcnt : (d.setCtx h n c).dcnt = d.dcnt := rfl
@[simp] theorem Dev.setCtx_rng : (d.setCtx h n c).rng = d.rng := rfl
@[simp] theorem Dev.setCtx_claims : (d.setCtx h n c).claims = d.claims := rfl
@[simp] theorem Dev.setCtx_nextReq : (d.setCtx h n c).nextReq = d.nextReq := rfl
@[simp] theorem Dev.setCtx_rim : (d.setCtx h n c).rim = d.rim := rfl
@[simp] theorem Dev.setCtx_hostMem : (d.setCtx h n c).hostMem = d.hostMem := rfl
@[simp] theorem Dev.setCtx_images : (d.setCtx h n c).images = d.images := rfl
@[simp] theorem Dev.setCtx_mem : (d.setCtx h n c).mem = d.mem := rfl
@[simp] theorem Dev.setCtx_brv : (d.setCtx h n c).brv = d.brv := rfl
@[simp] theorem Dev.setCtx_ing : (d.setCtx h n c).ing = d.ing := rfl
@[simp] theorem Dev.setCtx_cus : (d.setCtx h n c).cus = d.cus := rfl
@[simp] theorem Dev.setCtx_hq : (d.setCtx h n c).hq = d.hq := rfl
@[simp] theorem Dev.setCtx_parts : (d.setCtx h n c).parts = d.parts := rfl
@[simp] theorem Dev.setCtx_psv : (d.setCtx h n c).psv = d.psv := rfl
@[simp] theorem Dev.setCtx_nevRing : (d.setCtx h n c).nevRing = d.nevRing := rfl
@[simp] theorem Dev.setCtx_smpRing : (d.setCtx h n c).smpRing = d.smpRing := rfl
@[simp] theorem Dev.setCtx_samples : (d.setCtx h n c).samples = d.samples := rfl
@[simp] theorem Dev.setCtx_sys : (d.setCtx h n c).sys = d.sys := rfl
@[simp] theorem Dev.setCtx_fresh : (d.setCtx h n c).fresh = d.fresh := rfl

end

/-! ## modCtx -/

section

variable (d : Dev) (h n : Nat) (f : Ctx → Ctx)

@[simp] theorem Dev.modCtx_regs : (d.modCtx h n f).regs = d.regs := Dev.setCtx_regs ..
@[simp] theorem Dev.modCtx_istore : (d.modCtx h n f).istore = d.istore := Dev.setCtx_istore ..
@[simp] theorem Dev.modCtx_fill : (d.modCtx h n f).fill = d.fill := Dev.setCtx_fill ..
@[simp] theorem Dev.modCtx_spanQ : (d.modCtx h n f).spanQ = d.spanQ := Dev.setCtx_spanQ ..
@[simp] theorem Dev.modCtx_hemis : (d.modCtx h n f).hemis = d.hemis := Dev.setCtx_hemis ..
@[simp] theorem Dev.modCtx_box : (d.modCtx h n f).box = d.box := Dev.setCtx_box ..
@[simp] theorem Dev.modCtx_ls : (d.modCtx h n f).ls = d.ls := Dev.setCtx_ls ..
@[simp] theorem Dev.modCtx_vregs : (d.modCtx h n f).vregs = d.vregs := Dev.setCtx_vregs ..
@[simp] theorem Dev.modCtx_pregs : (d.modCtx h n f).pregs = d.pregs := Dev.setCtx_pregs ..
@[simp] theorem Dev.modCtx_aregs : (d.modCtx h n f).aregs = d.aregs := Dev.setCtx_aregs ..
@[simp] theorem Dev.modCtx_accs : (d.modCtx h n f).accs = d.accs := Dev.setCtx_accs ..
@[simp] theorem Dev.modCtx_pds : (d.modCtx h n f).pds = d.pds := Dev.setCtx_pds ..
@[simp] theorem Dev.modCtx_pvs : (d.modCtx h n f).pvs = d.pvs := Dev.setCtx_pvs ..
@[simp] theorem Dev.modCtx_wds : (d.modCtx h n f).wds = d.wds := Dev.setCtx_wds ..
@[simp] theorem Dev.modCtx_cells : (d.modCtx h n f).cells = d.cells := Dev.setCtx_cells ..
@[simp] theorem Dev.modCtx_dcnt : (d.modCtx h n f).dcnt = d.dcnt := Dev.setCtx_dcnt ..
@[simp] theorem Dev.modCtx_rng : (d.modCtx h n f).rng = d.rng := Dev.setCtx_rng ..
@[simp] theorem Dev.modCtx_claims : (d.modCtx h n f).claims = d.claims := Dev.setCtx_claims ..
@[simp] theorem Dev.modCtx_nextReq : (d.modCtx h n f).nextReq = d.nextReq := Dev.setCtx_nextReq ..
@[simp] theorem Dev.modCtx_rim : (d.modCtx h n f).rim = d.rim := Dev.setCtx_rim ..
@[simp] theorem Dev.modCtx_hostMem : (d.modCtx h n f).hostMem = d.hostMem := Dev.setCtx_hostMem ..
@[simp] theorem Dev.modCtx_images : (d.modCtx h n f).images = d.images := Dev.setCtx_images ..
@[simp] theorem Dev.modCtx_mem : (d.modCtx h n f).mem = d.mem := Dev.setCtx_mem ..
@[simp] theorem Dev.modCtx_brv : (d.modCtx h n f).brv = d.brv := Dev.setCtx_brv ..
@[simp] theorem Dev.modCtx_ing : (d.modCtx h n f).ing = d.ing := Dev.setCtx_ing ..
@[simp] theorem Dev.modCtx_cus : (d.modCtx h n f).cus = d.cus := Dev.setCtx_cus ..
@[simp] theorem Dev.modCtx_hq : (d.modCtx h n f).hq = d.hq := Dev.setCtx_hq ..
@[simp] theorem Dev.modCtx_parts : (d.modCtx h n f).parts = d.parts := Dev.setCtx_parts ..
@[simp] theorem Dev.modCtx_psv : (d.modCtx h n f).psv = d.psv := Dev.setCtx_psv ..
@[simp] theorem Dev.modCtx_nevRing : (d.modCtx h n f).nevRing = d.nevRing := Dev.setCtx_nevRing ..
@[simp] theorem Dev.modCtx_smpRing : (d.modCtx h n f).smpRing = d.smpRing := Dev.setCtx_smpRing ..
@[simp] theorem Dev.modCtx_samples : (d.modCtx h n f).samples = d.samples := Dev.setCtx_samples ..
@[simp] theorem Dev.modCtx_sys : (d.modCtx h n f).sys = d.sys := Dev.setCtx_sys ..
@[simp] theorem Dev.modCtx_fresh : (d.modCtx h n f).fresh = d.fresh := Dev.setCtx_fresh ..

end

/-! ## setAcc -/

section

variable (d : Dev) (f : Nat) (b : Bool) (a : AccSet)

@[simp] theorem Dev.setAcc_regs : (d.setAcc f b a).regs = d.regs := rfl
@[simp] theorem Dev.setAcc_ctxs : (d.setAcc f b a).ctxs = d.ctxs := rfl
@[simp] theorem Dev.setAcc_istore : (d.setAcc f b a).istore = d.istore := rfl
@[simp] theorem Dev.setAcc_fill : (d.setAcc f b a).fill = d.fill := rfl
@[simp] theorem Dev.setAcc_spanQ : (d.setAcc f b a).spanQ = d.spanQ := rfl
@[simp] theorem Dev.setAcc_hemis : (d.setAcc f b a).hemis = d.hemis := rfl
@[simp] theorem Dev.setAcc_box : (d.setAcc f b a).box = d.box := rfl
@[simp] theorem Dev.setAcc_ls : (d.setAcc f b a).ls = d.ls := rfl
@[simp] theorem Dev.setAcc_vregs : (d.setAcc f b a).vregs = d.vregs := rfl
@[simp] theorem Dev.setAcc_pregs : (d.setAcc f b a).pregs = d.pregs := rfl
@[simp] theorem Dev.setAcc_aregs : (d.setAcc f b a).aregs = d.aregs := rfl
@[simp] theorem Dev.setAcc_pds : (d.setAcc f b a).pds = d.pds := rfl
@[simp] theorem Dev.setAcc_pvs : (d.setAcc f b a).pvs = d.pvs := rfl
@[simp] theorem Dev.setAcc_wds : (d.setAcc f b a).wds = d.wds := rfl
@[simp] theorem Dev.setAcc_cells : (d.setAcc f b a).cells = d.cells := rfl
@[simp] theorem Dev.setAcc_dcnt : (d.setAcc f b a).dcnt = d.dcnt := rfl
@[simp] theorem Dev.setAcc_rng : (d.setAcc f b a).rng = d.rng := rfl
@[simp] theorem Dev.setAcc_claims : (d.setAcc f b a).claims = d.claims := rfl
@[simp] theorem Dev.setAcc_nextReq : (d.setAcc f b a).nextReq = d.nextReq := rfl
@[simp] theorem Dev.setAcc_rim : (d.setAcc f b a).rim = d.rim := rfl
@[simp] theorem Dev.setAcc_hostMem : (d.setAcc f b a).hostMem = d.hostMem := rfl
@[simp] theorem Dev.setAcc_images : (d.setAcc f b a).images = d.images := rfl
@[simp] theorem Dev.setAcc_mem : (d.setAcc f b a).mem = d.mem := rfl
@[simp] theorem Dev.setAcc_brv : (d.setAcc f b a).brv = d.brv := rfl
@[simp] theorem Dev.setAcc_ing : (d.setAcc f b a).ing = d.ing := rfl
@[simp] theorem Dev.setAcc_cus : (d.setAcc f b a).cus = d.cus := rfl
@[simp] theorem Dev.setAcc_hq : (d.setAcc f b a).hq = d.hq := rfl
@[simp] theorem Dev.setAcc_parts : (d.setAcc f b a).parts = d.parts := rfl
@[simp] theorem Dev.setAcc_psv : (d.setAcc f b a).psv = d.psv := rfl
@[simp] theorem Dev.setAcc_nevRing : (d.setAcc f b a).nevRing = d.nevRing := rfl
@[simp] theorem Dev.setAcc_smpRing : (d.setAcc f b a).smpRing = d.smpRing := rfl
@[simp] theorem Dev.setAcc_samples : (d.setAcc f b a).samples = d.samples := rfl
@[simp] theorem Dev.setAcc_sys : (d.setAcc f b a).sys = d.sys := rfl
@[simp] theorem Dev.setAcc_fresh : (d.setAcc f b a).fresh = d.fresh := rfl

end

/-! ## setCell -/

section

variable (d : Dev) (f : Nat) (c : WedgeCell)

@[simp] theorem Dev.setCell_regs : (d.setCell f c).regs = d.regs := rfl
@[simp] theorem Dev.setCell_ctxs : (d.setCell f c).ctxs = d.ctxs := rfl
@[simp] theorem Dev.setCell_istore : (d.setCell f c).istore = d.istore := rfl
@[simp] theorem Dev.setCell_fill : (d.setCell f c).fill = d.fill := rfl
@[simp] theorem Dev.setCell_spanQ : (d.setCell f c).spanQ = d.spanQ := rfl
@[simp] theorem Dev.setCell_hemis : (d.setCell f c).hemis = d.hemis := rfl
@[simp] theorem Dev.setCell_box : (d.setCell f c).box = d.box := rfl
@[simp] theorem Dev.setCell_ls : (d.setCell f c).ls = d.ls := rfl
@[simp] theorem Dev.setCell_vregs : (d.setCell f c).vregs = d.vregs := rfl
@[simp] theorem Dev.setCell_pregs : (d.setCell f c).pregs = d.pregs := rfl
@[simp] theorem Dev.setCell_aregs : (d.setCell f c).aregs = d.aregs := rfl
@[simp] theorem Dev.setCell_accs : (d.setCell f c).accs = d.accs := rfl
@[simp] theorem Dev.setCell_pds : (d.setCell f c).pds = d.pds := rfl
@[simp] theorem Dev.setCell_pvs : (d.setCell f c).pvs = d.pvs := rfl
@[simp] theorem Dev.setCell_wds : (d.setCell f c).wds = d.wds := rfl
@[simp] theorem Dev.setCell_dcnt : (d.setCell f c).dcnt = d.dcnt := rfl
@[simp] theorem Dev.setCell_rng : (d.setCell f c).rng = d.rng := rfl
@[simp] theorem Dev.setCell_claims : (d.setCell f c).claims = d.claims := rfl
@[simp] theorem Dev.setCell_nextReq : (d.setCell f c).nextReq = d.nextReq := rfl
@[simp] theorem Dev.setCell_rim : (d.setCell f c).rim = d.rim := rfl
@[simp] theorem Dev.setCell_hostMem : (d.setCell f c).hostMem = d.hostMem := rfl
@[simp] theorem Dev.setCell_images : (d.setCell f c).images = d.images := rfl
@[simp] theorem Dev.setCell_mem : (d.setCell f c).mem = d.mem := rfl
@[simp] theorem Dev.setCell_brv : (d.setCell f c).brv = d.brv := rfl
@[simp] theorem Dev.setCell_ing : (d.setCell f c).ing = d.ing := rfl
@[simp] theorem Dev.setCell_cus : (d.setCell f c).cus = d.cus := rfl
@[simp] theorem Dev.setCell_hq : (d.setCell f c).hq = d.hq := rfl
@[simp] theorem Dev.setCell_parts : (d.setCell f c).parts = d.parts := rfl
@[simp] theorem Dev.setCell_psv : (d.setCell f c).psv = d.psv := rfl
@[simp] theorem Dev.setCell_nevRing : (d.setCell f c).nevRing = d.nevRing := rfl
@[simp] theorem Dev.setCell_smpRing : (d.setCell f c).smpRing = d.smpRing := rfl
@[simp] theorem Dev.setCell_samples : (d.setCell f c).samples = d.samples := rfl
@[simp] theorem Dev.setCell_sys : (d.setCell f c).sys = d.sys := rfl
@[simp] theorem Dev.setCell_fresh : (d.setCell f c).fresh = d.fresh := rfl

end

/-! ## setQueue -/

section

variable (d : Dev) (q : Nat) (x : QueueSt)

@[simp] theorem Dev.setQueue_regs : (d.setQueue q x).regs = d.regs := rfl
@[simp] theorem Dev.setQueue_ctxs : (d.setQueue q x).ctxs = d.ctxs := rfl
@[simp] theorem Dev.setQueue_istore : (d.setQueue q x).istore = d.istore := rfl
@[simp] theorem Dev.setQueue_fill : (d.setQueue q x).fill = d.fill := rfl
@[simp] theorem Dev.setQueue_spanQ : (d.setQueue q x).spanQ = d.spanQ := rfl
@[simp] theorem Dev.setQueue_hemis : (d.setQueue q x).hemis = d.hemis := rfl
@[simp] theorem Dev.setQueue_box : (d.setQueue q x).box = d.box := rfl
@[simp] theorem Dev.setQueue_ls : (d.setQueue q x).ls = d.ls := rfl
@[simp] theorem Dev.setQueue_vregs : (d.setQueue q x).vregs = d.vregs := rfl
@[simp] theorem Dev.setQueue_pregs : (d.setQueue q x).pregs = d.pregs := rfl
@[simp] theorem Dev.setQueue_aregs : (d.setQueue q x).aregs = d.aregs := rfl
@[simp] theorem Dev.setQueue_accs : (d.setQueue q x).accs = d.accs := rfl
@[simp] theorem Dev.setQueue_pds : (d.setQueue q x).pds = d.pds := rfl
@[simp] theorem Dev.setQueue_pvs : (d.setQueue q x).pvs = d.pvs := rfl
@[simp] theorem Dev.setQueue_wds : (d.setQueue q x).wds = d.wds := rfl
@[simp] theorem Dev.setQueue_cells : (d.setQueue q x).cells = d.cells := rfl
@[simp] theorem Dev.setQueue_dcnt : (d.setQueue q x).dcnt = d.dcnt := rfl
@[simp] theorem Dev.setQueue_rng : (d.setQueue q x).rng = d.rng := rfl
@[simp] theorem Dev.setQueue_claims : (d.setQueue q x).claims = d.claims := rfl
@[simp] theorem Dev.setQueue_nextReq : (d.setQueue q x).nextReq = d.nextReq := rfl
@[simp] theorem Dev.setQueue_rim : (d.setQueue q x).rim = d.rim := rfl
@[simp] theorem Dev.setQueue_hostMem : (d.setQueue q x).hostMem = d.hostMem := rfl
@[simp] theorem Dev.setQueue_images : (d.setQueue q x).images = d.images := rfl
@[simp] theorem Dev.setQueue_mem : (d.setQueue q x).mem = d.mem := rfl
@[simp] theorem Dev.setQueue_brv : (d.setQueue q x).brv = d.brv := rfl
@[simp] theorem Dev.setQueue_ing : (d.setQueue q x).ing = d.ing := rfl
@[simp] theorem Dev.setQueue_cus : (d.setQueue q x).cus = d.cus := rfl
@[simp] theorem Dev.setQueue_parts : (d.setQueue q x).parts = d.parts := rfl
@[simp] theorem Dev.setQueue_psv : (d.setQueue q x).psv = d.psv := rfl
@[simp] theorem Dev.setQueue_nevRing : (d.setQueue q x).nevRing = d.nevRing := rfl
@[simp] theorem Dev.setQueue_smpRing : (d.setQueue q x).smpRing = d.smpRing := rfl
@[simp] theorem Dev.setQueue_samples : (d.setQueue q x).samples = d.samples := rfl
@[simp] theorem Dev.setQueue_sys : (d.setQueue q x).sys = d.sys := rfl
@[simp] theorem Dev.setQueue_fresh : (d.setQueue q x).fresh = d.fresh := rfl

end

/-! ## setPort -/

section

variable (d : Dev) (n : Nat) (x : PortSt)

@[simp] theorem Dev.setPort_regs : (d.setPort n x).regs = d.regs := rfl
@[simp] theorem Dev.setPort_ctxs : (d.setPort n x).ctxs = d.ctxs := rfl
@[simp] theorem Dev.setPort_istore : (d.setPort n x).istore = d.istore := rfl
@[simp] theorem Dev.setPort_fill : (d.setPort n x).fill = d.fill := rfl
@[simp] theorem Dev.setPort_spanQ : (d.setPort n x).spanQ = d.spanQ := rfl
@[simp] theorem Dev.setPort_hemis : (d.setPort n x).hemis = d.hemis := rfl
@[simp] theorem Dev.setPort_box : (d.setPort n x).box = d.box := rfl
@[simp] theorem Dev.setPort_ls : (d.setPort n x).ls = d.ls := rfl
@[simp] theorem Dev.setPort_vregs : (d.setPort n x).vregs = d.vregs := rfl
@[simp] theorem Dev.setPort_pregs : (d.setPort n x).pregs = d.pregs := rfl
@[simp] theorem Dev.setPort_aregs : (d.setPort n x).aregs = d.aregs := rfl
@[simp] theorem Dev.setPort_accs : (d.setPort n x).accs = d.accs := rfl
@[simp] theorem Dev.setPort_pds : (d.setPort n x).pds = d.pds := rfl
@[simp] theorem Dev.setPort_pvs : (d.setPort n x).pvs = d.pvs := rfl
@[simp] theorem Dev.setPort_wds : (d.setPort n x).wds = d.wds := rfl
@[simp] theorem Dev.setPort_cells : (d.setPort n x).cells = d.cells := rfl
@[simp] theorem Dev.setPort_dcnt : (d.setPort n x).dcnt = d.dcnt := rfl
@[simp] theorem Dev.setPort_rng : (d.setPort n x).rng = d.rng := rfl
@[simp] theorem Dev.setPort_claims : (d.setPort n x).claims = d.claims := rfl
@[simp] theorem Dev.setPort_nextReq : (d.setPort n x).nextReq = d.nextReq := rfl
@[simp] theorem Dev.setPort_rim : (d.setPort n x).rim = d.rim := rfl
@[simp] theorem Dev.setPort_hostMem : (d.setPort n x).hostMem = d.hostMem := rfl
@[simp] theorem Dev.setPort_images : (d.setPort n x).images = d.images := rfl
@[simp] theorem Dev.setPort_mem : (d.setPort n x).mem = d.mem := rfl
@[simp] theorem Dev.setPort_ing : (d.setPort n x).ing = d.ing := rfl
@[simp] theorem Dev.setPort_cus : (d.setPort n x).cus = d.cus := rfl
@[simp] theorem Dev.setPort_hq : (d.setPort n x).hq = d.hq := rfl
@[simp] theorem Dev.setPort_parts : (d.setPort n x).parts = d.parts := rfl
@[simp] theorem Dev.setPort_psv : (d.setPort n x).psv = d.psv := rfl
@[simp] theorem Dev.setPort_nevRing : (d.setPort n x).nevRing = d.nevRing := rfl
@[simp] theorem Dev.setPort_smpRing : (d.setPort n x).smpRing = d.smpRing := rfl
@[simp] theorem Dev.setPort_samples : (d.setPort n x).samples = d.samples := rfl
@[simp] theorem Dev.setPort_sys : (d.setPort n x).sys = d.sys := rfl
@[simp] theorem Dev.setPort_fresh : (d.setPort n x).fresh = d.fresh := rfl

end

/-! ## setRing -/

section

variable (d : Dev) (p r : Nat) (x : Ring)

@[simp] theorem Dev.setRing_regs : (d.setRing p r x).regs = d.regs := rfl
@[simp] theorem Dev.setRing_ctxs : (d.setRing p r x).ctxs = d.ctxs := rfl
@[simp] theorem Dev.setRing_istore : (d.setRing p r x).istore = d.istore := rfl
@[simp] theorem Dev.setRing_fill : (d.setRing p r x).fill = d.fill := rfl
@[simp] theorem Dev.setRing_spanQ : (d.setRing p r x).spanQ = d.spanQ := rfl
@[simp] theorem Dev.setRing_hemis : (d.setRing p r x).hemis = d.hemis := rfl
@[simp] theorem Dev.setRing_box : (d.setRing p r x).box = d.box := rfl
@[simp] theorem Dev.setRing_ls : (d.setRing p r x).ls = d.ls := rfl
@[simp] theorem Dev.setRing_vregs : (d.setRing p r x).vregs = d.vregs := rfl
@[simp] theorem Dev.setRing_pregs : (d.setRing p r x).pregs = d.pregs := rfl
@[simp] theorem Dev.setRing_aregs : (d.setRing p r x).aregs = d.aregs := rfl
@[simp] theorem Dev.setRing_accs : (d.setRing p r x).accs = d.accs := rfl
@[simp] theorem Dev.setRing_pds : (d.setRing p r x).pds = d.pds := rfl
@[simp] theorem Dev.setRing_pvs : (d.setRing p r x).pvs = d.pvs := rfl
@[simp] theorem Dev.setRing_wds : (d.setRing p r x).wds = d.wds := rfl
@[simp] theorem Dev.setRing_cells : (d.setRing p r x).cells = d.cells := rfl
@[simp] theorem Dev.setRing_dcnt : (d.setRing p r x).dcnt = d.dcnt := rfl
@[simp] theorem Dev.setRing_rng : (d.setRing p r x).rng = d.rng := rfl
@[simp] theorem Dev.setRing_claims : (d.setRing p r x).claims = d.claims := rfl
@[simp] theorem Dev.setRing_nextReq : (d.setRing p r x).nextReq = d.nextReq := rfl
@[simp] theorem Dev.setRing_rim : (d.setRing p r x).rim = d.rim := rfl
@[simp] theorem Dev.setRing_hostMem : (d.setRing p r x).hostMem = d.hostMem := rfl
@[simp] theorem Dev.setRing_images : (d.setRing p r x).images = d.images := rfl
@[simp] theorem Dev.setRing_mem : (d.setRing p r x).mem = d.mem := rfl
@[simp] theorem Dev.setRing_brv : (d.setRing p r x).brv = d.brv := rfl
@[simp] theorem Dev.setRing_cus : (d.setRing p r x).cus = d.cus := rfl
@[simp] theorem Dev.setRing_hq : (d.setRing p r x).hq = d.hq := rfl
@[simp] theorem Dev.setRing_parts : (d.setRing p r x).parts = d.parts := rfl
@[simp] theorem Dev.setRing_psv : (d.setRing p r x).psv = d.psv := rfl
@[simp] theorem Dev.setRing_nevRing : (d.setRing p r x).nevRing = d.nevRing := rfl
@[simp] theorem Dev.setRing_smpRing : (d.setRing p r x).smpRing = d.smpRing := rfl
@[simp] theorem Dev.setRing_samples : (d.setRing p r x).samples = d.samples := rfl
@[simp] theorem Dev.setRing_sys : (d.setRing p r x).sys = d.sys := rfl
@[simp] theorem Dev.setRing_fresh : (d.setRing p r x).fresh = d.fresh := rfl

end

/-! ## setPart -/

section

variable (d : Dev) (p : Nat) (x : PartSt)

@[simp] theorem Dev.setPart_regs : (d.setPart p x).regs = d.regs := rfl
@[simp] theorem Dev.setPart_ctxs : (d.setPart p x).ctxs = d.ctxs := rfl
@[simp] theorem Dev.setPart_istore : (d.setPart p x).istore = d.istore := rfl
@[simp] theorem Dev.setPart_fill : (d.setPart p x).fill = d.fill := rfl
@[simp] theorem Dev.setPart_spanQ : (d.setPart p x).spanQ = d.spanQ := rfl
@[simp] theorem Dev.setPart_hemis : (d.setPart p x).hemis = d.hemis := rfl
@[simp] theorem Dev.setPart_box : (d.setPart p x).box = d.box := rfl
@[simp] theorem Dev.setPart_ls : (d.setPart p x).ls = d.ls := rfl
@[simp] theorem Dev.setPart_vregs : (d.setPart p x).vregs = d.vregs := rfl
@[simp] theorem Dev.setPart_pregs : (d.setPart p x).pregs = d.pregs := rfl
@[simp] theorem Dev.setPart_aregs : (d.setPart p x).aregs = d.aregs := rfl
@[simp] theorem Dev.setPart_accs : (d.setPart p x).accs = d.accs := rfl
@[simp] theorem Dev.setPart_pds : (d.setPart p x).pds = d.pds := rfl
@[simp] theorem Dev.setPart_pvs : (d.setPart p x).pvs = d.pvs := rfl
@[simp] theorem Dev.setPart_wds : (d.setPart p x).wds = d.wds := rfl
@[simp] theorem Dev.setPart_cells : (d.setPart p x).cells = d.cells := rfl
@[simp] theorem Dev.setPart_dcnt : (d.setPart p x).dcnt = d.dcnt := rfl
@[simp] theorem Dev.setPart_rng : (d.setPart p x).rng = d.rng := rfl
@[simp] theorem Dev.setPart_claims : (d.setPart p x).claims = d.claims := rfl
@[simp] theorem Dev.setPart_nextReq : (d.setPart p x).nextReq = d.nextReq := rfl
@[simp] theorem Dev.setPart_rim : (d.setPart p x).rim = d.rim := rfl
@[simp] theorem Dev.setPart_hostMem : (d.setPart p x).hostMem = d.hostMem := rfl
@[simp] theorem Dev.setPart_images : (d.setPart p x).images = d.images := rfl
@[simp] theorem Dev.setPart_mem : (d.setPart p x).mem = d.mem := rfl
@[simp] theorem Dev.setPart_brv : (d.setPart p x).brv = d.brv := rfl
@[simp] theorem Dev.setPart_ing : (d.setPart p x).ing = d.ing := rfl
@[simp] theorem Dev.setPart_cus : (d.setPart p x).cus = d.cus := rfl
@[simp] theorem Dev.setPart_hq : (d.setPart p x).hq = d.hq := rfl
@[simp] theorem Dev.setPart_psv : (d.setPart p x).psv = d.psv := rfl
@[simp] theorem Dev.setPart_nevRing : (d.setPart p x).nevRing = d.nevRing := rfl
@[simp] theorem Dev.setPart_smpRing : (d.setPart p x).smpRing = d.smpRing := rfl
@[simp] theorem Dev.setPart_samples : (d.setPart p x).samples = d.samples := rfl
@[simp] theorem Dev.setPart_sys : (d.setPart p x).sys = d.sys := rfl
@[simp] theorem Dev.setPart_fresh : (d.setPart p x).fresh = d.fresh := rfl

end

/-! ## setPsv -/

section

variable (d : Dev) (p : Nat) (x : Psv)

@[simp] theorem Dev.setPsv_regs : (d.setPsv p x).regs = d.regs := rfl
@[simp] theorem Dev.setPsv_ctxs : (d.setPsv p x).ctxs = d.ctxs := rfl
@[simp] theorem Dev.setPsv_istore : (d.setPsv p x).istore = d.istore := rfl
@[simp] theorem Dev.setPsv_fill : (d.setPsv p x).fill = d.fill := rfl
@[simp] theorem Dev.setPsv_spanQ : (d.setPsv p x).spanQ = d.spanQ := rfl
@[simp] theorem Dev.setPsv_hemis : (d.setPsv p x).hemis = d.hemis := rfl
@[simp] theorem Dev.setPsv_box : (d.setPsv p x).box = d.box := rfl
@[simp] theorem Dev.setPsv_ls : (d.setPsv p x).ls = d.ls := rfl
@[simp] theorem Dev.setPsv_vregs : (d.setPsv p x).vregs = d.vregs := rfl
@[simp] theorem Dev.setPsv_pregs : (d.setPsv p x).pregs = d.pregs := rfl
@[simp] theorem Dev.setPsv_aregs : (d.setPsv p x).aregs = d.aregs := rfl
@[simp] theorem Dev.setPsv_accs : (d.setPsv p x).accs = d.accs := rfl
@[simp] theorem Dev.setPsv_pds : (d.setPsv p x).pds = d.pds := rfl
@[simp] theorem Dev.setPsv_pvs : (d.setPsv p x).pvs = d.pvs := rfl
@[simp] theorem Dev.setPsv_wds : (d.setPsv p x).wds = d.wds := rfl
@[simp] theorem Dev.setPsv_cells : (d.setPsv p x).cells = d.cells := rfl
@[simp] theorem Dev.setPsv_dcnt : (d.setPsv p x).dcnt = d.dcnt := rfl
@[simp] theorem Dev.setPsv_rng : (d.setPsv p x).rng = d.rng := rfl
@[simp] theorem Dev.setPsv_claims : (d.setPsv p x).claims = d.claims := rfl
@[simp] theorem Dev.setPsv_nextReq : (d.setPsv p x).nextReq = d.nextReq := rfl
@[simp] theorem Dev.setPsv_rim : (d.setPsv p x).rim = d.rim := rfl
@[simp] theorem Dev.setPsv_hostMem : (d.setPsv p x).hostMem = d.hostMem := rfl
@[simp] theorem Dev.setPsv_images : (d.setPsv p x).images = d.images := rfl
@[simp] theorem Dev.setPsv_mem : (d.setPsv p x).mem = d.mem := rfl
@[simp] theorem Dev.setPsv_brv : (d.setPsv p x).brv = d.brv := rfl
@[simp] theorem Dev.setPsv_ing : (d.setPsv p x).ing = d.ing := rfl
@[simp] theorem Dev.setPsv_cus : (d.setPsv p x).cus = d.cus := rfl
@[simp] theorem Dev.setPsv_hq : (d.setPsv p x).hq = d.hq := rfl
@[simp] theorem Dev.setPsv_parts : (d.setPsv p x).parts = d.parts := rfl
@[simp] theorem Dev.setPsv_nevRing : (d.setPsv p x).nevRing = d.nevRing := rfl
@[simp] theorem Dev.setPsv_smpRing : (d.setPsv p x).smpRing = d.smpRing := rfl
@[simp] theorem Dev.setPsv_samples : (d.setPsv p x).samples = d.samples := rfl
@[simp] theorem Dev.setPsv_sys : (d.setPsv p x).sys = d.sys := rfl
@[simp] theorem Dev.setPsv_fresh : (d.setPsv p x).fresh = d.fresh := rfl

end

/-! ## setPartState -/

section

variable (d : Dev) (p v : Nat)

@[simp] theorem Dev.setPartState_ctxs : (d.setPartState p v).ctxs = d.ctxs := Dev.setFld_ctxs ..
@[simp] theorem Dev.setPartState_istore : (d.setPartState p v).istore = d.istore := Dev.setFld_istore ..
@[simp] theorem Dev.setPartState_fill : (d.setPartState p v).fill = d.fill := Dev.setFld_fill ..
@[simp] theorem Dev.setPartState_spanQ : (d.setPartState p v).spanQ = d.spanQ := Dev.setFld_spanQ ..
@[simp] theorem Dev.setPartState_hemis : (d.setPartState p v).hemis = d.hemis := Dev.setFld_hemis ..
@[simp] theorem Dev.setPartState_box : (d.setPartState p v).box = d.box := Dev.setFld_box ..
@[simp] theorem Dev.setPartState_ls : (d.setPartState p v).ls = d.ls := Dev.setFld_ls ..
@[simp] theorem Dev.setPartState_vregs : (d.setPartState p v).vregs = d.vregs := Dev.setFld_vregs ..
@[simp] theorem Dev.setPartState_pregs : (d.setPartState p v).pregs = d.pregs := Dev.setFld_pregs ..
@[simp] theorem Dev.setPartState_aregs : (d.setPartState p v).aregs = d.aregs := Dev.setFld_aregs ..
@[simp] theorem Dev.setPartState_accs : (d.setPartState p v).accs = d.accs := Dev.setFld_accs ..
@[simp] theorem Dev.setPartState_pds : (d.setPartState p v).pds = d.pds := Dev.setFld_pds ..
@[simp] theorem Dev.setPartState_pvs : (d.setPartState p v).pvs = d.pvs := Dev.setFld_pvs ..
@[simp] theorem Dev.setPartState_wds : (d.setPartState p v).wds = d.wds := Dev.setFld_wds ..
@[simp] theorem Dev.setPartState_cells : (d.setPartState p v).cells = d.cells := Dev.setFld_cells ..
@[simp] theorem Dev.setPartState_dcnt : (d.setPartState p v).dcnt = d.dcnt := Dev.setFld_dcnt ..
@[simp] theorem Dev.setPartState_rng : (d.setPartState p v).rng = d.rng := Dev.setFld_rng ..
@[simp] theorem Dev.setPartState_claims : (d.setPartState p v).claims = d.claims := Dev.setFld_claims ..
@[simp] theorem Dev.setPartState_nextReq : (d.setPartState p v).nextReq = d.nextReq := Dev.setFld_nextReq ..
@[simp] theorem Dev.setPartState_rim : (d.setPartState p v).rim = d.rim := Dev.setFld_rim ..
@[simp] theorem Dev.setPartState_hostMem : (d.setPartState p v).hostMem = d.hostMem := Dev.setFld_hostMem ..
@[simp] theorem Dev.setPartState_images : (d.setPartState p v).images = d.images := Dev.setFld_images ..
@[simp] theorem Dev.setPartState_mem : (d.setPartState p v).mem = d.mem := Dev.setFld_mem ..
@[simp] theorem Dev.setPartState_brv : (d.setPartState p v).brv = d.brv := Dev.setFld_brv ..
@[simp] theorem Dev.setPartState_ing : (d.setPartState p v).ing = d.ing := Dev.setFld_ing ..
@[simp] theorem Dev.setPartState_cus : (d.setPartState p v).cus = d.cus := Dev.setFld_cus ..
@[simp] theorem Dev.setPartState_hq : (d.setPartState p v).hq = d.hq := Dev.setFld_hq ..
@[simp] theorem Dev.setPartState_parts : (d.setPartState p v).parts = d.parts := Dev.setFld_parts ..
@[simp] theorem Dev.setPartState_psv : (d.setPartState p v).psv = d.psv := Dev.setFld_psv ..
@[simp] theorem Dev.setPartState_nevRing : (d.setPartState p v).nevRing = d.nevRing := Dev.setFld_nevRing ..
@[simp] theorem Dev.setPartState_smpRing : (d.setPartState p v).smpRing = d.smpRing := Dev.setFld_smpRing ..
@[simp] theorem Dev.setPartState_samples : (d.setPartState p v).samples = d.samples := Dev.setFld_samples ..
@[simp] theorem Dev.setPartState_sys : (d.setPartState p v).sys = d.sys := Dev.setFld_sys ..
@[simp] theorem Dev.setPartState_fresh : (d.setPartState p v).fresh = d.fresh := Dev.setFld_fresh ..

end

/-! ## setResident -/

section

variable (d : Dev) (g : Nat) (p : Option Nat)

@[simp] theorem Dev.setResident_ctxs : (d.setResident g p).ctxs = d.ctxs := Dev.setFld_ctxs ..
@[simp] theorem Dev.setResident_istore : (d.setResident g p).istore = d.istore := Dev.setFld_istore ..
@[simp] theorem Dev.setResident_fill : (d.setResident g p).fill = d.fill := Dev.setFld_fill ..
@[simp] theorem Dev.setResident_spanQ : (d.setResident g p).spanQ = d.spanQ := Dev.setFld_spanQ ..
@[simp] theorem Dev.setResident_hemis : (d.setResident g p).hemis = d.hemis := Dev.setFld_hemis ..
@[simp] theorem Dev.setResident_box : (d.setResident g p).box = d.box := Dev.setFld_box ..
@[simp] theorem Dev.setResident_ls : (d.setResident g p).ls = d.ls := Dev.setFld_ls ..
@[simp] theorem Dev.setResident_vregs : (d.setResident g p).vregs = d.vregs := Dev.setFld_vregs ..
@[simp] theorem Dev.setResident_pregs : (d.setResident g p).pregs = d.pregs := Dev.setFld_pregs ..
@[simp] theorem Dev.setResident_aregs : (d.setResident g p).aregs = d.aregs := Dev.setFld_aregs ..
@[simp] theorem Dev.setResident_accs : (d.setResident g p).accs = d.accs := Dev.setFld_accs ..
@[simp] theorem Dev.setResident_pds : (d.setResident g p).pds = d.pds := Dev.setFld_pds ..
@[simp] theorem Dev.setResident_pvs : (d.setResident g p).pvs = d.pvs := Dev.setFld_pvs ..
@[simp] theorem Dev.setResident_wds : (d.setResident g p).wds = d.wds := Dev.setFld_wds ..
@[simp] theorem Dev.setResident_cells : (d.setResident g p).cells = d.cells := Dev.setFld_cells ..
@[simp] theorem Dev.setResident_dcnt : (d.setResident g p).dcnt = d.dcnt := Dev.setFld_dcnt ..
@[simp] theorem Dev.setResident_rng : (d.setResident g p).rng = d.rng := Dev.setFld_rng ..
@[simp] theorem Dev.setResident_claims : (d.setResident g p).claims = d.claims := Dev.setFld_claims ..
@[simp] theorem Dev.setResident_nextReq : (d.setResident g p).nextReq = d.nextReq := Dev.setFld_nextReq ..
@[simp] theorem Dev.setResident_rim : (d.setResident g p).rim = d.rim := Dev.setFld_rim ..
@[simp] theorem Dev.setResident_hostMem : (d.setResident g p).hostMem = d.hostMem := Dev.setFld_hostMem ..
@[simp] theorem Dev.setResident_images : (d.setResident g p).images = d.images := Dev.setFld_images ..
@[simp] theorem Dev.setResident_mem : (d.setResident g p).mem = d.mem := Dev.setFld_mem ..
@[simp] theorem Dev.setResident_brv : (d.setResident g p).brv = d.brv := Dev.setFld_brv ..
@[simp] theorem Dev.setResident_ing : (d.setResident g p).ing = d.ing := Dev.setFld_ing ..
@[simp] theorem Dev.setResident_cus : (d.setResident g p).cus = d.cus := Dev.setFld_cus ..
@[simp] theorem Dev.setResident_hq : (d.setResident g p).hq = d.hq := Dev.setFld_hq ..
@[simp] theorem Dev.setResident_parts : (d.setResident g p).parts = d.parts := Dev.setFld_parts ..
@[simp] theorem Dev.setResident_psv : (d.setResident g p).psv = d.psv := Dev.setFld_psv ..
@[simp] theorem Dev.setResident_nevRing : (d.setResident g p).nevRing = d.nevRing := Dev.setFld_nevRing ..
@[simp] theorem Dev.setResident_smpRing : (d.setResident g p).smpRing = d.smpRing := Dev.setFld_smpRing ..
@[simp] theorem Dev.setResident_samples : (d.setResident g p).samples = d.samples := Dev.setFld_samples ..
@[simp] theorem Dev.setResident_sys : (d.setResident g p).sys = d.sys := Dev.setFld_sys ..
@[simp] theorem Dev.setResident_fresh : (d.setResident g p).fresh = d.fresh := Dev.setFld_fresh ..

end

/-! ## setImage -/

section

variable (d : Dev) (p : Nat) (i : Option SavedImage)

@[simp] theorem Dev.setImage_regs : (d.setImage p i).regs = d.regs := rfl
@[simp] theorem Dev.setImage_ctxs : (d.setImage p i).ctxs = d.ctxs := rfl
@[simp] theorem Dev.setImage_istore : (d.setImage p i).istore = d.istore := rfl
@[simp] theorem Dev.setImage_fill : (d.setImage p i).fill = d.fill := rfl
@[simp] theorem Dev.setImage_spanQ : (d.setImage p i).spanQ = d.spanQ := rfl
@[simp] theorem Dev.setImage_hemis : (d.setImage p i).hemis = d.hemis := rfl
@[simp] theorem Dev.setImage_box : (d.setImage p i).box = d.box := rfl
@[simp] theorem Dev.setImage_ls : (d.setImage p i).ls = d.ls := rfl
@[simp] theorem Dev.setImage_vregs : (d.setImage p i).vregs = d.vregs := rfl
@[simp] theorem Dev.setImage_pregs : (d.setImage p i).pregs = d.pregs := rfl
@[simp] theorem Dev.setImage_aregs : (d.setImage p i).aregs = d.aregs := rfl
@[simp] theorem Dev.setImage_accs : (d.setImage p i).accs = d.accs := rfl
@[simp] theorem Dev.setImage_pds : (d.setImage p i).pds = d.pds := rfl
@[simp] theorem Dev.setImage_pvs : (d.setImage p i).pvs = d.pvs := rfl
@[simp] theorem Dev.setImage_wds : (d.setImage p i).wds = d.wds := rfl
@[simp] theorem Dev.setImage_cells : (d.setImage p i).cells = d.cells := rfl
@[simp] theorem Dev.setImage_dcnt : (d.setImage p i).dcnt = d.dcnt := rfl
@[simp] theorem Dev.setImage_rng : (d.setImage p i).rng = d.rng := rfl
@[simp] theorem Dev.setImage_claims : (d.setImage p i).claims = d.claims := rfl
@[simp] theorem Dev.setImage_nextReq : (d.setImage p i).nextReq = d.nextReq := rfl
@[simp] theorem Dev.setImage_rim : (d.setImage p i).rim = d.rim := rfl
@[simp] theorem Dev.setImage_hostMem : (d.setImage p i).hostMem = d.hostMem := rfl
@[simp] theorem Dev.setImage_mem : (d.setImage p i).mem = d.mem := rfl
@[simp] theorem Dev.setImage_brv : (d.setImage p i).brv = d.brv := rfl
@[simp] theorem Dev.setImage_ing : (d.setImage p i).ing = d.ing := rfl
@[simp] theorem Dev.setImage_cus : (d.setImage p i).cus = d.cus := rfl
@[simp] theorem Dev.setImage_hq : (d.setImage p i).hq = d.hq := rfl
@[simp] theorem Dev.setImage_parts : (d.setImage p i).parts = d.parts := rfl
@[simp] theorem Dev.setImage_psv : (d.setImage p i).psv = d.psv := rfl
@[simp] theorem Dev.setImage_nevRing : (d.setImage p i).nevRing = d.nevRing := rfl
@[simp] theorem Dev.setImage_smpRing : (d.setImage p i).smpRing = d.smpRing := rfl
@[simp] theorem Dev.setImage_samples : (d.setImage p i).samples = d.samples := rfl
@[simp] theorem Dev.setImage_sys : (d.setImage p i).sys = d.sys := rfl
@[simp] theorem Dev.setImage_fresh : (d.setImage p i).fresh = d.fresh := rfl

end

/-! ## setFetched -/

section

variable (d : Dev) (c : FetchedCmd)

@[simp] theorem Dev.setFetched_regs : (d.setFetched c).regs = d.regs := rfl
@[simp] theorem Dev.setFetched_ctxs : (d.setFetched c).ctxs = d.ctxs := rfl
@[simp] theorem Dev.setFetched_istore : (d.setFetched c).istore = d.istore := rfl
@[simp] theorem Dev.setFetched_fill : (d.setFetched c).fill = d.fill := rfl
@[simp] theorem Dev.setFetched_spanQ : (d.setFetched c).spanQ = d.spanQ := rfl
@[simp] theorem Dev.setFetched_hemis : (d.setFetched c).hemis = d.hemis := rfl
@[simp] theorem Dev.setFetched_box : (d.setFetched c).box = d.box := rfl
@[simp] theorem Dev.setFetched_ls : (d.setFetched c).ls = d.ls := rfl
@[simp] theorem Dev.setFetched_vregs : (d.setFetched c).vregs = d.vregs := rfl
@[simp] theorem Dev.setFetched_pregs : (d.setFetched c).pregs = d.pregs := rfl
@[simp] theorem Dev.setFetched_aregs : (d.setFetched c).aregs = d.aregs := rfl
@[simp] theorem Dev.setFetched_accs : (d.setFetched c).accs = d.accs := rfl
@[simp] theorem Dev.setFetched_pds : (d.setFetched c).pds = d.pds := rfl
@[simp] theorem Dev.setFetched_pvs : (d.setFetched c).pvs = d.pvs := rfl
@[simp] theorem Dev.setFetched_wds : (d.setFetched c).wds = d.wds := rfl
@[simp] theorem Dev.setFetched_cells : (d.setFetched c).cells = d.cells := rfl
@[simp] theorem Dev.setFetched_dcnt : (d.setFetched c).dcnt = d.dcnt := rfl
@[simp] theorem Dev.setFetched_rng : (d.setFetched c).rng = d.rng := rfl
@[simp] theorem Dev.setFetched_claims : (d.setFetched c).claims = d.claims := rfl
@[simp] theorem Dev.setFetched_nextReq : (d.setFetched c).nextReq = d.nextReq := rfl
@[simp] theorem Dev.setFetched_rim : (d.setFetched c).rim = d.rim := rfl
@[simp] theorem Dev.setFetched_hostMem : (d.setFetched c).hostMem = d.hostMem := rfl
@[simp] theorem Dev.setFetched_images : (d.setFetched c).images = d.images := rfl
@[simp] theorem Dev.setFetched_mem : (d.setFetched c).mem = d.mem := rfl
@[simp] theorem Dev.setFetched_brv : (d.setFetched c).brv = d.brv := rfl
@[simp] theorem Dev.setFetched_ing : (d.setFetched c).ing = d.ing := rfl
@[simp] theorem Dev.setFetched_cus : (d.setFetched c).cus = d.cus := rfl
@[simp] theorem Dev.setFetched_parts : (d.setFetched c).parts = d.parts := rfl
@[simp] theorem Dev.setFetched_psv : (d.setFetched c).psv = d.psv := rfl
@[simp] theorem Dev.setFetched_nevRing : (d.setFetched c).nevRing = d.nevRing := rfl
@[simp] theorem Dev.setFetched_smpRing : (d.setFetched c).smpRing = d.smpRing := rfl
@[simp] theorem Dev.setFetched_samples : (d.setFetched c).samples = d.samples := rfl
@[simp] theorem Dev.setFetched_sys : (d.setFetched c).sys = d.sys := rfl
@[simp] theorem Dev.setFetched_fresh : (d.setFetched c).fresh = d.fresh := rfl

end

/-! ## A command's act -/

/-- A command acts on the device alone. -/
theorem State.act_eq (s : State) (f : Dev → Dev) (h : s.dev.sys.railsUp = true) :
    s.act f = .next { s with dev := f s.dev } := by simp [State.act, h]

/-- With the rails down nothing changes. -/
theorem State.act_down (s : State) (f : Dev → Dev) (h : s.dev.sys.railsUp = false) : s.act f = .next s := by
  simp [State.act, h]

/-- An act always answers a next state with the queue as it was. -/
theorem State.act_next (s : State) (f : Dev → Dev) : ∃ d, s.act f = .next { s with dev := d } := ⟨_, rfl⟩

end Sys2Proof.Machine
end

