-- ==== Sys2Proof/Laws/Accepted.lean ====
section
/-! SUPPORT. A command that is accepted acts: its row is its effect on the device after its checks. -/

namespace Sys2Proof

open Machine

/-- The row of an accepted command whose parameters are in range is its effect. -/
theorem Accepted.cmd_eq {d : Dev} {q : QueueN} {opc : Nat} {spec : List PKind} {c : FetchedCmd} {e : Dev}
    (h : Accepted d q opc spec c e) (bad : Params → Option Nat) (act : FetchedCmd → Params → Dev → Dev)
    (hb : bad (c.params spec) = none) : d.cmd q opc spec bad act = act (began c) (c.params spec) e := by
  cases hc : c.crit with
  | false =>
    rw [h.plain hc]
    exact d.cmd_acts q opc spec bad act c h.head h.opcode h.device h.partition h.params hb hc
  | true =>
    exact d.cmd_crit e q opc spec bad act c h.head h.opcode h.device h.partition h.params hb hc (h.signed hc) (h.digest hc)

/-- The same of the state: with the core rails up, the device becomes what the effect leaves. -/
theorem Accepted.act_eq {st : State} {q : QueueN} {opc : Nat} {spec : List PKind} {c : FetchedCmd} {e : Dev}
    (h : Accepted st.dev q opc spec c e) (hr : st.dev.sys.railsUp = true) (bad : Params → Option Nat)
    (act : FetchedCmd → Params → Dev → Dev) (hb : bad (c.params spec) = none) :
    st.act (fun d => d.cmd q opc spec bad act) = .next (withDev st (act (began c) (c.params spec) e)) := by
  rw [State.act_eq _ _ hr, h.cmd_eq bad act hb]
  rfl

end Sys2Proof
end

