-- ==== Sys2Proof/Laws/Frames.lean ====
section
/-! SUPPORT. What the operations that only report can do: error records, completions, timing faults, numeric events and
counters leave everything alone but registers, host queues, the host's memory, queues of records and the STATE of
contexts. -/

namespace Sys2Proof.Machine

/-! ## Contexts that differ in STATE alone -/

/-- y is x with another STATE, and no context vanishes. -/
structure Ctx.Same (x y : Ctx) : Prop where
  rest : ∃ s, y = { x with state := s }
  live : x.state ≠ .absent → y.state ≠ .absent

theorem Ctx.Same.refl (x : Ctx) : Ctx.Same x x := ⟨⟨x.state, rfl⟩, id⟩

theorem Ctx.Same.trans {x y z : Ctx} : Ctx.Same x y → Ctx.Same y z → Ctx.Same x z
  | ⟨⟨_, ea⟩, ha⟩, ⟨⟨t, eb⟩, hb⟩ => ⟨⟨t, by rw [eb, ea]⟩, hb ∘ ha⟩

theorem Ctx.Same.setState (x : Ctx) (s : CtxState) (hs : s ≠ .absent) : Ctx.Same x { x with state := s } :=
  ⟨⟨s, rfl⟩, fun _ => hs⟩

/-! ## Devices that differ in what is reported -/

/-- d with what x reports: registers, contexts, host queues and memory, images, records, samples and bandwidth counts. -/
def Dev.report (d x : Dev) : Dev :=
  { d with
    regs := x.regs, ctxs := x.ctxs, hq := x.hq, hostMem := x.hostMem, images := x.images, nevRing := x.nevRing,
    samples := x.samples, sys := { d.sys with bw := x.sys.bw } }

/-- e is d after something has been reported. -/
structure Dev.Noted (d e : Dev) : Prop where
  rest : e = d.report e
  ctx : ∀ h n, Ctx.Same (d.ctx h n) (e.ctx h n)

/-- A step that touches nothing else, contexts included. -/
theorem Dev.Noted.of (d e : Dev) (hc : e.ctxs = d.ctxs) (hr : e = d.report e) : d.Noted e := by
  refine ⟨hr, fun h n => ?_⟩
  rw [Dev.ctx, Dev.ctx, hc]
  exact Ctx.Same.refl _

theorem Dev.Noted.refl (d : Dev) : d.Noted d := Dev.Noted.of d d rfl rfl

theorem Dev.Noted.trans {d e g : Dev} (a : d.Noted e) (b : e.Noted g) : d.Noted g := by
  refine ⟨b.rest.trans ?_, fun h n => (a.ctx h n).trans (b.ctx h n)⟩
  rw [a.rest]
  rfl

/-! What later proofs read off: the lane registers, generators, facet memories and waiting work are what they were. -/


theorem Dev.Noted.vregs {d e : Dev} (h : d.Noted e) : e.vregs = d.vregs := by
  rw [h.rest]
  rfl

theorem Dev.Noted.pregs {d e : Dev} (h : d.Noted e) : e.pregs = d.pregs := by
  rw [h.rest]
  rfl

theorem Dev.Noted.rng {d e : Dev} (h : d.Noted e) : e.rng = d.rng := by
  rw [h.rest]
  rfl

theorem Dev.Noted.istore {d e : Dev} (h : d.Noted e) : e.istore = d.istore := by
  rw [h.rest]
  rfl

theorem Dev.noted_setReg (d : Dev) (off v : Nat) : d.Noted (d.setReg off v) := by
  apply Dev.Noted.of <;> rfl

theorem Dev.noted_setFld (d : Dev) (off hi lo v : Nat) : d.Noted (d.setFld off hi lo v) := d.noted_setReg _ _

theorem Dev.noted_setFlag (d : Dev) (off i : Nat) (b : Bool) : d.Noted (d.setFlag off i b) := d.noted_setReg _ _

theorem Dev.noted_bump (d : Dev) (off n : Nat) : d.Noted (d.bump off n) := d.noted_setReg _ _

theorem Dev.noted_bump64 (d : Dev) (off n : Nat) : d.Noted (d.bump64 off n) := d.noted_setReg _ _

theorem Dev.noted_setQueue (d : Dev) (q : Nat) (x : QueueSt) : d.Noted (d.setQueue q x) := by
  apply Dev.Noted.of <;> rfl

theorem Dev.noted_hq (d : Dev) (x : Hq) : d.Noted { d with hq := x } := by
  apply Dev.Noted.of <;> rfl

theorem Dev.noted_hostMem (d : Dev) (m : Memory) : d.Noted { d with hostMem := m } := by
  apply Dev.Noted.of <;> rfl

theorem Dev.noted_samples (d : Dev) (l : List PmuSample) : d.Noted { d with samples := l } := by
  apply Dev.Noted.of <;> rfl

theorem Dev.noted_nevRing (d : Dev) (l : List (Nat × List (List Byte))) : d.Noted { d with nevRing := l } := by
  apply Dev.Noted.of <;> rfl

theorem Dev.noted_setImage (d : Dev) (p : Nat) (i : Option SavedImage) : d.Noted (d.setImage p i) := by
  apply Dev.Noted.of <;> rfl

theorem Dev.noted_addBytes (d : Dev) (n rx tx : Nat) : d.Noted (d.addBytes n rx tx) := by
  unfold Dev.addBytes
  split
  · apply Dev.Noted.of <;> rfl
  · exact Dev.Noted.refl d

/-- What each step of a fold reports, the fold reports. -/
theorem Dev.noted_forL {β : Type} (l : List β) (f : β → Dev → Dev) (d : Dev) (hf : ∀ (b : β) (e : Dev), e.Noted (f b e)) :
    d.Noted (forL l f d) :=
  forL_keeps (fun e => d.Noted e) l f d (Dev.Noted.refl d) fun b _ e he => he.trans (hf b e)

/-! ## Completions -/

theorem Dev.noted_signal (d : Dev) (q : Nat) : d.Noted (d.signal q) := by
  unfold Dev.signal
  dsimp only
  split
  · exact ((d.noted_setQueue _ _).trans (Dev.noted_hq _ _)).trans (Dev.noted_addBytes _ _ _ _)
  · exact (d.noted_setQueue _ _).trans (Dev.noted_hq _ _)

theorem Dev.noted_ite {d e g : Dev} (b : Bool) (he : d.Noted e) (hg : d.Noted g) : d.Noted (if b then e else g) := by
  cases b
  · exact hg
  · exact he

theorem Dev.noted_writeCqe (d : Dev) (q : Nat) (e : List Byte) (u : Bool) : d.Noted (d.writeCqe q e u) := by
  unfold Dev.writeCqe
  dsimp only
  have key := fun m x => ((d.noted_hostMem m).trans (Dev.noted_addBytes _ pcieUnit 0 32)).trans (Dev.noted_setQueue _ q x)
  exact Dev.noted_ite _ ((key _ _).trans (Dev.noted_signal _ _)) (key _ _)

theorem Dev.noted_pushCqe (d : Dev) (q : Nat) (e : List Byte) (u : Bool) : d.Noted (d.pushCqe q e u) := by
  unfold Dev.pushCqe
  split
  · exact Dev.Noted.refl d
  · split
    · exact d.noted_setQueue _ _
    · exact d.noted_writeCqe _ _ _

theorem Dev.noted_setFetched (d : Dev) (c : FetchedCmd) : d.Noted (d.setFetched c) := d.noted_hq _

theorem Dev.noted_postFinal (d : Dev) (c : FetchedCmd) (k : Option Nat) (cause res : Nat) :
    d.Noted (d.postFinal c k cause res) := by
  unfold Dev.postFinal
  dsimp only
  split
  · exact d.noted_hq _
  · exact (d.noted_hq _).trans (Dev.noted_pushCqe _ _ _ _)

theorem Dev.noted_writeSq (d : Dev) (q v : Nat) : d.Noted (d.writeSq q v) := by
  unfold Dev.writeSq
  exact Dev.noted_ite _ ((d.noted_setReg _ _).trans (Dev.noted_setQueue _ _ _)) (d.noted_setReg _ _)

theorem Dev.noted_writeCq (d : Dev) (q v : Nat) : d.Noted (d.writeCq q v) := by
  unfold Dev.writeCq
  exact Dev.noted_ite _ (Dev.Noted.refl d) (d.noted_setReg _ _)

theorem Dev.noted_writeVec (d : Dev) (q v : Nat) : d.Noted (d.writeVec q v) := by
  have on x y z := (d.noted_setReg x y).trans (Dev.noted_setQueue _ q z)
  unfold Dev.writeVec
  exact Dev.noted_ite _ (on ..) (Dev.noted_ite _ (on ..) (d.noted_setReg _ _))

theorem Dev.noted_applyQueueWrites (d : Dev) (q : Nat) (l : List (Nat × Nat × Nat)) : d.Noted (d.applyQueueWrites q l) := by
  unfold Dev.applyQueueWrites
  refine d.noted_forL _ _ fun e x => ?_
  split
  · exact x.noted_writeSq _ _
  · split
    · exact x.noted_writeCq _ _
    · exact x.noted_writeVec _ _

/-- The disabling of a CQ and the host writes that were held. -/
theorem Dev.noted_closeQueue (d : Dev) (q : Nat) (x : QueueSt) (l : List (Nat × Nat × Nat)) :
    d.Noted (((d.setFlag (rHqVec q) 20 false).setQueue q x).applyQueueWrites q l) :=
  ((d.noted_setFlag _ _ _).trans (Dev.noted_setQueue _ _ _)).trans (Dev.noted_applyQueueWrites _ _ _)

theorem Dev.noted_tryClose (d : Dev) (q : Nat) : d.Noted (d.tryClose q) := by
  unfold Dev.tryClose
  dsimp only
  split
  · exact Dev.Noted.refl d
  · split
    · exact Dev.Noted.refl d
    · split
      · exact d.noted_closeQueue _ _ _
      · split
        · split
          · exact d.noted_postFinal _ _ _ _
          · exact (d.noted_postFinal _ _ _ _).trans (Dev.noted_closeQueue _ _ _ _)
        · exact (((d.noted_setFlag _ _ _).trans (Dev.noted_setQueue _ _ _)).trans (Dev.noted_postFinal _ _ _ _ _)).trans
            (Dev.noted_applyQueueWrites _ _ _)

theorem Dev.noted_finish (d : Dev) (c : FetchedCmd) (k : Option Nat) (cause res : Nat) :
    d.Noted (d.finish c k cause res) := (d.noted_postFinal c k cause res).trans (Dev.noted_tryClose _ _)

theorem Dev.noted_done (d : Dev) (c : FetchedCmd) (res : Nat) : d.Noted (d.done c res) := d.noted_finish _ _ _ _

theorem Dev.noted_fail (d : Dev) (c : FetchedCmd) (cause det : Nat) : d.Noted (d.fail c cause det) :=
  d.noted_finish _ _ _ _

theorem Dev.noted_interim (d : Dev) (c : FetchedCmd) : d.Noted (d.interim c) := by
  unfold Dev.interim
  split
  · exact Dev.Noted.refl d
  · dsimp only
    split
    · exact d.noted_setFetched _
    · exact (d.noted_setFetched _).trans (Dev.noted_pushCqe _ _ _ _)

theorem Dev.noted_finishSeq (d : Dev) (seq : Nat) (k : Option Nat) (cause res : Nat) :
    d.Noted (d.finishSeq seq k cause res) := by
  unfold Dev.finishSeq
  split
  · exact d.noted_finish _ _ _ _
  · exact Dev.Noted.refl d

theorem Dev.noted_endPrograms (d : Dev) (p : Nat) (k : Option Nat) (cause : Nat) : d.Noted (d.endPrograms p k cause) := by
  unfold Dev.endPrograms
  exact (d.noted_hq _).trans (Dev.noted_forL _ _ _ fun w e => e.noted_finishSeq _ _ _ _)

/-! ## Contexts that stop -/

theorem Dev.ctx_setCtx_same (d : Dev) (h n : Nat) (x : Ctx) : (d.setCtx h n x).ctx h n = x :=
  alGet_alSet_same Ctx.absent d.ctxs (h * 8 + n) x

theorem Dev.ctx_setCtx_other (d : Dev) (h n h' n' : Nat) (x : Ctx) (hne : h' * 8 + n' ≠ h * 8 + n) :
    (d.setCtx h n x).ctx h' n' = d.ctx h' n' := alGet_alSet_other Ctx.absent d.ctxs (h * 8 + n) (h' * 8 + n') x hne

theorem Dev.ctx_key (d : Dev) (h n h' n' : Nat) (he : h' * 8 + n' = h * 8 + n) : d.ctx h' n' = d.ctx h n := by
  unfold Dev.ctx
  rw [he]

/-- A context whose STATE changes to one that is not absent. -/
theorem Dev.noted_setState (d : Dev) (h n : Nat) (s : CtxState) (hs : s ≠ .absent) :
    d.Noted (d.setCtx h n { d.ctx h n with state := s }) := by
  refine ⟨rfl, fun h' n' => ?_⟩
  by_cases he : h' * 8 + n' = h * 8 + n
  · rw [Dev.ctx_key d h n h' n' he, Dev.ctx_key _ h n h' n' he, Dev.ctx_setCtx_same d h n]
    exact Ctx.Same.setState _ _ hs
  · rw [Dev.ctx_setCtx_other d h n h' n' _ he]
    exact Ctx.Same.refl _

theorem Dev.noted_stopCtxs (d : Dev) (p : Nat) : d.Noted (d.stopCtxs p) := by
  unfold Dev.stopCtxs
  apply Dev.noted_forL
  intro x e
  unfold Dev.modCtxFor
  dsimp only
  split
  · rename_i hx
    rw [if_neg hx.1]
    exact e.noted_setState _ _ _ (by decide)
  · split
    · exact e.noted_setImage _ _
    · exact Dev.Noted.refl e

/-! ## Records -/

theorem Dev.noted_fatalPart (d : Dev) (p cause : Nat) : d.Noted (d.fatalPart p cause) := by
  unfold Dev.fatalPart
  dsimp only
  split
  · exact ((d.noted_setFlag _ _ _).trans (Dev.noted_stopCtxs _ _)).trans (Dev.noted_endPrograms _ _ _ _)
  · exact ((((d.noted_setFlag _ _ _).trans (Dev.noted_setFld _ _ _ _ _)).trans (Dev.noted_setFlag _ _ _ _)).trans
      (Dev.noted_stopCtxs _ _)).trans (Dev.noted_endPrograms _ _ _ _)

theorem Dev.noted_fatalDev (d : Dev) (cause : Nat) : d.Noted (d.fatalDev cause) := by
  unfold Dev.fatalDev
  dsimp only
  split
  · exact ((Dev.noted_forL _ _ _ fun p e => e.noted_stopCtxs _).trans (Dev.noted_hq _ _)).trans
      (Dev.noted_forL _ _ _ fun c e => e.noted_finish _ _ _ _)
  · exact ((((d.noted_setFlag _ _ _).trans (Dev.noted_setFld _ _ _ _ _)).trans
      (Dev.noted_forL _ _ _ fun p e => e.noted_stopCtxs _)).trans (Dev.noted_hq _ _)).trans
      (Dev.noted_forL _ _ _ fun c e => e.noted_finish _ _ _ _)

theorem Dev.noted_putRecord (d : Dev) (evq drop : Nat) (r : ErrRec) : d.Noted (d.putRecord evq drop r) := by
  unfold Dev.putRecord
  dsimp only
  split
  · exact (d.noted_setQueue _ _).trans (Dev.noted_writeCqe _ _ _ _)
  · exact d.noted_bump _ _

/-- A record changes nothing but what is reported. -/
theorem Dev.noted_record (d : Dev) (r : ErrRec) : d.Noted (d.record r) := by
  have key : ∀ e : Dev, d.Noted e → d.Noted
      (if r.cls = clsPartition then (match r.part with | some p => e.fatalPart p r.cause | none => e)
       else if r.cls = clsDevice then e.fatalDev r.cause else e) := by
    intro e he
    split
    · split
      · exact he.trans (Dev.noted_fatalPart _ _ _)
      · exact he
    · split
      · exact he.trans (Dev.noted_fatalDev _ _)
      · exact he
  unfold Dev.record
  dsimp only
  apply key
  split <;> exact d.noted_putRecord _ _ _

theorem Dev.noted_tfault (d : Dev) (h n cause bidx icount : Nat) (f : Option Nat) :
    d.Noted (d.tfault h n cause bidx icount f) := by
  unfold Dev.tfault
  dsimp only
  split
  · exact d.noted_bump _ _
  · exact ((d.noted_bump _ _).trans (Dev.noted_setReg _ _ _)).trans (Dev.noted_record _ _)

/-! ## Counters and numeric events -/

theorem Dev.noted_captureSample (d : Dev) (s : PmuSlot) : d.Noted (d.captureSample s) := by
  unfold Dev.captureSample
  split
  · exact Dev.Noted.refl d
  · dsimp only
    split
    · exact Dev.Noted.refl d
    · split
      · exact d.noted_bump _ _
      · exact d.noted_samples _

theorem Dev.noted_slotAdd (d : Dev) (s : PmuSlot) (n : Nat) : d.Noted (d.slotAdd s n) := by
  unfold Dev.slotAdd
  dsimp only
  split
  · exact d.noted_setFld _ _ _ _
  · split
    · exact (d.noted_setReg _ _).trans (Dev.noted_captureSample _ _)
    · exact d.noted_setReg _ _

theorem Dev.noted_countOn (d : Dev) (l : List PmuSlot) (evt : Nat) (sub : Nat → Bool) (p : Option Nat) (n : Nat) :
    d.Noted (d.countOn l evt sub p n) := by
  unfold Dev.countOn
  split
  · exact Dev.Noted.refl d
  · apply Dev.noted_forL
    intro s e
    dsimp only
    split
    · exact e.noted_slotAdd _ _
    · exact Dev.Noted.refl e

theorem Dev.noted_countFacet (d : Dev) (f evt : Nat) (sub : Nat → Bool) (n : Nat) : d.Noted (d.countFacet f evt sub n) :=
  d.noted_countOn _ _ _ _ _

theorem Dev.noted_countSector (d : Dev) (g evt : Nat) (sub : Nat → Bool) (n : Nat) : d.Noted (d.countSector g evt sub n) :=
  d.noted_countOn _ _ _ _ _

theorem Dev.noted_countMem (d : Dev) (x c evt : Nat) (part : Option Nat) (n : Nat) : d.Noted (d.countMem x c evt part n) :=
  d.noted_countOn _ _ _ _ _

theorem Dev.noted_countPort (d : Dev) (n evt : Nat) (sub : Nat → Bool) (k : Nat) : d.Noted (d.countPort n evt sub k) :=
  d.noted_countOn _ _ _ _ _

theorem Dev.noted_countIngest (d : Dev) (c p evt : Nat) (sub : Nat → Bool) (n : Nat) :
    d.Noted (d.countIngest c p evt sub n) := d.noted_countOn _ _ _ _ _

theorem Dev.noted_countCtx (d : Dev) (h n evt : Nat) (sub : Nat → Bool) (k : Nat) : d.Noted (d.countCtx h n evt sub k) :=
  d.noted_forL _ _ fun _ e => e.noted_countSector _ _ _ _

end Sys2Proof.Machine
end

