-- ==== Sys2Proof/Laws/Issue.lean ====
section
/-! SUPPORT. What a cycle of a context can do to the effects on their way: one that is due later than the cycle is still
on its way after it, whatever else lands, is gathered or is reported. -/

namespace Sys2Proof.Machine

/-! ## Effects that stay on their way -/

/-- Every effect on its way in a context of `d` that is due after cycle `k` is on its way in `e`. -/
def Dev.Carries (k : Nat) (d e : Dev) : Prop :=
  ∀ h n x, k < x.due → x ∈ (d.ctx h n).inflight → x ∈ (e.ctx h n).inflight

theorem Dev.Carries.refl (k : Nat) (d : Dev) : Dev.Carries k d d := fun _ _ _ _ hx => hx

theorem Dev.Carries.trans {k : Nat} {d e g : Dev} (a : Dev.Carries k d e) (b : Dev.Carries k e g) : Dev.Carries k d g :=
  fun h n x hk hx => b h n x hk (a h n x hk hx)

theorem Dev.Carries.of_ctxs {k : Nat} {d e : Dev} (hc : e.ctxs = d.ctxs) : Dev.Carries k d e := by
  intro h n x _ hx
  have he : e.ctx h n = d.ctx h n := by
    unfold Dev.ctx
    rw [hc]
  rw [he]
  exact hx

theorem Dev.Carries.of_noted {k : Nat} {d e : Dev} (hn : d.Noted e) : Dev.Carries k d e := by
  intro h n x _ hx
  obtain ⟨_, hs⟩ := (hn.ctx h n).rest
  rw [hs]
  exact hx

/-- A context whose effects due after `k` are all kept. -/
theorem Dev.carries_setCtx (k : Nat) (d : Dev) (h n : Nat) (y : Ctx)
    (hy : ∀ x, k < x.due → x ∈ (d.ctx h n).inflight → x ∈ y.inflight) : Dev.Carries k d (d.setCtx h n y) := by
  intro h' n' x hk hx
  by_cases he : h' * 8 + n' = h * 8 + n
  · rw [Dev.ctx_key _ h n h' n' he] at hx ⊢
    have hm := hy x hk hx
    rw [Dev.ctx_setCtx_same d h n y]
    exact hm
  · rw [Dev.ctx_setCtx_other d h n h' n' y he]
    exact hx

theorem Dev.carries_modCtx (k : Nat) (d : Dev) (h n : Nat) (f : Ctx → Ctx)
    (hf : ∀ x, k < x.due → x ∈ (d.ctx h n).inflight → x ∈ (f (d.ctx h n)).inflight) : Dev.Carries k d (d.modCtx h n f) :=
  d.carries_setCtx k h n _ hf

theorem Dev.carries_later (k : Nat) (d : Dev) (h n due : Nat) (e : Effect) : Dev.Carries k d (d.later h n due e) :=
  d.carries_modCtx k h n _ fun _ _ hx => List.mem_append_left _ hx

/-- An effect added is on its way. -/
theorem Dev.mem_later (d : Dev) (h n due : Nat) (e : Effect) :
    ({ due, eff := e } : Delayed) ∈ ((d.later h n due e).ctx h n).inflight := by
  have hm : ({ due, eff := e } : Delayed) ∈ (d.ctx h n).inflight ++ [{ due, eff := e }] :=
    List.mem_append_right _ (List.mem_singleton_self _)
  unfold Dev.later Dev.modCtx
  rw [Dev.ctx_setCtx_same]
  exact hm

theorem Dev.carries_forL {β : Type} (k : Nat) (l : List β) (f : β → Dev → Dev) (d : Dev)
    (hf : ∀ (b : β) (e : Dev), Dev.Carries k e (f b e)) : Dev.Carries k d (forL l f d) :=
  forL_keeps (fun e => Dev.Carries k d e) l f d (Dev.Carries.refl k d) fun b _ e he => he.trans (hf b e)

/-! ## Events and generators -/

theorem Dev.carries_rng (k : Nat) (d : Dev) (m : NatMap) : Dev.Carries k d { d with rng := m } :=
  Dev.Carries.of_ctxs rfl

theorem Dev.evalRng_dev (d : Dev) (f l : Nat) : (d.evalRng f l).2 =
    ({ d with rng := d.rng.set (f * 512 + l) ((d.rng.get (f * 512 + l) / 2 ^ 64 + 1) % 2 ^ 128 * 2 ^ 64 +
      d.rng.get (f * 512 + l) % 2 ^ 64) } : Dev).countFacet f 0xC noSub 1 := rfl

theorem Dev.carries_evalRng (k : Nat) (d : Dev) (f l : Nat) : Dev.Carries k d (d.evalRng f l).2 := by
  rw [Dev.evalRng_dev]
  exact (d.carries_rng k _).trans (Dev.Carries.of_noted (Dev.noted_countFacet _ _ _ _ _))

theorem Dev.carries_nevRecord (k : Nat) (d : Dev) (p : Nat) (rec : List Byte) : Dev.Carries k d (d.nevRecord p rec) :=
  Dev.Carries.of_ctxs rfl

theorem Dev.noted_nevRecord (d : Dev) (p : Nat) (rec : List Byte) : d.Noted (d.nevRecord p rec) := d.noted_nevRing _

theorem Dev.noted_raiseFlag (d : Dev) (h : NevHit) : d.Noted (d.raiseFlag h) := by
  unfold Dev.raiseFlag
  dsimp only
  split
  · exact Dev.Noted.refl d
  · exact (d.noted_setFlag _ _ _).trans (Dev.noted_countFacet _ _ _ _ _)

theorem Dev.noted_bumpUnless {d e : Dev} (c : Prop) [Decidable c] (off n : Nat) (he : d.Noted e) :
    d.Noted (if c then e else e.bump off n) := by
  split
  · exact he
  · exact he.trans (Dev.noted_bump _ _ _)

theorem Dev.noted_raiseFlush (d : Dev) (h : NevHit) : d.Noted (d.raiseFlush h) := by
  unfold Dev.raiseFlush
  dsimp only
  split
  · exact Dev.noted_bumpUnless _ _ _ (Dev.noted_bumpUnless _ _ _ (Dev.Noted.refl d))
  · exact Dev.Noted.refl d

theorem Dev.noted_raiseCapture (d : Dev) (p : Nat) (h : NevHit) : d.Noted (d.raiseCapture p h) := by
  unfold Dev.raiseCapture
  dsimp only
  split
  · exact Dev.Noted.refl d
  · exact d.noted_setReg _ _

theorem Dev.noted_raiseRing (d : Dev) (p : Nat) (h : NevHit) : d.Noted (d.raiseRing p h) := by
  unfold Dev.raiseRing
  split
  · exact d.noted_nevRecord _ _
  · exact Dev.Noted.refl d

theorem Dev.noted_raise1 (d : Dev) (p : Nat) (h : NevHit) : d.Noted (d.raise1 p h) := by
  unfold Dev.raise1
  split
  · exact Dev.Noted.refl d
  · exact (((d.noted_raiseFlag h).trans (Dev.noted_raiseFlush _ _)).trans (Dev.noted_bump64 _ _ _)).trans
      (Dev.noted_raiseCapture _ _ _)

theorem Dev.noted_raise (d : Dev) (p : Nat) (hs : List NevHit) : d.Noted (d.raise p hs) :=
  (d.noted_forL _ _ fun _ e => e.noted_raise1 _ _).trans (Dev.noted_forL _ _ _ fun _ e => e.noted_raiseRing _ _)

/-! ## What a cycle gathers -/

theorem Dev.noted_countStall (d : Dev) (h cause k : Nat) : d.Noted (d.countStall h cause k) := by
  unfold Dev.countStall
  exact forN_keeps (fun e => d.Noted e) 8 _ d (Dev.Noted.refl d) fun _ _ he => he.trans (Dev.noted_countSector _ _ _ _ _)

theorem Dev.noted_quietFault (d : Dev) (i : Issue) (qs qb : Nat) (bs : List BankAcc) : d.Noted (d.quietFault i qs qb bs) := by
  unfold Dev.quietFault
  split
  · exact Dev.Noted.refl d
  · exact d.noted_tfault _ _ _ _ _ _

theorem Dev.noted_countBanks (d : Dev) (bs : List BankAcc) : d.Noted (d.countBanks bs) :=
  d.noted_forL _ _ fun _ e => e.noted_countFacet _ _ _ _

theorem Dev.carries_claims (k : Nat) (d : Dev) (m : List (Nat × List Nat)) : Dev.Carries k d { d with claims := m } :=
  Dev.Carries.of_ctxs rfl

theorem Dev.carries_setHemi (k : Nat) (d : Dev) (h : Nat) (x : HemiSt) : Dev.Carries k d (d.setHemi h x) :=
  Dev.Carries.of_ctxs rfl

theorem Dev.carries_passTime (k : Nat) (d : Dev) (h n : Nat) : Dev.Carries k d (d.passTime h n) := by
  unfold Dev.passTime
  refine forN_keeps (fun e => Dev.Carries k d e) 8 _ d (Dev.Carries.refl k d) fun m e he => he.trans ?_
  dsimp only
  split
  · exact Dev.Carries.refl k e
  · exact e.carries_setCtx k h m _ fun _ _ hx => hx

theorem Dev.carries_collide (k : Nat) (d : Dev) (i : Issue) (bs : List BankAcc) : Dev.Carries k d (d.collide i bs) := by
  unfold Dev.collide
  dsimp only
  have hc := d.carries_forL k (accFacets bs) (fun f d => { d with claims := alPut d.claims f ((List.range (facetDepth bs f)).map fun t => claimMask bs f t) })
    fun _ e => e.carries_claims k _
  split
  · exact hc
  · refine Dev.Carries.trans ?_ (Dev.Carries.of_noted (Dev.noted_tfault _ _ _ _ _ _ _))
    refine Dev.Carries.trans ?_ (Dev.Carries.of_noted (Dev.noted_countStall _ _ _ _))
    refine Dev.Carries.trans ?_ (Dev.Carries.of_noted (Dev.noted_bump _ _ _))
    exact (hc.trans (Dev.carries_setHemi k _ _ _)).trans (Dev.carries_passTime k _ _ _)

theorem Dev.carries_aregs (k : Nat) (d : Dev) (m : NatMap) : Dev.Carries k d { d with aregs := m } :=
  Dev.Carries.of_ctxs rfl

/-- The end of a cycle loses nothing that is on its way. -/
theorem Work.carries_close (k : Nat) (w : Work) (i : Issue) (qs qb : Nat) : Dev.Carries k w.1 (w.close i qs qb) := by
  unfold Work.close
  dsimp only
  refine Dev.Carries.trans ?_ (Dev.carries_forL k _ _ _ fun r e => Dev.Carries.of_noted (e.noted_record r))
  refine Dev.Carries.trans ?_ (Dev.Carries.of_noted (Dev.noted_raise _ _ _))
  refine Dev.Carries.trans ?_ (Dev.carries_modCtx k _ _ _ _ fun _ _ hx => hx)
  refine Dev.Carries.trans ?_ (Dev.carries_aregs k _ _)
  refine Dev.Carries.trans ?_ (Dev.Carries.of_noted (Dev.noted_countBanks _ _))
  exact (Dev.Carries.of_noted (Dev.noted_quietFault _ _ _ _ _)).trans (Dev.carries_collide k _ _ _)

/-! ## What lands -/

theorem Dev.carries_lsWrite (k : Nat) (d : Dev) (f : Nat) (bs : List (Nat × Byte)) : Dev.Carries k d (d.lsWrite f bs) :=
  Dev.Carries.of_ctxs rfl

theorem Dev.carries_setAcc (k : Nat) (d : Dev) (f : Nat) (b : Bool) (a : AccSet) : Dev.Carries k d (d.setAcc f b a) :=
  Dev.Carries.of_ctxs rfl

theorem Dev.carries_setCell (k : Nat) (d : Dev) (f : Nat) (c : WedgeCell) : Dev.Carries k d (d.setCell f c) :=
  Dev.Carries.of_ctxs rfl

theorem Dev.takeFree_dev (d : Dev) : d.takeFree.2 = { d with fresh := d.fresh + 1 } := rfl

theorem Dev.carries_takeFree (k : Nat) (d : Dev) : Dev.Carries k d d.takeFree.2 := by
  rw [Dev.takeFree_dev]
  exact Dev.Carries.of_ctxs rfl

theorem Dev.carries_freeScales (k : Nat) (d : Dev) (a : AccSet) (steps : List KStep) :
    Dev.Carries k d (d.freeScales a steps).1 := by
  unfold Dev.freeScales
  refine forL_keeps (fun (x : Dev × AccSet) => Dev.Carries k d x.1) _ _ (d, a) (Dev.Carries.refl k d) ?_
  intro b _ x hx
  dsimp only
  split
  · exact hx
  · exact hx.trans (Dev.carries_takeFree k _)

theorem AccSet.carries_landStep (k : Nat) (d : Dev) (a : AccSet) (st : KStep) (l : Nat) :
    Dev.Carries k d (AccSet.landStep d a st l).1 := by
  unfold AccSet.landStep
  dsimp only
  split
  · exact Dev.Carries.refl k d
  · split
    · exact d.carries_freeScales k _ _
    · exact Dev.Carries.refl k d

theorem Dev.carries_landProduct (k : Nat) (d : Dev) (f : Nat) (set clr : Bool) (steps : List KStep) (l : Nat)
    (site : NevSite) : Dev.Carries k d (d.landProduct f set clr steps l site).1 := by
  unfold Dev.landProduct
  dsimp only
  refine Dev.Carries.trans ?_ (Dev.carries_setAcc k _ _ _ _)
  refine forL_keeps (fun (x : Dev × AccSet × List NevHit) => Dev.Carries k d x.1) _ _ _ (Dev.Carries.refl k d) ?_
  intro b _ x hx
  exact hx.trans (AccSet.carries_landStep k _ _ _ _)

theorem Dev.carries_drainRow (k : Nat) (d : Dev) (j : DrainJob) (r : Nat) : Dev.Carries k d (d.drainRow j r).1 := by
  unfold Dev.drainRow
  dsimp only
  refine forL_keeps (fun (x : Dev × List Nat × List (Ev × Nat × Nat)) => Dev.Carries k d x.1) _ _ _ (Dev.Carries.refl k d) ?_
  intro b _ x hx
  dsimp only
  refine hx.trans ?_
  split
  · exact x.1.carries_evalRng k _ _
  · exact Dev.Carries.refl k _

theorem Dev.carries_wedgeReady (k : Nat) (d : Dev) (f : Nat) : Dev.Carries k d (d.wedgeReady f).1 := by
  unfold Dev.wedgeReady
  dsimp only
  split
  · exact Dev.Carries.refl k d
  · exact d.carries_setCell k _ _

/-- What one effect does as it lands loses nothing that is on its way. -/
theorem touch_dev (i : Issue) (f ord a n : Nat) (w : Work) : (touch i f ord a n w).1 = w.1 := by
  unfold touch
  dsimp only
  split <;> rfl

theorem Work.hit_dev (w : Work) (hs : List NevHit) : (w.hit hs).1 = w.1 := rfl

theorem carries_landRow (k : Nat) (i : Issue) (due : Nat) (j : DrainJob) (r : Nat) (w : Work) :
    Dev.Carries k w.1 (landRow i due j r w).1 := by
  unfold landRow
  dsimp only
  have h1 := (w.1.carries_drainRow k j r).trans
    (((w.1.drainRow j r).1.carries_lsWrite k j.facet (placeBytes (j.rowAddr r) (packBytes (fmtBits j.ofmt) (w.1.drainRow j r).2.1))).trans
      (Dev.Carries.of_noted (Dev.noted_countFacet _ j.facet 5 noSub 1)))
  split
  · rw [Work.dev, Work.hit_dev, touch_dev]
    exact h1.trans (Dev.carries_later k _ _ _ _ _)
  · rw [Work.hit_dev, Work.hit_dev, touch_dev]
    exact h1

theorem Dev.carries_lane (k : Nat) (d : Dev) (v p : NatMap) : Dev.Carries k d { d with vregs := v, pregs := p } :=
  Dev.Carries.of_ctxs rfl

theorem Dev.carries_pds (k : Nat) (d : Dev) (m : NatMap) : Dev.Carries k d { d with pds := m } := Dev.Carries.of_ctxs rfl

theorem Dev.carries_pvs (k : Nat) (d : Dev) (m : NatMap) : Dev.Carries k d { d with pvs := m } := Dev.Carries.of_ctxs rfl

theorem Dev.carries_wds (k : Nat) (d : Dev) (m : NatMap) : Dev.Carries k d { d with wds := m } := Dev.Carries.of_ctxs rfl

theorem carries_landEffect (k : Nat) (i : Issue) (due : Nat) (e : Effect) (w : Work) :
    Dev.Carries k w.1 (landEffect i due e w).1 := by
  cases e with
  | lane f c half vs ps => exact w.1.carries_lane k _ _
  | store f ord bidx a n bs =>
    unfold landEffect
    dsimp only
    rw [Work.dev, touch_dev]
    exact w.1.carries_lsWrite k _ _
  | cond r m v => exact w.1.carries_modCtx k _ _ _ fun _ _ hx => hx
  | product f set clr steps l site read => exact w.1.carries_landProduct k _ _ _ _ _ _
  | drainRow j r => exact carries_landRow k i due j r w
  | prismDesc f d bs => exact w.1.carries_pds k _
  | prismVec f v half ws => exact w.1.carries_pvs k _
  | wedgeReady f => exact w.1.carries_wedgeReady k _
  | wedgeDesc f d bs => exact w.1.carries_wds k _
  | events hs => exact Dev.Carries.refl k _

theorem Dev.carries_takeDue (d : Dev) (h n c r : Nat) : Dev.Carries c d (d.takeDue h n c r).2 := by
  unfold Dev.takeDue
  dsimp only
  refine d.carries_setCtx c h n _ fun x hk hx => List.mem_filter.mpr ⟨hx, ?_⟩
  have : (x.due == c) = false := by
    simp only [beq_eq_false_iff_ne, ne_eq]
    omega
  simp [this]

/-- The effects that land in a cycle leave those due later on their way. -/
theorem carries_landRanks (i : Issue) (c lo hi : Nat) (w : Work) : Dev.Carries c w.1 (landRanks i c lo hi w).1 := by
  unfold landRanks
  refine forL_keeps (fun (x : Work) => Dev.Carries c w.1 x.1) _ _ w (Dev.Carries.refl c _) ?_
  intro r _ x hx
  dsimp only
  refine forL_keeps (fun (y : Work) => Dev.Carries c w.1 y.1) _ _ _ (hx.trans (x.1.carries_takeDue _ _ _ _)) ?_
  intro e _ y hy
  exact hy.trans (carries_landEffect c i c e y)

end Sys2Proof.Machine
end

