-- ==== Sys2Proof/Laws/Flow.lean ====
section
/-! SUPPORT. What landing effects leave of the contexts: everything but STATE, the effects on their way, the condition
registers and the transfer base registers. -/

namespace Sys2Proof.Machine

/-- y stands at the same place of its program as x, with the same requests. -/
def Ctx.Flow (x y : Ctx) : Prop :=
  ∃ state inflight conds tb tclk, y = { x with state, inflight, conds, tb, tclk }

theorem Ctx.Flow.refl (x : Ctx) : Ctx.Flow x x := ⟨x.state, x.inflight, x.conds, x.tb, x.tclk, rfl⟩

theorem Ctx.Flow.trans {x y z : Ctx} : Ctx.Flow x y → Ctx.Flow y z → Ctx.Flow x z
  | ⟨_, _, _, _, _, ea⟩, ⟨s, i, c, b, t, eb⟩ => ⟨s, i, c, b, t, by rw [eb, ea]⟩

theorem Ctx.Flow.of_same {x y : Ctx} (a : Ctx.Same x y) : Ctx.Flow x y :=
  let ⟨s, e⟩ := a.rest
  ⟨s, x.inflight, x.conds, x.tb, x.tclk, e⟩

/-- Every context of two devices stands at the same place; one that is there stays there. -/
def Dev.Flow (d e : Dev) : Prop :=
  ∀ h n, (d.ctx h n).state ≠ .absent → Ctx.Flow (d.ctx h n) (e.ctx h n) ∧ (e.ctx h n).state ≠ .absent

theorem Dev.Flow.refl (d : Dev) : d.Flow d := fun _ _ h => ⟨Ctx.Flow.refl _, h⟩

theorem Dev.Flow.trans {d e g : Dev} (a : d.Flow e) (b : e.Flow g) : d.Flow g := fun h n hs =>
  ⟨(a h n hs).1.trans (b h n (a h n hs).2).1, (b h n (a h n hs).2).2⟩

theorem Dev.Flow.of_ctxs {d e : Dev} (hc : e.ctxs = d.ctxs) : d.Flow e := by
  intro h n hs
  have he : e.ctx h n = d.ctx h n := by
    unfold Dev.ctx
    rw [hc]
  rw [he]
  exact ⟨Ctx.Flow.refl _, hs⟩

theorem Dev.Flow.of_noted {d e : Dev} (hn : d.Noted e) : d.Flow e := fun h n hs =>
  ⟨Ctx.Flow.of_same (hn.ctx h n), (hn.ctx h n).live hs⟩

theorem Dev.flow_setCtx (d : Dev) (h n : Nat) (y : Ctx) (hy : Ctx.Flow (d.ctx h n) y)
    (hs : (d.ctx h n).state ≠ .absent → y.state ≠ .absent) : d.Flow (d.setCtx h n y) := by
  intro h' n' hl
  by_cases he : h' * 8 + n' = h * 8 + n
  · rw [Dev.ctx_key d h n h' n' he] at hl ⊢
    rw [Dev.ctx_key _ h n h' n' he]
    rw [Dev.ctx_setCtx_same d h n y]
    exact ⟨hy, hs hl⟩
  · rw [Dev.ctx_setCtx_other d h n h' n' y he]
    exact ⟨Ctx.Flow.refl _, hl⟩

theorem Dev.flow_modCtx (d : Dev) (h n : Nat) (f : Ctx → Ctx) (hf : ∀ x, Ctx.Flow x (f x))
    (hs : ∀ x, x.state ≠ .absent → (f x).state ≠ .absent) : d.Flow (d.modCtx h n f) :=
  d.flow_setCtx h n _ (hf _) (hs _)

theorem Dev.flow_later (d : Dev) (h n due : Nat) (e : Effect) : d.Flow (d.later h n due e) :=
  d.flow_modCtx h n _ (fun _ => ⟨_, _, _, _, _, rfl⟩) fun _ hx => hx

theorem Dev.flow_forL {β : Type} (l : List β) (f : β → Dev → Dev) (d : Dev) (hf : ∀ (b : β) (e : Dev), e.Flow (f b e)) :
    d.Flow (forL l f d) :=
  forL_keeps (fun e => d.Flow e) l f d (Dev.Flow.refl d) fun b _ e he => he.trans (hf b e)

theorem Dev.flow_setHemi (d : Dev) (h : Nat) (x : HemiSt) : d.Flow (d.setHemi h x) := Dev.Flow.of_ctxs rfl

theorem Dev.flow_passTime (d : Dev) (h k : Nat) : d.Flow (d.passTime h k) := by
  unfold Dev.passTime
  refine forN_keeps (fun e => d.Flow e) 8 _ d (Dev.Flow.refl d) fun n e he => he.trans ?_
  dsimp only
  split
  · exact Dev.Flow.refl e
  · exact e.flow_setCtx h n _ ⟨_, _, _, _, _, rfl⟩ id

theorem Dev.flow_collide (d : Dev) (i : Issue) (bs : List BankAcc) : d.Flow (d.collide i bs) := by
  unfold Dev.collide
  dsimp only
  have hc := d.flow_forL (accFacets bs) (fun f d => { d with claims := alPut d.claims f ((List.range (facetDepth bs f)).map fun t => claimMask bs f t) })
    fun _ e => Dev.Flow.of_ctxs rfl
  split
  · exact hc
  · refine Dev.Flow.trans ?_ (Dev.Flow.of_noted (Dev.noted_tfault _ _ _ _ _ _ _))
    refine Dev.Flow.trans ?_ (Dev.Flow.of_noted (Dev.noted_countStall _ _ _ _))
    refine Dev.Flow.trans ?_ (Dev.Flow.of_noted (Dev.noted_bump _ _ _))
    exact (hc.trans (Dev.flow_setHemi _ _ _)).trans (Dev.flow_passTime _ _ _)

theorem Dev.flow_aregs (d : Dev) (m : NatMap) : d.Flow { d with aregs := m } := Dev.Flow.of_ctxs rfl

/-- The end of a cycle leaves every context at its place. -/
theorem Work.flow_close (w : Work) (i : Issue) (qs qb : Nat) : w.1.Flow (w.close i qs qb) := by
  unfold Work.close
  dsimp only
  refine Dev.Flow.trans ?_ (Dev.flow_forL _ _ _ fun r e => Dev.Flow.of_noted (e.noted_record r))
  refine Dev.Flow.trans ?_ (Dev.Flow.of_noted (Dev.noted_raise _ _ _))
  refine Dev.Flow.trans ?_ (Dev.flow_modCtx _ _ _ _ (fun _ => ⟨_, _, _, _, _, rfl⟩) fun _ hx => hx)
  refine Dev.Flow.trans ?_ (Dev.flow_aregs _ _)
  refine Dev.Flow.trans ?_ (Dev.Flow.of_noted (Dev.noted_countBanks _ _))
  exact (Dev.Flow.of_noted (Dev.noted_quietFault _ _ _ _ _)).trans (Dev.flow_collide _ _ _)

theorem Dev.flow_takeFree (d : Dev) : d.Flow d.takeFree.2 := by
  rw [Dev.takeFree_dev]
  exact Dev.Flow.of_ctxs rfl

theorem Dev.flow_freeScales (d : Dev) (a : AccSet) (steps : List KStep) : d.Flow (d.freeScales a steps).1 := by
  unfold Dev.freeScales
  refine forL_keeps (fun (x : Dev × AccSet) => d.Flow x.1) _ _ (d, a) (Dev.Flow.refl d) ?_
  intro b _ x hx
  dsimp only
  split
  · exact hx
  · exact hx.trans (Dev.flow_takeFree _)

theorem AccSet.flow_landStep (d : Dev) (a : AccSet) (st : KStep) (l : Nat) : d.Flow (AccSet.landStep d a st l).1 := by
  unfold AccSet.landStep
  dsimp only
  split
  · exact Dev.Flow.refl d
  · split
    · exact d.flow_freeScales _ _
    · exact Dev.Flow.refl d

theorem Dev.flow_setAcc (d : Dev) (f : Nat) (b : Bool) (a : AccSet) : d.Flow (d.setAcc f b a) := Dev.Flow.of_ctxs rfl

theorem Dev.flow_landProduct (d : Dev) (f : Nat) (set clr : Bool) (steps : List KStep) (l : Nat) (site : NevSite) :
    d.Flow (d.landProduct f set clr steps l site).1 := by
  unfold Dev.landProduct
  dsimp only
  refine Dev.Flow.trans ?_ (Dev.flow_setAcc _ _ _ _)
  refine forL_keeps (fun (x : Dev × AccSet × List NevHit) => d.Flow x.1) _ _ _ (Dev.Flow.refl d) ?_
  intro b _ x hx
  exact hx.trans (AccSet.flow_landStep _ _ _ _)

theorem Dev.flow_rng (d : Dev) (m : NatMap) : d.Flow { d with rng := m } := Dev.Flow.of_ctxs rfl

theorem Dev.flow_evalRng (d : Dev) (f l : Nat) : d.Flow (d.evalRng f l).2 := by
  rw [Dev.evalRng_dev]
  exact (d.flow_rng _).trans (Dev.Flow.of_noted (Dev.noted_countFacet _ _ _ _ _))

theorem Dev.flow_drainRow (d : Dev) (j : DrainJob) (r : Nat) : d.Flow (d.drainRow j r).1 := by
  unfold Dev.drainRow
  dsimp only
  refine forL_keeps (fun (x : Dev × List Nat × List (Ev × Nat × Nat)) => d.Flow x.1) _ _ _ (Dev.Flow.refl d) ?_
  intro b _ x hx
  dsimp only
  refine hx.trans ?_
  split
  · exact x.1.flow_evalRng _ _
  · exact Dev.Flow.refl _

theorem Dev.flow_setCell (d : Dev) (f : Nat) (c : WedgeCell) : d.Flow (d.setCell f c) := Dev.Flow.of_ctxs rfl

theorem Dev.flow_wedgeReady (d : Dev) (f : Nat) : d.Flow (d.wedgeReady f).1 := by
  unfold Dev.wedgeReady
  dsimp only
  split
  · exact Dev.Flow.refl d
  · exact d.flow_setCell _ _

theorem Dev.flow_lsWrite (d : Dev) (f : Nat) (bs : List (Nat × Byte)) : d.Flow (d.lsWrite f bs) := Dev.Flow.of_ctxs rfl

theorem flow_landRow (i : Issue) (due : Nat) (j : DrainJob) (r : Nat) (w : Work) : w.1.Flow (landRow i due j r w).1 := by
  unfold landRow
  dsimp only
  have h1 := (w.1.flow_drainRow j r).trans
    (((w.1.drainRow j r).1.flow_lsWrite j.facet (placeBytes (j.rowAddr r) (packBytes (fmtBits j.ofmt) (w.1.drainRow j r).2.1))).trans
      (Dev.Flow.of_noted (Dev.noted_countFacet _ j.facet 5 noSub 1)))
  split
  · rw [Work.dev, Work.hit_dev, touch_dev]
    exact h1.trans (Dev.flow_later _ _ _ _ _)
  · rw [Work.hit_dev, Work.hit_dev, touch_dev]
    exact h1

theorem Dev.flow_lane (d : Dev) (v p : NatMap) : d.Flow { d with vregs := v, pregs := p } := Dev.Flow.of_ctxs rfl

theorem Dev.flow_pds (d : Dev) (m : NatMap) : d.Flow { d with pds := m } := Dev.Flow.of_ctxs rfl

theorem Dev.flow_pvs (d : Dev) (m : NatMap) : d.Flow { d with pvs := m } := Dev.Flow.of_ctxs rfl

theorem Dev.flow_wds (d : Dev) (m : NatMap) : d.Flow { d with wds := m } := Dev.Flow.of_ctxs rfl

theorem flow_landEffect (i : Issue) (due : Nat) (e : Effect) (w : Work) : w.1.Flow (landEffect i due e w).1 := by
  cases e with
  | lane f c half vs ps => exact w.1.flow_lane _ _
  | store f ord bidx a n bs =>
    unfold landEffect
    dsimp only
    rw [Work.dev, touch_dev]
    exact w.1.flow_lsWrite _ _
  | cond r m v => exact w.1.flow_modCtx _ _ _ (fun _ => ⟨_, _, _, _, _, rfl⟩) fun _ hx => hx
  | product f set clr steps l site read => exact w.1.flow_landProduct _ _ _ _ _ _
  | drainRow j r => exact flow_landRow i due j r w
  | prismDesc f d bs => exact w.1.flow_pds _
  | prismVec f v half ws => exact w.1.flow_pvs _
  | wedgeReady f => exact w.1.flow_wedgeReady _
  | wedgeDesc f d bs => exact w.1.flow_wds _
  | events hs => exact Dev.Flow.refl _

theorem Dev.flow_takeDue (d : Dev) (h n c r : Nat) : d.Flow (d.takeDue h n c r).2 := by
  unfold Dev.takeDue
  dsimp only
  exact d.flow_setCtx h n _ ⟨_, _, _, _, _, rfl⟩ fun hx => hx

/-- The effects that land in a cycle leave every context at its place. -/
theorem flow_landRanks (i : Issue) (c lo hi : Nat) (w : Work) : w.1.Flow (landRanks i c lo hi w).1 := by
  unfold landRanks
  refine forL_keeps (fun (x : Work) => w.1.Flow x.1) _ _ w (Dev.Flow.refl _) ?_
  intro r _ x hx
  dsimp only
  refine forL_keeps (fun (y : Work) => w.1.Flow y.1) _ _ _ (hx.trans (x.1.flow_takeDue _ _ _ _)) ?_
  intro e _ y hy
  exact hy.trans (flow_landEffect i c e y)

theorem Dev.flow_landCycle (d : Dev) (h n c : Nat) : d.Flow (d.landCycle h n c) := by
  unfold Dev.landCycle
  dsimp only
  exact (flow_landRanks _ c 0 4 (d, {})).trans (Work.flow_close _ _ _ _)

theorem Dev.flow_settleN (h n c k : Nat) (d : Dev) : d.Flow (Dev.settleN h n c k d) := by
  induction k generalizing d with
  | zero => exact Dev.Flow.refl d
  | succ k ih =>
    unfold Dev.settleN
    split
    · exact Dev.Flow.refl d
    · exact (d.flow_landCycle h n _).trans (ih _)

/-- Everything due before a cycle comes about, and every context stands where it stood. -/
theorem Dev.flow_settle (d : Dev) (h n c : Nat) : d.Flow (d.settle h n c) := by
  unfold Dev.settle
  exact d.flow_settleN h n c _

end Sys2Proof.Machine
end

