-- ==== Sys2Proof/Laws/Lane.lean ====
section
/-! SUPPORT. Ops that act facet by facet in one cycle: what each facet's op leaves on its way stands after the cycle,
and what lane ops compute from. -/

namespace Sys2Proof.Machine

/-! ## Loops over distinct things -/

/-- What each turn of a loop over distinct things establishes for its own thing holds for every one after the loop, if
no turn spoils what the others need or have established. -/
theorem forL_each {β γ : Type} (l : List β) (hl : l.Nodup) (f : β → γ → γ) (a : γ) (Pre Post : β → γ → Prop)
    (h0 : ∀ b ∈ l, Pre b a) (hpost : ∀ b w, Pre b w → Post b (f b w))
    (hpre : ∀ b b' w, b ≠ b' → Pre b' w → Pre b' (f b w)) (hkeep : ∀ b b' w, Post b' w → Post b' (f b w)) :
    ∀ b ∈ l, Post b (forL l f a) := by
  induction l generalizing a with
  | nil => intro b hb; cases hb
  | cons x xs ih =>
    intro b hb
    have hn := List.nodup_cons.mp hl
    have hstep : forL (x :: xs) f a = forL xs f (f x a) := rfl
    rw [hstep]
    rcases List.mem_cons.mp hb with h | h
    · subst h
      exact forL_keeps (fun w => Post b w) xs f _ (hpost b a (h0 b (List.mem_cons_self ..))) fun y _ w hw => hkeep y b w hw
    · exact ih hn.2 (f x a) (fun y hy => hpre x y a (fun e => hn.1 (e ▸ hy)) (h0 y (List.mem_cons_of_mem _ hy))) b h

/-- The facets of a site are distinct. -/
theorem siteFacets_nodup (s : Site) : (siteFacets s).Nodup := by
  unfold siteFacets
  refine List.pairwise_filterMap.mpr (List.Pairwise.imp ?_ List.nodup_range)
  intro a b hne y ha z hb hyz
  subst hyz
  apply hne
  have ha' : facetOf s.c.h.val s.slot.val a = y := by
    by_cases h : s.fmask.getLsbD a = true
    · simpa [h] using ha
    · simp [h] at ha
  have hb' : facetOf s.c.h.val s.slot.val b = y := by
    by_cases h : s.fmask.getLsbD b = true
    · simpa [h] using hb
    · simp [h] at hb
  unfold facetOf at ha' hb'
  omega

/-! ## One op in its cycle -/

/-- What an op puts on its way for a later cycle is on its way after its cycle. -/
theorem Dev.oneOp_mem (d : Dev) (c : CtxId) (k : Nat) (f : Issue → Work → Work) (x : Delayed) (h n : Nat)
    (hx : (d.issueOf c).cyc < x.due)
    (hm : x ∈ ((f (d.issueOf c) (landRanks (d.issueOf c) (d.issueOf c).cyc 0 k
      (d.settle c.h.val c.n.val (d.issueOf c).cyc, {}))).1.ctx h n).inflight) :
    x ∈ ((d.oneOp c k f).ctx h n).inflight := by
  unfold Dev.oneOp
  dsimp only
  exact Work.carries_close (d.issueOf c).cyc _ _ _ _ h n x hx (carries_landRanks _ _ _ _ _ h n x hx hm)

theorem Issue.carries_later (j : Nat) (i : Issue) (k : Nat) (e : Effect) (w : Work) :
    Dev.Carries j w.1 (i.later k e w).1 := w.1.carries_later j _ _ _ _

theorem Issue.mem_later (i : Issue) (k : Nat) (e : Effect) (w : Work) :
    ({ due := i.cyc + k, eff := e } : Delayed) ∈ ((i.later k e w).1.ctx i.h i.n).inflight := w.1.mem_later _ _ _ _

/-! ## Lane ops -/

/-- Two devices with the same vector and predicate registers. -/
def Dev.SameRegs (d e : Dev) : Prop := e.vregs = d.vregs ∧ e.pregs = d.pregs

theorem Dev.SameRegs.refl (d : Dev) : d.SameRegs d := ⟨rfl, rfl⟩

theorem Dev.SameRegs.trans {d e g : Dev} (a : d.SameRegs e) (b : e.SameRegs g) : d.SameRegs g :=
  ⟨b.1.trans a.1, b.2.trans a.2⟩

theorem Dev.SameRegs.of_noted {d e : Dev} (h : d.Noted e) : d.SameRegs e := ⟨h.vregs, h.pregs⟩

theorem Dev.SameRegs.vreg {d e : Dev} (h : d.SameRegs e) (f k r l : Nat) : e.vreg f k r l = d.vreg f k r l := by
  unfold Dev.vreg
  rw [h.1]

theorem Dev.SameRegs.preg {d e : Dev} (h : d.SameRegs e) (f k r l : Nat) : e.preg f k r l = d.preg f k r l := by
  unfold Dev.preg
  rw [h.2]

theorem Dev.SameRegs.guardIn {d e : Dev} (h : d.SameRegs e) (f k : Nat) (ge gn : Bool) (pg l : Nat) :
    e.guardIn f k ge gn pg l = d.guardIn f k ge gn pg l := by
  unfold Dev.guardIn
  rw [h.preg]

theorem Dev.SameRegs.lanesIn {d e : Dev} (h : d.SameRegs e) (f k : Nat) (o : LaneOp) : e.lanesIn f k o = d.lanesIn f k o := by
  unfold Dev.lanesIn
  simp only [h.guardIn]

theorem Dev.SameRegs.opB {d e : Dev} (h : d.SameRegs e) (f k : Nat) (o : LaneOp) (l : Nat) : e.opB f k o l = d.opB f k o l := by
  unfold Dev.opB
  rw [h.vreg]

/-- The generators of facet f are the same in two devices. -/
def Dev.SameRng (f : Nat) (d e : Dev) : Prop := ∀ l, l < 512 → e.rng.get (f * 512 + l) = d.rng.get (f * 512 + l)

theorem Dev.noted_countTwo (d : Dev) (f : Nat) (g : Nat → Bool) (n : Nat) :
    d.Noted ((d.countFacet f 6 g 1).countFacet f 7 noSub n) :=
  (d.noted_countFacet f 6 g 1).trans (Dev.noted_countFacet _ f 7 noSub n)

theorem countLane_noted (i : Issue) (o : LaneOp) (opc f : Nat) (w : Work) : w.1.Noted (countLane i o opc f w).1 := by
  unfold countLane Work.dev
  dsimp only
  generalize (w.1.lanesIn f (thread i o.pin o.pctx.toNat) o).length = k
  generalize 512 - k = n
  exact Dev.noted_countTwo _ _ _ _

theorem NatMap.get_set_other (m : NatMap) (k j v : Nat) (h : j ≠ k) : (m.set k v).get j = m.get j :=
  alGet_alSet_other 0 m k j v h

/-- One evaluation of a generator: what it changes. -/
theorem Dev.evalRng_rng (d : Dev) (f l : Nat) : (d.evalRng f l).2.rng = d.rng.set (f * 512 + l)
    ((d.rng.get (f * 512 + l) / 2 ^ 64 + 1) % 2 ^ 128 * 2 ^ 64 + d.rng.get (f * 512 + l) % 2 ^ 64) := by
  rw [Dev.evalRng_dev, (Dev.noted_countFacet _ _ _ _ _).rng]

theorem Dev.evalRng_words (d : Dev) (f l : Nat) :
    (d.evalRng f l).1 = philox (d.rng.get (f * 512 + l) / 2 ^ 64) (d.rng.get (f * 512 + l) % 2 ^ 64) := by
  unfold Dev.evalRng
  dsimp only

theorem Dev.regs_rng (d : Dev) (m : NatMap) : d.SameRegs { d with rng := m } := ⟨rfl, rfl⟩

theorem Dev.evalRng_regs (d : Dev) (f l : Nat) : d.SameRegs (d.evalRng f l).2 := by
  rw [Dev.evalRng_dev]
  exact (d.regs_rng _).trans (Dev.SameRegs.of_noted (Dev.noted_countFacet _ _ _ _ _))

/-- The lanes of a facet. -/
def allLanes : List Nat := List.range 512

theorem allLanes_nodup : allLanes.Nodup := by
  unfold allLanes
  exact List.nodup_range

theorem allLanes_get (l : Nat) (h : l < 512) : allLanes[l]? = some l := by
  unfold allLanes
  exact List.getElem?_range h

theorem mem_allLanes (l : Nat) (h : l ∈ allLanes) : l < 512 := by
  unfold allLanes at h
  exact List.mem_range.mp h

/-- The turns of drawing from the lanes in `ls`. -/
def Dev.drawFrom (d : Dev) (f : Nat) (ls : List Nat) (acc : List (List Nat)) : List (List Nat) × Dev :=
  forL ls (fun l (x : List (List Nat) × Dev) => ((x.2.evalRng f l).1 :: x.1, (x.2.evalRng f l).2)) (acc, d)

theorem Dev.drawAll_from (d : Dev) (f : Nat) :
    d.drawAll f = ((d.drawFrom f allLanes []).1.reverse, (d.drawFrom f allLanes []).2) := by
  unfold Dev.drawAll Dev.drawFrom allLanes
  dsimp only

/-- The turns of drawing from the lanes in `ls`: the words of each lane, newest first, and the generators of all other
places as they were. -/
theorem Dev.drawLoop (f : Nat) (ls : List Nat) (hl : ls.Nodup) (acc : List (List Nat)) (d : Dev) :
    (d.drawFrom f ls acc).1 = (ls.map fun l => philox (d.rng.get (f * 512 + l) / 2 ^ 64) (d.rng.get (f * 512 + l) % 2 ^ 64)).reverse ++ acc ∧
      d.SameRegs (d.drawFrom f ls acc).2 ∧
      (∀ j, (∀ l ∈ ls, j ≠ f * 512 + l) → (d.drawFrom f ls acc).2.rng.get j = d.rng.get j) ∧
      ∀ k, Dev.Carries k d (d.drawFrom f ls acc).2 := by
  induction ls generalizing acc d with
  | nil => exact ⟨rfl, Dev.SameRegs.refl d, fun _ _ => rfl, fun k => Dev.Carries.refl k d⟩
  | cons x xs ih =>
    have hn := List.nodup_cons.mp hl
    have h := ih hn.2 ((d.evalRng f x).1 :: acc) (d.evalRng f x).2
    have hs : d.drawFrom f (x :: xs) acc = (d.evalRng f x).2.drawFrom f xs ((d.evalRng f x).1 :: acc) := rfl
    rw [hs]
    have hrng : ∀ j, j ≠ f * 512 + x → (d.evalRng f x).2.rng.get j = d.rng.get j := fun j hj => by
      rw [Dev.evalRng_rng]
      exact NatMap.get_set_other _ _ _ _ hj
    have hmap : (xs.map fun l => philox ((d.evalRng f x).2.rng.get (f * 512 + l) / 2 ^ 64)
        ((d.evalRng f x).2.rng.get (f * 512 + l) % 2 ^ 64)) =
        xs.map fun l => philox (d.rng.get (f * 512 + l) / 2 ^ 64) (d.rng.get (f * 512 + l) % 2 ^ 64) := by
      apply List.map_congr_left
      intro l hm
      rw [hrng (f * 512 + l) fun e => hn.1 (by have : l = x := by omega
                                               exact this ▸ hm)]
    refine ⟨?_, (d.evalRng_regs f x).trans h.2.1, ?_, fun k => (d.carries_evalRng k f x).trans (h.2.2.2 k)⟩
    · have h1 := h.1
      rw [hmap, Dev.evalRng_words] at h1
      rw [List.map_cons, List.reverse_cons, List.append_assoc]
      exact h1
    · intro j hj
      have := h.2.2.1 j fun l hm => hj l (List.mem_cons_of_mem _ hm)
      exact this.trans (hrng j (hj x (List.mem_cons_self ..)))

theorem Dev.drawAll_snd (d : Dev) (f : Nat) : (d.drawAll f).2 = (d.drawFrom f allLanes []).2 := by
  have h := d.drawAll_from f
  generalize d.drawAll f = x at h ⊢
  rw [h]

theorem Dev.drawAll_fst (d : Dev) (f : Nat) : (d.drawAll f).1 = (d.drawFrom f allLanes []).1.reverse := by
  have h := d.drawAll_from f
  generalize d.drawAll f = x at h ⊢
  rw [h]

theorem Dev.drawAll_words (d : Dev) (f l : Nat) (h : l < 512) : (d.drawAll f).1.getD l [] =
    philox (d.rng.get (f * 512 + l) / 2 ^ 64) (d.rng.get (f * 512 + l) % 2 ^ 64) := by
  rw [Dev.drawAll_fst, (Dev.drawLoop f allLanes allLanes_nodup [] d).1, List.append_nil, List.reverse_reverse,
    List.getD_eq_getElem?_getD, List.getElem?_map, allLanes_get l h, Option.map_some, Option.getD_some]

theorem Dev.drawAll_regs (d : Dev) (f : Nat) : d.SameRegs (d.drawAll f).2 := by
  rw [Dev.drawAll_snd]
  exact (Dev.drawLoop f allLanes allLanes_nodup [] d).2.1

theorem Dev.carries_drawAll (k : Nat) (d : Dev) (f : Nat) : Dev.Carries k d (d.drawAll f).2 := by
  rw [Dev.drawAll_snd]
  exact (Dev.drawLoop f allLanes allLanes_nodup [] d).2.2.2 k

theorem Dev.drawAll_other (d : Dev) (f g : Nat) (h : f ≠ g) : Dev.SameRng g d (d.drawAll f).2 := by
  intro l hl
  rw [Dev.drawAll_snd]
  exact (Dev.drawLoop f allLanes allLanes_nodup [] d).2.2.1 (g * 512 + l) fun m hm => by
    have := mem_allLanes m hm
    omega

/-! ## A lane op of the whole site -/

/-- What a lane op of facet f may rely on: the registers and the facet's generators as they stood before the site's
first facet acted. -/
def LanePre (w0 : Work) (f : Nat) (w : Work) : Prop := w0.1.SameRegs w.1 ∧ Dev.SameRng f w0.1 w.1

/-- A lane op's function that draws from no other facet's generators, leaves the registers for later, and loses nothing
on its way. -/
structure LaneFn (g : Nat → Work → Work) : Prop where
  regs : ∀ (f : Nat) (w : Work), w.1.SameRegs (g f w).1
  rng : ∀ (f f' : Nat) (w : Work), f ≠ f' → Dev.SameRng f' w.1 (g f w).1
  carries : ∀ (k f : Nat) (w : Work), Dev.Carries k w.1 (g f w).1

theorem LaneFn.count {i : Issue} {o : LaneOp} {opc : Nat} {g : Nat → Work → Work} (h : LaneFn g) :
    LaneFn fun x w => g x (countLane i o opc x w) where
  regs f w := (Dev.SameRegs.of_noted (countLane_noted i o opc f w)).trans (h.regs f _)
  rng f f' w hne := by
    intro l hl
    rw [h.rng f f' _ hne l hl, (countLane_noted i o opc f w).rng]
  carries k f w := (Dev.Carries.of_noted (countLane_noted i o opc f w)).trans (h.carries k f _)

/-- The row of a lane op: what its function puts on its way for every facet of the site. -/
theorem Dev.laneRow_each (d : Dev) (s : Site) (o : LaneOp) (opc : Nat) (g : Issue → LaneOp → Nat → Work → Work)
    (x : Nat → Delayed) (act : Nat → Prop) (hok : d.siteOk s = true) (hg : LaneFn (g (d.issueOf s.c) o))
    (hdue : ∀ f, (d.issueOf s.c).cyc < (x f).due) (w0 : Work)
    (hw : w0 = landRanks (d.issueOf s.c) (d.issueOf s.c).cyc 0 3 (d.settle s.c.h.val s.c.n.val (d.issueOf s.c).cyc, {}))
    (hput : ∀ f w, LanePre w0 f w → act f → x f ∈ ((g (d.issueOf s.c) o f w).1.ctx s.c.h.val s.c.n.val).inflight) :
    ∀ f ∈ siteFacets s, act f → x f ∈ ((d.laneRow s o opc g).ctx s.c.h.val s.c.n.val).inflight := by
  intro f hf ha
  unfold Dev.laneRow Dev.siteOp
  rw [if_pos hok]
  apply Dev.oneOp_mem _ _ _ _ _ _ _ (hdue f)
  rw [← hw]
  unfold siteEach
  have hc := hg.count (i := d.issueOf s.c) (o := o) (opc := opc)
  refine forL_each (siteFacets s) (siteFacets_nodup s) _ w0 (LanePre w0)
    (fun b w => act b → x b ∈ (w.1.ctx s.c.h.val s.c.n.val).inflight) ?_ ?_ ?_ ?_ f hf ha
  · exact fun b _ => ⟨Dev.SameRegs.refl _, fun _ _ => rfl⟩
  · intro b w hp hb
    refine hput b _ ⟨hp.1.trans (Dev.SameRegs.of_noted (countLane_noted _ _ _ _ _)), ?_⟩ hb
    intro l hl
    rw [(countLane_noted (d.issueOf s.c) o opc b w).rng]
    exact hp.2 l hl
  · intro b b' w hne hp
    refine ⟨hp.1.trans (hc.regs b w), fun l hl => ?_⟩
    rw [hc.rng b b' w hne l hl]
    exact hp.2 l hl
  · intro b b' w hp hb
    exact hc.carries _ b w _ _ _ (hdue b') (hp hb)

/-! ## The common shapes of lane ops -/

theorem laneWrite_regs (i : Issue) (f k : Nat) (vs : List (Nat × Nat)) (w : Work) :
    w.1.SameRegs (laneWrite i f k vs w).1 ∧ (laneWrite i f k vs w).1.rng = w.1.rng ∧
      ∀ j, Dev.Carries j w.1 (laneWrite i f k vs w).1 := by
  unfold laneWrite
  split
  · exact ⟨Dev.SameRegs.refl _, rfl, fun j => Dev.Carries.refl j _⟩
  · exact ⟨⟨rfl, rfl⟩, rfl, fun j => i.carries_later j _ _ _⟩

theorem predWrite_regs (i : Issue) (f k : Nat) (vs : List (Nat × Nat)) (w : Work) :
    w.1.SameRegs (predWrite i f k vs w).1 ∧ (predWrite i f k vs w).1.rng = w.1.rng ∧
      ∀ j, Dev.Carries j w.1 (predWrite i f k vs w).1 := by
  unfold predWrite
  split
  · exact ⟨Dev.SameRegs.refl _, rfl, fun j => Dev.Carries.refl j _⟩
  · exact ⟨⟨rfl, rfl⟩, rfl, fun j => i.carries_later j _ _ _⟩

theorem laneEvents_regs (i : Issue) (f k : Nat) (els : List (Ev × Nat)) (w : Work) :
    w.1.SameRegs (laneEvents i f k els w).1 ∧ (laneEvents i f k els w).1.rng = w.1.rng ∧
      ∀ j, Dev.Carries j w.1 (laneEvents i f k els w).1 := by
  unfold laneEvents
  dsimp only
  split
  · exact ⟨Dev.SameRegs.refl _, rfl, fun j => Dev.Carries.refl j _⟩
  · exact ⟨⟨rfl, rfl⟩, rfl, fun j => i.carries_later j _ _ _⟩

theorem laneWrite_mem (i : Issue) (f k : Nat) (vs : List (Nat × Nat)) (w : Work) (h : vs ≠ []) :
    ({ due := i.cyc + 16, eff := .lane f k 0 vs [] } : Delayed) ∈ ((laneWrite i f k vs w).1.ctx i.h i.n).inflight := by
  unfold laneWrite
  rw [if_neg (by simpa using h)]
  exact i.mem_later _ _ _

theorem predWrite_mem (i : Issue) (f k : Nat) (vs : List (Nat × Nat)) (w : Work) (h : vs ≠ []) :
    ({ due := i.cyc + 16, eff := .lane f k 0 [] vs } : Delayed) ∈ ((predWrite i f k vs w).1.ctx i.h i.n).inflight := by
  unfold predWrite
  rw [if_neg (by simpa using h)]
  exact i.mem_later _ _ _

theorem mapOn_fn (i : Issue) (o : LaneOp) (dr : Bool) (g : Dev → Nat → Nat → Nat → Nat → Nat × Ev) : LaneFn (mapOn i o dr g) where
  regs f w := by
    unfold mapOn
    dsimp only
    refine Dev.SameRegs.trans ?_ (laneEvents_regs _ _ _ _ _).1
    refine Dev.SameRegs.trans ?_ (laneWrite_regs _ _ _ _ _).1
    dsimp only
    split
    · exact w.1.drawAll_regs f
    · exact Dev.SameRegs.refl _
  rng f f' w hne := by
    unfold mapOn
    dsimp only
    intro l hl
    rw [(laneEvents_regs _ _ _ _ _).2.1, (laneWrite_regs _ _ _ _ _).2.1]
    dsimp only
    split
    · exact w.1.drawAll_other f f' hne l hl
    · rfl
  carries k f w := by
    unfold mapOn
    dsimp only
    refine Dev.Carries.trans ?_ ((laneEvents_regs _ _ _ _ _).2.2 k)
    refine Dev.Carries.trans ?_ ((laneWrite_regs _ _ _ _ _).2.2 k)
    dsimp only
    split
    · exact w.1.carries_drawAll k f
    · exact Dev.Carries.refl k _

/-- The word a stochastic rounding of lane l of facet f uses; 0 where nothing is drawn. -/
def Dev.laneWord (d : Dev) (draws : Bool) (f l : Nat) : Nat :=
  if draws then nth (philox (d.rng.get (f * 512 + l) / 2 ^ 64) (d.rng.get (f * 512 + l) % 2 ^ 64)) 0 else 0

theorem lanesIn_lt (d : Dev) (f k : Nat) (o : LaneOp) (l : Nat) (h : l ∈ d.lanesIn f k o) : l < 512 := by
  unfold Dev.lanesIn at h
  exact List.mem_range.mp (List.mem_filter.mp h).1

/-- What an op that computes vd lane by lane puts on its way. -/
theorem mapOn_put (i : Issue) (o : LaneOp) (dr : Bool) (g : Dev → Nat → Nat → Nat → Nat → Nat × Ev)
    (hg : ∀ (d e : Dev), d.SameRegs e → ∀ f k l u, g e f k l u = g d f k l u) (w0 w : Work) (f : Nat)
    (hp : LanePre w0 f w) (h : w0.1.lanesIn f (thread i o.pin o.pctx.toNat) o ≠ []) :
    ({ due := i.cyc + 16, eff := .lane f (thread i o.pin o.pctx.toNat) 0
        ((w0.1.lanesIn f (thread i o.pin o.pctx.toNat) o).map fun l =>
          (o.vd.toNat * 512 + l, (g w0.1 f (thread i o.pin o.pctx.toNat) l (w0.1.laneWord dr f l)).1)) [] } : Delayed) ∈
      ((mapOn i o dr g f w).1.ctx i.h i.n).inflight := by
  unfold mapOn
  dsimp only
  generalize thread i o.pin o.pctx.toNat = k at h ⊢
  have hregs : w0.1.SameRegs (if dr = true then w.1.drawAll f else ([], w.1)).2 := by
    split
    · exact hp.1.trans (w.1.drawAll_regs f)
    · exact hp.1
  have hword : ∀ l, l < 512 → nth ((if dr = true then w.1.drawAll f else ([], w.1)).1.getD l []) 0 = w0.1.laneWord dr f l := by
    intro l hl
    unfold Dev.laneWord
    cases dr with
    | false => rfl
    | true =>
      rw [if_pos rfl, if_pos rfl, Dev.drawAll_words _ _ _ hl, hp.2 l hl]
  generalize (if dr = true then w.1.drawAll f else ([], w.1)) = x at hregs hword ⊢
  have hput := laneWrite_mem i f k
    ((w0.1.lanesIn f k o).map fun l => (o.vd.toNat * 512 + l, (g w0.1 f k l (w0.1.laneWord dr f l)).1)) (x.2, w.2)
    (by simpa using h)
  refine (laneEvents_regs _ _ _ _ _).2.2 i.cyc _ _ _ (by
    dsimp only
    omega) ?_
  have he : ((x.2.lanesIn f k o).map fun l => (l, g x.2 f k l (nth (x.1.getD l []) 0))).map
      (fun r => (o.vd.toNat * 512 + r.1, r.2.1)) =
      (w0.1.lanesIn f k o).map fun l => (o.vd.toNat * 512 + l, (g w0.1 f k l (w0.1.laneWord dr f l)).1) := by
    rw [List.map_map, hregs.lanesIn]
    apply List.map_congr_left
    intro l hl
    rw [Function.comp, hg w0.1 x.2 hregs, hword l (lanesIn_lt _ _ _ _ _ hl)]
  rw [he]
  exact hput

/-- The row of an op that computes vd lane by lane: the results of every facet of the site are on their way. -/
theorem Dev.laneRow_map (d : Dev) (s : Site) (o : LaneOp) (opc : Nat) (dr : Bool)
    (g : Dev → Nat → Nat → Nat → Nat → Nat × Ev) (G : Issue → LaneOp → Nat → Work → Work)
    (hG : G (d.issueOf s.c) o = mapOn (d.issueOf s.c) o dr g) (hok : d.siteOk s = true)
    (hg : ∀ (d e : Dev), d.SameRegs e → ∀ f k l u, g e f k l u = g d f k l u) (w0 : Work)
    (hw : w0 = landRanks (d.issueOf s.c) (d.issueOf s.c).cyc 0 3 (d.settle s.c.h.val s.c.n.val (d.issueOf s.c).cyc, {})) :
    ∀ f ∈ siteFacets s, w0.1.lanesIn f (thread (d.issueOf s.c) o.pin o.pctx.toNat) o ≠ [] →
      Delayed.mk ((d.issueOf s.c).cyc + 16) (.lane f (thread (d.issueOf s.c) o.pin o.pctx.toNat) 0
        ((w0.1.lanesIn f (thread (d.issueOf s.c) o.pin o.pctx.toNat) o).map fun l =>
          (o.vd.toNat * 512 + l, (g w0.1 f (thread (d.issueOf s.c) o.pin o.pctx.toNat) l (w0.1.laneWord dr f l)).1)) []) ∈
        ((d.laneRow s o opc G).ctx s.c.h.val s.c.n.val).inflight := by
  intro f hf ha
  exact d.laneRow_each s o opc G _ (fun f => w0.1.lanesIn f (thread (d.issueOf s.c) o.pin o.pctx.toNat) o ≠ [])
    hok (hG ▸ mapOn_fn _ _ _ _) (fun _ => by
      dsimp only
      omega) w0 hw (fun f w hp h => hG ▸ mapOn_put _ o dr g hg w0 w f hp h) f hf ha

end Sys2Proof.Machine
end

