-- ==== Sys2Proof/Laws/PerInstr.lean ====
section
/-! SUPPORT. Facts about every command as syntax, one lemma for each constructor. -/

namespace Sys2Proof.Laws

namespace WellFormedDecided

/-- The check decides whether a command is well formed, and refuses by answering false. -/
def Statement (i : Instr) : Prop := (WellFormed i ↔ i.wf = true) ∧ (¬ WellFormed i ↔ i.wf = false)

/-- The statement from the check alone. -/
theorem all (i : Instr) : Statement i := by unfold Statement WellFormed; cases i.wf <;> simp

theorem bundleIssue (c : CtxId) (secded : Bool) (sc : StageErrs) : Statement (.bundleIssue c secded sc) := all _
theorem hinge (c : CtxId) : Statement (.hinge c) := all _
theorem closedHingePad (c : CtxId) : Statement (.closedHingePad c) := all _
theorem openHingeAlign (c : CtxId) : Statement (.openHingeAlign c) := all _
theorem hingeBound (c : CtxId) : Statement (.hingeBound c) := all _
theorem halt (c : CtxId) : Statement (.halt c) := all _
theorem spanFullStall (c : CtxId) : Statement (.spanFullStall c) := all _
theorem spanTokenArrive (h : Hemi) : Statement (.spanTokenArrive h) := all _
theorem spanFenceWait (c : CtxId) : Statement (.spanFenceWait c) := all _
theorem spanFencePass (c : CtxId) : Statement (.spanFencePass c) := all _
theorem spanLate (c : CtxId) : Statement (.spanLate c) := all _
theorem spanWait (c : CtxId) : Statement (.spanWait c) := all _
theorem fillWait (c : CtxId) : Statement (.fillWait c) := all _
theorem streamBundleLand (c : CtxId) : Statement (.streamBundleLand c) := all _
theorem mma (s : Site) (o : MmaOp) : Statement (.mma s o) := all _
theorem prismOrderStall (c : CtxId) (f : FacetN) : Statement (.prismOrderStall c f) := all _
theorem productLand (c : CtxId) : Statement (.productLand c) := all _
theorem drain (s : Site) (o : DrainOp) : Statement (.drain s o) := all _
theorem drainRowWrite (c : CtxId) : Statement (.drainRowWrite c) := all _
theorem pcfg (s : Site) (o : PcfgOp) : Statement (.pcfg s o) := all _
theorem pvld (s : Site) (o : PvldOp) : Statement (.pvld s o) := all _
theorem add (s : Site) (o : LaneOp) : Statement (.add s o) := all _
theorem sub (s : Site) (o : LaneOp) : Statement (.sub s o) := all _
theorem mul (s : Site) (o : LaneOp) : Statement (.mul s o) := all _
theorem fma (s : Site) (o : LaneOp) : Statement (.fma s o) := all _
theorem laneMin (s : Site) (o : LaneOp) : Statement (.laneMin s o) := all _
theorem laneMax (s : Site) (o : LaneOp) : Statement (.laneMax s o) := all _
theorem neg (s : Site) (o : LaneOp) : Statement (.neg s o) := all _
theorem laneAnd (s : Site) (o : LaneOp) : Statement (.laneAnd s o) := all _
theorem laneOr (s : Site) (o : LaneOp) : Statement (.laneOr s o) := all _
theorem laneXor (s : Site) (o : LaneOp) : Statement (.laneXor s o) := all _
theorem shl (s : Site) (o : LaneOp) : Statement (.shl s o) := all _
theorem shr (s : Site) (o : LaneOp) : Statement (.shr s o) := all _
theorem sel (s : Site) (o : LaneOp) : Statement (.sel s o) := all _
theorem cmp (s : Site) (o : LaneOp) : Statement (.cmp s o) := all _
theorem plog (s : Site) (o : LaneOp) : Statement (.plog s o) := all _
theorem movi (s : Site) (o : LaneOp) : Statement (.movi s o) := all _
theorem laneid (s : Site) (o : LaneOp) : Statement (.laneid s o) := all _
theorem cvt (s : Site) (o : LaneOp) : Statement (.cvt s o) := all _
theorem sfu (s : Site) (o : LaneOp) : Statement (.sfu s o) := all _
theorem red (s : Site) (o : LaneOp) : Statement (.red s o) := all _
theorem shuf (s : Site) (o : LaneOp) : Statement (.shuf s o) := all _
theorem rand (s : Site) (o : LaneOp) : Statement (.rand s o) := all _
theorem topk (s : Site) (o : LaneOp) : Statement (.topk s o) := all _
theorem disp (s : Site) (o : LaneOp) : Statement (.disp s o) := all _
theorem dclr (s : Site) (o : LaneOp) : Statement (.dclr s o) := all _
theorem cset (s : Site) (o : LaneOp) : Statement (.cset s o) := all _
theorem cidx (s : Site) (o : LaneOp) : Statement (.cidx s o) := all _
theorem cflag (s : Site) (o : LaneOp) : Statement (.cflag s o) := all _
theorem conditionWrite (c : CtxId) : Statement (.conditionWrite c) := all _
theorem ldv (s : Site) (o : LsOp) : Statement (.ldv s o) := all _
theorem stv (s : Site) (o : LsOp) : Statement (.stv s o) := all _
theorem ldb (s : Site) (o : LsOp) : Statement (.ldb s o) := all _
theorem amov (s : Site) (o : AregOp) : Statement (.amov s o) := all _
theorem aadd (s : Site) (o : AregOp) : Statement (.aadd s o) := all _
theorem amul (s : Site) (o : AregOp) : Statement (.amul s o) := all _
theorem afromv (s : Site) (o : AfromvOp) : Statement (.afromv s o) := all _
theorem stdc (s : Site) (o : StdcOp) : Statement (.stdc s o) := all _
theorem xld (s : Site) (o : XldOp) (sc : StageErrs) : Statement (.xld s o sc) := all _
theorem xst (s : Site) (o : XldOp) : Statement (.xst s o) := all _
theorem move (s : Site) (o : MoveOp) : Statement (.move s o) := all _
theorem fill (s : Site) (o : FillOp) : Statement (.fill s o) := all _
theorem wcfg (s : Site) (o : WcfgOp) : Statement (.wcfg s o) := all _
theorem wedge (s : Site) (o : WedgeOp) : Statement (.wedge s o) := all _
theorem wedgePassReady (f : FacetN) : Statement (.wedgePassReady f) := all _
theorem box (s : Site) (d : BitVec 3) : Statement (.box s d) := all _
theorem pfs (c : CtxId) (o : PfsOp) (sc : StageErrs) : Statement (.pfs c o sc) := all _
theorem xfer (c : CtxId) (o : XferOp) (sc : StageErrs) : Statement (.xfer c o sc) := all _
theorem gather (c : CtxId) (o : GatherOp) (sc : StageErrs) : Statement (.gather c o sc) := all _
theorem scatter (c : CtxId) (o : GatherOp) (sc : StageErrs) : Statement (.scatter c o sc) := all _
theorem stream (c : CtxId) (o : StreamOp) : Statement (.stream c o) := all _
theorem dfence (c : CtxId) (o : DfenceOp) : Statement (.dfence c o) := all _
theorem dfenceRelease (c : CtxId) : Statement (.dfenceRelease c) := all _
theorem tbset (c : CtxId) (o : TbsetOp) : Statement (.tbset c o) := all _
theorem sdrop (c : CtxId) (o : PfsOp) : Statement (.sdrop c o) := all _
theorem requestComplete (c : CtxId) (tag : BitVec 6) : Statement (.requestComplete c tag) := all _
theorem dmaAccess (f : FacetN) : Statement (.dmaAccess f) := all _
theorem rscat (c : CtxId) (o : BarrovOp) : Statement (.rscat c o) := all _
theorem ared (c : CtxId) (o : BarrovOp) : Statement (.ared c o) := all _
theorem agath (c : CtxId) (o : BarrovOp) : Statement (.agath c o) := all _
theorem bcast (c : CtxId) (o : BarrovOp) : Statement (.bcast c o) := all _
theorem a2a (c : CtxId) (o : BarrovOp) : Statement (.a2a c o) := all _
theorem itake (c : CtxId) (o : ItakeOp) : Statement (.itake c o) := all _
theorem irel (c : CtxId) (o : IrelOp) : Statement (.irel c o) := all _
theorem iroi (c : CtxId) (o : IroiOp) : Statement (.iroi c o) := all _
theorem dhaltReq (c : CtxId) : Statement (.dhaltReq c) := all _
theorem breakpointHit (c : CtxId) : Statement (.breakpointHit c) := all _
theorem stepBundle (c : CtxId) : Statement (.stepBundle c) := all _
theorem resume (c : CtxId) : Statement (.resume c) := all _
theorem start (c : CtxId) : Statement (.start c) := all _
theorem sqTail (fn : FnN) (w : BellWrite) : Statement (.sqTail fn w) := all _
theorem cqHead (fn : FnN) (w : BellWrite) : Statement (.cqHead fn w) := all _
theorem commandFetch (entry : List Byte) (buf : List Byte) : Statement (.commandFetch entry buf) := all _
theorem interimCompletion (q : QueueN) (cid : BitVec 32) : Statement (.interimCompletion q cid) := all _
theorem msixAggregateTimer (q : QueueN) : Statement (.msixAggregateTimer q) := all _
theorem bar4Access (o : Bar4Op) : Statement (.bar4Access o) := all _
theorem configRequest (vfs : Option FnN) : Statement (.configRequest vfs) := all _
theorem flr (fn : FnN) : Statement (.flr fn) := all _
theorem queueCreate (q : QueueN) : Statement (.queueCreate q) := all _
theorem queueDelete (q : QueueN) : Statement (.queueDelete q) := all _
theorem queueArb (q : QueueN) : Statement (.queueArb q) := all _
theorem evqSet (q : QueueN) : Statement (.evqSet q) := all _
theorem vfSet (q : QueueN) : Statement (.vfSet q) := all _
theorem identify (q : QueueN) : Statement (.identify q) := all _
theorem loadProgram (q : QueueN) (images : List (List Byte)) : Statement (.loadProgram q images) := all _
theorem startProgram (q : QueueN) : Statement (.startProgram q) := all _
theorem clearTfault (q : QueueN) : Statement (.clearTfault q) := all _
theorem kernelRun (q : QueueN) : Statement (.kernelRun q) := all _
theorem nevConfig (q : QueueN) : Statement (.nevConfig q) := all _
theorem nevClear (q : QueueN) : Statement (.nevClear q) := all _
theorem rngSeed (q : QueueN) : Statement (.rngSeed q) := all _
theorem memScrubCfg (q : QueueN) : Statement (.memScrubCfg q) := all _
theorem farWindow (q : QueueN) : Statement (.farWindow q) := all _
theorem stackRepair (q : QueueN) : Statement (.stackRepair q) := all _
theorem stackRepairDone (x : Fin 8) (pc : Fin 32) : Statement (.stackRepairDone x pc) := all _
theorem memClearErr (q : QueueN) : Statement (.memClearErr q) := all _
theorem rimRead (addr : BitVec 48) (errs : SymErrs) : Statement (.rimRead addr errs) := all _
theorem rimPartialWrite (addr : BitVec 48) (bytes : List Byte) (errs : SymErrs) : Statement (.rimPartialWrite addr bytes errs) := all _
theorem scrubRead (x : Fin 8) (pc : Fin 32) (errs : SymErrs) : Statement (.scrubRead x pc errs) := all _
theorem farReadFail (c : CtxId) (tag : BitVec 6) (why : FarFail) : Statement (.farReadFail c tag why) := all _
theorem portCfg (q : QueueN) : Statement (.portCfg q) := all _
theorem flowCfg (q : QueueN) : Statement (.flowCfg q) := all _
theorem distMeasure (q : QueueN) (meas : List PdelayMeas) : Statement (.distMeasure q meas) := all _
theorem endpoint (q : QueueN) : Statement (.endpoint q) := all _
theorem peerSet (q : QueueN) : Statement (.peerSet q) := all _
theorem groupCreate (q : QueueN) : Statement (.groupCreate q) := all _
theorem groupReset (q : QueueN) : Statement (.groupReset q) := all _
theorem qpConnect (q : QueueN) : Statement (.qpConnect q) := all _
theorem layout (q : QueueN) : Statement (.layout q) := all _
theorem parity (q : QueueN) : Statement (.parity q) := all _
theorem data (f : BarrovFrame) : Statement (.data f) := all _
theorem ack (f : BarrovFrame) : Statement (.ack f) := all _
theorem nak (f : BarrovFrame) : Statement (.nak f) := all _
theorem rnr (f : BarrovFrame) : Statement (.rnr f) := all _
theorem rdv (f : BarrovFrame) : Statement (.rdv f) := all _
theorem abort (f : BarrovFrame) : Statement (.abort f) := all _
theorem farReq (f : BarrovFrame) : Statement (.farReq f) := all _
theorem farRsp (f : BarrovFrame) : Statement (.farRsp f) := all _
theorem rtoTimeout (s : StripeId) : Statement (.rtoTimeout s) := all _
theorem rnrRetryTimer (s : StripeId) : Statement (.rnrRetryTimer s) := all _
theorem rendezvousTimeout (g : BitVec 12) (epoch : BitVec 32) : Statement (.rendezvousTimeout g epoch) := all _
theorem optmoTimeout (g : BitVec 12) (epoch : BitVec 32) : Statement (.optmoTimeout g epoch) := all _
theorem barrovOpComplete (g : BitVec 12) (epoch : BitVec 32) : Statement (.barrovOpComplete g epoch) := all _
theorem frameReceive (i : FrameInfo) : Statement (.frameReceive i) := all _
theorem pfcPause (port : PortN) (prio : Fin 8) (e : PfcEvent) : Statement (.pfcPause port prio e) := all _
theorem pfcWd (port : PortN) (prio : Fin 8) : Statement (.pfcWd port prio) := all _
theorem pfcWdEnd (port : PortN) (prio : Fin 8) : Statement (.pfcWdEnd port prio) := all _
theorem cnp (t : RateTarget) : Statement (.cnp t) := all _
theorem rateIncreaseTimer (t : RateTarget) : Statement (.rateIncreaseTimer t) := all _
theorem rekey (port : PortN) : Statement (.rekey port) := all _
theorem associationExhausted (port : PortN) : Statement (.associationExhausted port) := all _
theorem linkDown (port : PortN) : Statement (.linkDown port) := all _
theorem linkUp (port : PortN) (m : PdelayMeas) : Statement (.linkUp port m) := all _
theorem qpError (i : Fin 65536) : Statement (.qpError i) := all _
theorem ptpSync (offset : Int) (adj : Int) : Statement (.ptpSync offset adj) := all _
theorem ptpHoldover : Statement (.ptpHoldover) := all _
theorem ingScratch (q : QueueN) : Statement (.ingScratch q) := all _
theorem ingRingCfg (q : QueueN) : Statement (.ingRingCfg q) := all _
theorem ingShard (q : QueueN) : Statement (.ingShard q) := all _
theorem ingRestore (q : QueueN) : Statement (.ingRestore q) := all _
theorem ingStop (q : QueueN) : Statement (.ingStop q) := all _
theorem ingDictLoad (q : QueueN) : Statement (.ingDictLoad q) := all _
theorem ingBudget (q : QueueN) : Statement (.ingBudget q) := all _
theorem ingQuota (q : QueueN) : Statement (.ingQuota q) := all _
theorem sampleStart (i : SampleId) : Statement (.sampleStart i) := all _
theorem sampleFetched (i : SampleId) (object : List Byte) : Statement (.sampleFetched i object) := all _
theorem headerParse (i : SampleId) : Statement (.headerParse i) := all _
theorem sampleComplete (i : SampleId) (engineUs : Nat) : Statement (.sampleComplete i engineUs) := all _
theorem budgetExpiry (i : SampleId) : Statement (.budgetExpiry i) := all _
theorem fetchFail (i : SampleId) : Statement (.fetchFail i) := all _
theorem rowWritten (p : PartN) (ring : Fin 4) : Statement (.rowWritten p ring) := all _
theorem logFull (p : PartN) (ring : Fin 4) : Statement (.logFull p ring) := all _
theorem roiListRead (p : PartN) (ring : Fin 4) : Statement (.roiListRead p ring) := all _
theorem replayRoiTimeout (p : PartN) (ring : Fin 4) : Statement (.replayRoiTimeout p ring) := all _
theorem attest (q : QueueN) (flashOk : Bool) : Statement (.attest q flashOk) := all _
theorem attCert (q : QueueN) : Statement (.attCert q) := all _
theorem reportExpiry (i : Fin 16) : Statement (.reportExpiry i) := all _
theorem sessionOpen (q : QueueN) : Statement (.sessionOpen q) := all _
theorem sessionClose (q : QueueN) : Statement (.sessionClose q) := all _
theorem ownerSet (q : QueueN) : Statement (.ownerSet q) := all _
theorem keyInstall (q : QueueN) : Statement (.keyInstall q) := all _
theorem keyErase (q : QueueN) : Statement (.keyErase q) := all _
theorem policySet (q : QueueN) : Statement (.policySet q) := all _
theorem sealRange (q : QueueN) : Statement (.sealRange q) := all _
theorem unsealRange (q : QueueN) : Statement (.unsealRange q) := all _
theorem copyOut (q : QueueN) : Statement (.copyOut q) := all _
theorem fwUpdate (q : QueueN) : Statement (.fwUpdate q) := all _
theorem svnCommit (q : QueueN) : Statement (.svnCommit q) := all _
theorem rootRevoke (q : QueueN) : Statement (.rootRevoke q) := all _
theorem killFuse (q : QueueN) : Statement (.killFuse q) := all _
theorem debugUnlock (q : QueueN) : Statement (.debugUnlock q) := all _
theorem debugLock (q : QueueN) : Statement (.debugLock q) := all _
theorem lockoutExpiry (k : Fin 257) : Statement (.lockoutExpiry k) := all _
theorem partitionCreate (q : QueueN) : Statement (.partitionCreate q) := all _
theorem partitionDestroy (q : QueueN) : Statement (.partitionDestroy q) := all _
theorem sectorZeroised (g : Fin 16) : Statement (.sectorZeroised g) := all _
theorem prtSlice (q : QueueN) : Statement (.prtSlice q) := all _
theorem prtPreempt (q : QueueN) : Statement (.prtPreempt q) := all _
theorem prtWays (q : QueueN) : Statement (.prtWays q) := all _
theorem partitionReset (q : QueueN) : Statement (.partitionReset q) := all _
theorem sliceEnd (p : PartN) : Statement (.sliceEnd p) := all _
theorem preemptDrainTimeout (p : PartN) : Statement (.preemptDrainTimeout p) := all _
theorem drainComplete (p : PartN) (overrunUs : Nat) : Statement (.drainComplete p overrunUs) := all _
theorem saveComplete (p : PartN) : Statement (.saveComplete p) := all _
theorem restoreComplete (p : PartN) (badSectors : BitVec 16) : Statement (.restoreComplete p badSectors) := all _
theorem psvConfig (q : QueueN) : Statement (.psvConfig q) := all _
theorem psvPlan (q : QueueN) : Statement (.psvPlan q) := all _
theorem psvSave (q : QueueN) : Statement (.psvSave q) := all _
theorem psvFailNote (q : QueueN) : Statement (.psvFailNote q) := all _
theorem psvRestore (q : QueueN) (images : List (List Byte)) (saved : SavedShape) (sources : List ShardSource) : Statement (.psvRestore q images saved sources) := all _
theorem savePointReached (c : CtxId) : Statement (.savePointReached c) := all _
theorem savePointTimeout (p : PartN) : Statement (.savePointTimeout p) := all _
theorem snapshotDone (p : PartN) (costUs : Nat) : Statement (.snapshotDone p costUs) := all _
theorem partnerPhaseDone (p : PartN) (divergent : List Nat) : Statement (.partnerPhaseDone p divergent) := all _
theorem flashPhaseDone (p : PartN) : Statement (.flashPhaseDone p) := all _
theorem sharedPhaseDone (p : PartN) : Statement (.sharedPhaseDone p) := all _
theorem saveAbandoned (p : PartN) : Statement (.saveAbandoned p) := all _
theorem deepTier (p : PartN) (grp : BitVec 8) (t : BitVec 64) : Statement (.deepTier p grp t) := all _
theorem pmuProfile (q : QueueN) : Statement (.pmuProfile q) := all _
theorem pmuSample (q : QueueN) : Statement (.pmuSample q) := all _
theorem pmuBw (q : QueueN) : Statement (.pmuBw q) := all _
theorem pmuSnapshot (q : QueueN) : Statement (.pmuSnapshot q) := all _
theorem counterWrapSample (s : PmuSlot) (excess : Nat) : Statement (.counterWrapSample s excess) := all _
theorem sampleDelivery (s : PmuSlot) : Statement (.sampleDelivery s) := all _
theorem bwWindowEnd (n : Fin 49) : Statement (.bwWindowEnd n) := all _
theorem snapshotFire : Statement (.snapshotFire) := all _
theorem pmuSnapAt (t : BitVec 64) : Statement (.pmuSnapAt t) := all _
theorem freeze (on : Bool) : Statement (.freeze on) := all _
theorem clearCounts : Statement (.clearCounts) := all _
theorem rtInfo (q : QueueN) : Statement (.rtInfo q) := all _
theorem wdogCfg (q : QueueN) : Statement (.wdogCfg q) := all _
theorem flfCarve (q : QueueN) : Statement (.flfCarve q) := all _
theorem rtCore (core : Fin 16) (running : List (QueueN × BitVec 32)) : Statement (.rtCore core running) := all _
theorem rtHang : Statement (.rtHang) := all _
theorem rtUe (kind : Fin 4) : Statement (.rtUe kind) := all _
theorem codeDigestCheck (ok : Bool) : Statement (.codeDigestCheck ok) := all _
theorem govPowerCap (q : QueueN) : Statement (.govPowerCap q) := all _
theorem govCeilSet (q : QueueN) : Statement (.govCeilSet q) := all _
theorem govRampCfg (q : QueueN) : Statement (.govRampCfg q) := all _
theorem govBrakeCfg (q : QueueN) : Statement (.govBrakeCfg q) := all _
theorem govThermCfg (q : QueueN) : Statement (.govThermCfg q) := all _
theorem clkGate (q : QueueN) : Statement (.clkGate q) := all _
theorem tclkLimit (q : QueueN) : Statement (.tclkLimit q) := all _
theorem tbConfig (q : QueueN) : Statement (.tbConfig q) := all _
theorem governorTick (r : GovReading) : Statement (.governorTick r) := all _
theorem tpllStep (h : Hemi) : Statement (.tpllStep h) := all _
theorem brake : Statement (.brake) := all _
theorem brakeRelease : Statement (.brakeRelease) := all _
theorem brakeChatter : Statement (.brakeChatter) := all _
theorem chatterRelease : Statement (.chatterRelease) := all _
theorem brakeHeldSecond : Statement (.brakeHeldSecond) := all _
theorem throttle (die : ThermSource) : Statement (.throttle die) := all _
theorem throttleRecover (die : ThermSource) : Statement (.throttleRecover die) := all _
theorem thermtrip : Statement (.thermtrip) := all _
theorem inputRange (mv : BitVec 16) : Statement (.inputRange mv) := all _
theorem inputUndervoltage : Statement (.inputUndervoltage) := all _
theorem inputOvervoltage : Statement (.inputOvervoltage) := all _
theorem railFail : Statement (.railFail) := all _
theorem refclk25Qualify : Statement (.refclk25Qualify) := all _
theorem refWindow (r : Fin 4) (count : Nat) : Statement (.refWindow r count) := all _
theorem pllLockWindow (n : Fin 13) (count : Nat) : Statement (.pllLockWindow n count) := all _
theorem clkRef (r : Fin 4) : Statement (.clkRef r) := all _
theorem clkCoast (n : Fin 13) : Statement (.clkCoast n) := all _
theorem clkLock (n : Fin 13) : Statement (.clkLock n) := all _
theorem clkGateOff (mask : BitVec 128) : Statement (.clkGateOff mask) := all _
theorem clkGateOn (mask : BitVec 128) : Statement (.clkGateOn mask) := all _
theorem clkTbStep (v : BitVec 32) : Statement (.clkTbStep v) := all _
theorem clkTbAdj (v : BitVec 32) : Statement (.clkTbAdj v) := all _
theorem tbStepAbsorbed : Statement (.tbStepAbsorbed) := all _
theorem coldReset : Statement (.coldReset) := all _
theorem perstFall : Statement (.perstFall) := all _
theorem perstRelease : Statement (.perstRelease) := all _
theorem hotReset : Statement (.hotReset) := all _
theorem warm (v : BitVec 32) : Statement (.warm v) := all _
theorem warmResetEntry : Statement (.warmResetEntry) := all _
theorem bootStageEnd (e : StageEnd) : Statement (.bootStageEnd e) := all _
theorem deadline : Statement (.deadline) := all _
theorem stackTestEnd (x : Fin 8) (failed : List (BitVec 27)) : Statement (.stackTestEnd x failed) := all _
theorem go (v : BitVec 32) : Statement (.go v) := all _
theorem recoveryLoadDone (image : List Byte) (flashOk : Bool) : Statement (.recoveryLoadDone image flashOk) := all _
theorem bootCfg (v : BitVec 32) : Statement (.bootCfg v) := all _
theorem registerWrite (by_ : Writer) (size : Nat) (v : BitVec 64) : Statement (.registerWrite by_ size v) := all _
theorem sealComplete (q : QueueN) (cid : BitVec 32) : Statement (.sealComplete q cid) := all _
theorem nevRingRecordLand (p : PartN) : Statement (.nevRingRecordLand p) := all _
theorem sampleRecordLand (p : PartN) : Statement (.sampleRecordLand p) := all _
theorem inputRangeExit (mv : BitVec 16) : Statement (.inputRangeExit mv) := all _
theorem peerDelayTimeout (port : PortN) : Statement (.peerDelayTimeout port) := all _
theorem qpRetryTimeout (i : Fin 65536) : Statement (.qpRetryTimeout i) := all _
theorem pldmRequest (r : MgmtReq) : Statement (.pldmRequest r) := all _

end WellFormedDecided

end Sys2Proof.Laws
end

