-- ==== Sys2Proof/Tests/Slice0.lean ====
section
/-! SUPPORT. The model's own tests: values that meet the premises of every statement, ill-formed commands, the spec's
worked values and a few commands on a small machine. -/

open Sys2Proof Sys2Proof.Machine

namespace Sys2Proof.Tests

set_option Elab.async false

/-! ## Operands and states the tests are about -/

/-- A local address at an offset. -/
def la (off : Nat) : LA := { off := BitVec.ofNat 21 off, ar := 0, rm := false, pi := false }

/-- A global address. -/
def ga (off : Nat) : GA := { off := BitVec.ofNat 48 off, br := 0, bv := false }

/-- A lane op that does nothing out of the ordinary: FP32, register 3 of registers 1 and 2, unguarded. -/
def lop : LaneOp where
  pin := false
  pctx := 0
  vd := 3
  va := 1
  vb := 2
  vc := 4
  ge := false
  gn := false
  pg := 0
  pd := 1
  lt := 0
  bi := false
  imm := 0
  fo := 0
  rnd := 0
  sat := false
  cn := 2
  sub := 0
  m1 := 0
  pol := false

/-- A load or a store of 32-bit elements. -/
def lsop : LsOp where
  pin := false
  pctx := 0
  vr := 1
  esz := 2
  lg := 0
  hi := false
  ge := false
  gn := false
  pg := 0
  la := la 0x400

/-- An 8-bit integer MMA that clears set A. -/
def mmaop : MmaOp where
  fa := 9
  fb := 9
  acc := false
  clr := true
  sp := false
  bs := false
  pdi := 0
  drn := false
  ddi := 0
  laA := la 0
  laB := la 0x1000

/-- A copy of 4 granules on tag 5. -/
def xldop : XldOp where
  ga := 1
  gpi := false
  la := la 0x800
  len := 256
  tag := 5
  alloc := false

/-- A Barrov operand on tag 7 of group 3. -/
def barop : BarrovOp where
  tag := 7
  grp := 3
  dtype := 0
  rop := 0
  src := ga 0
  dst := ga 0x10000
  len := 4096
  spi := false
  dpi := false
  slot := 0
  root := 0

/-- The stream context 0 of hemisphere 0. -/
def c0 : CtxId := ⟨0, 0⟩

/-- Facet 3 alone of sector slot 0 of hemisphere 0. -/
def site : Site := ⟨c0, 0, 8⟩

/-- A stream context of partition 0 that runs, at cycle 100. -/
def runCtx : Ctx := { Ctx.absent with state := .running, bidx := 40, icount := 10, cyc := 100 }

/-- A device whose partition 0 is resident on sector 0 with a box unit and the sector's whole share, and holds bank 0 of
instruction store. -/
def partDev : Dev :=
  (((Dev.reset.setReg (rPrtCfg 0) (2 ^ 63 + 2 ^ 52 + 48 * 2 ^ 44 + 1)).setReg (rPrtState 0) (2 ^ 27)).setReg rPrtSectRes
    0x80).setReg (rSeqIsbank 0) 0xFFFFFFF0

/-- The same with its context running. -/
def runDev : Dev := partDev.setCtx 0 0 runCtx

/-- The running device with its context changed. -/
def ctxDev (f : Ctx → Ctx) : Dev := runDev.modCtx 0 0 f

/-- A hinge entry of table 1, with JOIN at 90 and 100 cycles of which 30 have passed. -/
def hent : HingeEntry where
  isOpen := false
  align16 := false
  bflt := false
  inbr := true
  sel := 0
  phase := 7
  last := 80
  join := 90
  htab := 1
  len := 100
  elapsed := 30
  bidx := 40
  begun := true

/-- A device whose core debug port is open. -/
def dbg (d : Dev) : Dev := d.setReg rCusStatus (2 ^ 62)

/-- A copy of one granule from rim memory to facet 3, on tag 5. -/
def copyReq : Request where
  id := 4
  tag := 5
  kind := .copy
  pieces := [{ src := 0, dsts := [0x100000600400], len := 64, rd := 0, got := [], span := false }]
  cut := true
  allocate := false
  failed := false
  bidx := 40
  list := none

/-- Parameters (size and value) as a command entry lays them out, each aligned to its size. -/
def lay (ps : List (Nat × Nat)) : List Byte :=
  ps.foldl (fun l e => l ++ List.replicate (roundUp l.length e.1 - l.length) 0 ++ leBytes e.1 e.2) []

/-- A command of queue 2: opcode, partition, profile, parameters in the entry and buffer; its CID is 0x77. -/
def command (opc part profile : Nat) (ps : List (Nat × Nat)) (buf : List Byte := []) : FetchedCmd where
  seq := 6
  q := 2
  sqhd := 1
  entry := entryOf (leBytes 4 opc ++ leBytes 4 0x77 ++ leBytes 1 part ++ leBytes 1 profile ++ leBytes 2 0 ++
    leBytes 4 buf.length ++ List.replicate 16 0 ++ lay ps)
  buf
  started := false
  interim := false
  mute := false

/-- Partition 0's device with a fetched command. -/
def got (d : Dev) (c : FetchedCmd) : Dev := { d with hq := { d.hq with fetched := [c] } }

/-- A device as it is once its command has started. -/
def went (d : Dev) (c : FetchedCmd) : Dev := (got d c).setFetched (began c)

/-- A machine with a device and nothing waiting. -/
def on (d : Dev) : State := ⟨d, []⟩

/-- Partition 0's device with its context idle. -/
def idleDev : Dev := partDev.setCtx 0 0 { Ctx.absent with state := .idle }

/-- An image of one bundle, a HALT with its check bits, at index 0. -/
def haltImage : List Byte :=
  leBytes 4 0x53474E31 ++ leBytes 2 1 ++ leBytes 2 1 ++ leBytes 2 0 ++ leBytes 2 1 ++ List.replicate 28 0 ++ leBytes 8 512 ++
    List.replicate 464 0 ++ leBytes 512 (2 ^ 4033 + 2 ^ 41 + 21823)

/-- A device with its system controller changed. -/
def sysDev (d : Dev) (f : Sysctl → Sysctl) : Dev := { d with sys := f d.sys }

/-! ## How the witnesses are shown -/

/-- A command that is not critical is accepted where these decidable facts hold. -/
theorem accepted_plain {d : Dev} {q : QueueN} {opc : Nat} {spec : List PKind} {c : FetchedCmd}
    (h : d.startable q.val = some c ∧ c.opc = opc ∧ d.flag rHqDevstat 30 = false ∧
      (c.part < 16 → d.partFatal c.part = true → runsWhenFatal opc = true) ∧ (c.params spec).ok = true ∧ c.crit = false) :
    Accepted d q opc spec c (d.setFetched (began c)) where
  head := h.1
  opcode := h.2.1
  device := h.2.2.1
  partition := h.2.2.2.1
  params := h.2.2.2.2.1
  plain := fun _ => rfl
  signed := fun x => absurd (x.symm.trans h.2.2.2.2.2) (by decide)
  digest := fun x => absurd (x.symm.trans h.2.2.2.2.2) (by decide)

/-- No counter slot counts where none that counts is enabled. -/
theorem uncounted_of {d : Dev} (h : (d.regs.any fun e => slotCounts e.1 e.2) = false) : uncounted d := Or.inr h

/-- Requests none of which is a Barrov op. -/
theorem noBarrov_of {l : List Owned} (h : (l.all fun x => match x.r.kind with | .barrov _ _ => false | _ => true) = true) :
    ∀ x ∈ l, ∀ g ep, x.r.kind ≠ .barrov g ep := by
  intro x hx g ep hk
  have := List.all_eq_true.mp h x hx
  simp [hk] at this

/-- An answer that is the value named, and one that is the error named. -/
theorem ok_of {α β : Type} [DecidableEq β] {a : Except α β} {x : β}
    (h : (match a with | .ok y => decide (y = x) | .error _ => false) = true) : a = .ok x := by
  cases a <;> simp_all

theorem error_of {α β : Type} [DecidableEq α] {a : Except α β} {x : α}
    (h : (match a with | .ok _ => false | .error y => decide (y = x)) = true) : a = .error x := by
  cases a <;> simp_all

/-- The room of a context that idles, where it has a bound. -/
theorem room_of {o : Option Nat} {k : Nat} (h : (match o with | some r => decide (k ≤ r) | none => true) = true) :
    ∀ r, o = some r → k ≤ r := by
  intro r hr
  subst hr
  simpa using h

/-! ## Values that meet the premises of every statement -/

/-- Four facts that are decided together, before the rest of a conjunction. -/
theorem more4 {p q r s t : Prop} (h : p ∧ q ∧ r ∧ s) (k : t) : p ∧ q ∧ r ∧ s ∧ t := ⟨h.1, h.2.1, h.2.2.1, h.2.2.2, k⟩

theorem test_meets_LaneArithmeticResults :
  ∃ (st : State) (s : Site), st.dev.sys.railsUp = true ∧ st.dev.siteOk s = true :=
  ⟨on runDev, site, by decide +kernel⟩

theorem test_meets_LaneWordResults :
  ∃ (st : State) (s : Site), st.dev.sys.railsUp = true ∧ st.dev.siteOk s = true :=
  ⟨on runDev, site, by decide +kernel⟩

theorem test_meets_LaneConversionsAndFunctions :
  (∃ (st : State) (s : Site) (o : LaneOp), st.dev.sys.railsUp = true ∧ st.dev.siteOk s = true ∧ o.sub.toNat < 2) ∧
  (∃ (st : State) (s : Site) (o : LaneOp), st.dev.sys.railsUp = true ∧ st.dev.siteOk s = true ∧ o.sub.toNat < 6) ∧
  (∃ (st : State) (s : Site) (o : LaneOp), st.dev.sys.railsUp = true ∧ st.dev.siteOk s = true ∧ o.sub.toNat < 4) :=
  ⟨⟨on runDev, site, lop, by decide +kernel⟩,
    ⟨on runDev, site, lop, by decide +kernel⟩,
    ⟨on runDev, site, lop, by decide +kernel⟩⟩

theorem test_meets_LanePredicateResults :
  (∃ (st : State) (s : Site) (o : LaneOp), st.dev.sys.railsUp = true ∧ st.dev.siteOk s = true ∧ o.sub ≠ 7) ∧
  (∃ (st : State) (s : Site) (o : LaneOp), st.dev.sys.railsUp = true ∧ st.dev.siteOk s = true ∧ o.sub.toNat < 4) :=
  ⟨⟨on runDev, site, lop, by decide +kernel⟩,
    ⟨on runDev, site, lop, by decide +kernel⟩⟩

theorem test_meets_LaneListResults :
  ∃ (st : State) (s : Site), st.dev.sys.railsUp = true ∧ st.dev.siteOk s = true :=
  ⟨on runDev, site, by decide +kernel⟩

theorem test_meets_ConditionWrites :
  (∃ (st : State) (s : Site) (o : LaneOp), st.dev.sys.railsUp = true ∧ st.dev.siteOk s = true ∧ o.sub.toNat < 2) ∧
  (∃ (st : State) (s : Site) (o : LaneOp), st.dev.sys.railsUp = true ∧ st.dev.siteOk s = true ∧ o.sub = 0 ∧ ∃ f,
    (siteFacets s).head? = some f) ∧
  (∃ (st : State) (s : Site) (o : LaneOp), st.dev.sys.railsUp = true ∧ st.dev.siteOk s = true ∧ o.sub = 1) ∧
  (∃ (st : State) (s : Site) (o : LaneOp), st.dev.sys.railsUp = true ∧ st.dev.siteOk s = true ∧
   let x := st.dev.oneOp s.c 4 fun i w => siteEach s (countLane i o 0x1B) w
   ∃ (c : CtxId) (due after r m v : Nat),
   let x := st.dev.ctx c.h.val c.n.val
   let open_ : Prop := x.idles = true ∧ after = due + 1 ∧ x.cyc ≤ due ∧ (∀ r, x.idleRoom = some r → due + 1 - x.cyc ≤ r)
   let busy : Prop := x.idles = false ∧ after = due ∧ x.cyc = due
   x.inflight = [⟨due, .cond r m v⟩] ∧ (open_ ∨ busy)) :=
  ⟨⟨on runDev, site, lop, by decide +kernel⟩,
    ⟨on runDev, site, lop, by decide +kernel, by decide +kernel, by decide +kernel, 3, by decide +kernel⟩,
    ⟨on runDev, site, { lop with sub := 1 }, by decide +kernel⟩,
    ⟨on (runDev.modCtx 0 0 fun x => { x with inflight := [⟨100, .cond 15 2 2⟩] }), site, lop, by decide +kernel, by
      decide +kernel, c0, 100, 100, 15, 2, 2, by decide +kernel, Or.inr (by decide +kernel)⟩⟩

theorem test_meets_LaneOpsLeaveTheRest :
  ∃ (st : State) (s : Site) (o : LaneOp), st.dev.sys.railsUp = true ∧ (st.dev.ctx s.c.h.val s.c.n.val).inflight = [] ∧
    ∃ i, i ∈ [Instr.add s o, .sub s o, .mul s o, .fma s o, .laneMin s o, .laneMax s o, .neg s o, .laneAnd s o, .laneOr s
    o,
        .laneXor s o, .shl s o, .shr s o, .sel s o, .cmp s o, .plog s o, .movi s o, .laneid s o, .cvt s o, .sfu s o,
          .red s o,
        .shuf s o, .rand s o, .topk s o, .disp s o, .dclr s o, .cset s o, .cidx s o, .cflag s o] :=
  ⟨on runDev, site, lop, by decide +kernel, by decide +kernel, .add site lop, by decide +kernel⟩

theorem test_meets_LoadStoreResults :
  ∃ (st : State) (s : Site) (o : LsOp), st.dev.sys.railsUp = true ∧ st.dev.siteOk s = true ∧ o.lg.toNat < 3 :=
  ⟨on runDev, site, lsop, by decide +kernel⟩

theorem test_meets_AddressRegisterWrites :
  ∃ (st : State) (s : Site), st.dev.sys.railsUp = true ∧ st.dev.siteOk s = true :=
  ⟨on runDev, site, by decide +kernel⟩

theorem test_meets_CopyLaunches :
  (∃ (st : State) (s : Site) (o : XldOp), st.dev.sys.railsUp = true ∧ st.dev.siteOk s = true ∧
   let d := atIssue st.dev s.c 3
   let x := st.dev.ctx s.c.h.val s.c.n.val
   let n := if o.len = 0 then 65536 else o.len.toNat
   let loc (f : Nat) : Nat := lsView f + d.laAddr f o.la
   let far (f : Nat) : Nat := d.areg f o.ga.toNat
   ((d.ctx s.c.h.val s.c.n.val).onTag o.tag.toNat).length + (siteFacets s).length ≤ 4095 ∧ (∀ f ∈ siteFacets s,
     d.refuse x.part [⟨far f, n, false⟩, ⟨loc f, n, true⟩] = none)) ∧
  (∃ (st : State) (s : Site) (o : XldOp), st.dev.sys.railsUp = true ∧ st.dev.siteOk s = true ∧
   let d := atIssue st.dev s.c 3
   let x := st.dev.ctx s.c.h.val s.c.n.val
   let n := if o.len = 0 then 65536 else o.len.toNat
   let loc (f : Nat) : Nat := lsView f + d.laAddr f o.la
   let far (f : Nat) : Nat := d.areg f o.ga.toNat
   ((d.ctx s.c.h.val s.c.n.val).onTag o.tag.toNat).length + (siteFacets s).length ≤ 4095 ∧ (∀ f ∈ siteFacets s,
     d.refuse x.part [⟨loc f, n, false⟩, ⟨far f, n, true⟩] = none)) :=
  ⟨⟨on runDev, site, xldop, by decide +kernel, by decide +kernel, by decide +kernel, by decide +kernel⟩,
    ⟨on runDev, site, xldop, by decide +kernel, by decide +kernel, by decide +kernel, by decide +kernel⟩⟩

theorem test_meets_MoveFillConfigure :
  ∃ (st : State) (s : Site) (v : PvldOp), st.dev.sys.railsUp = true ∧ st.dev.siteOk s = true ∧ v.v ≠ 3 :=
  ⟨on runDev, site, ⟨2, true, la 0x3000⟩, by decide +kernel⟩

theorem test_meets_PrismIssues :
  (∃ (st : State) (s : Site) (o : MmaOp), st.dev.sys.railsUp = true ∧ st.dev.siteOk s = true ∧
   let i := st.dev.issueOf s.c
   noWait s (st.dev.mmaWait i o) = true) ∧
  (∃ (st : State) (s : Site) (q : DrainOp), st.dev.sys.railsUp = true ∧ st.dev.siteOk s = true ∧
   let i := st.dev.issueOf s.c
   noWait s (st.dev.drainWait i q) = true) :=
  ⟨⟨on runDev, site, mmaop, by decide +kernel, by decide +kernel, by decide +kernel⟩,
    ⟨on runDev, site, ⟨true, 2⟩, by decide +kernel, by decide +kernel, by decide +kernel⟩⟩

theorem test_meets_LandingsOfThePrismAndTheWedge :
  (∃ (st : State) (c : CtxId) (due after : Nat), st.dev.sys.railsUp = true ∧
   let x := st.dev.ctx c.h.val c.n.val
   let open_ : Prop := x.idles = true ∧ after = due + 1 ∧ x.cyc ≤ due ∧ (∀ r, x.idleRoom = some r → due + 1 - x.cyc ≤ r)
   let busy : Prop := x.idles = false ∧ after = due ∧ x.cyc = due
   ∃ (f : Nat) (set clr : Bool) (k : KStep) (l : Nat) (site : NevSite) (hs : List NevHit), intPair k.fa k.fb = true ∧
     x.inflight = [⟨due, .product f set clr [k] l site hs⟩] ∧ (open_ ∨ busy)) ∧
  (∃ (st : State) (c : CtxId) (due after : Nat), st.dev.sys.railsUp = true ∧
   let x := st.dev.ctx c.h.val c.n.val
   let open_ : Prop := x.idles = true ∧ after = due + 1 ∧ x.cyc ≤ due ∧ (∀ r, x.idleRoom = some r → due + 1 - x.cyc ≤ r)
   ∃ (j : DrainJob) (r : Nat), r < 127 ∧ bits j.flags 5 4 ≠ 1 ∧ x.inflight = [⟨due, .drainRow j r⟩] ∧ open_) ∧
  (∃ (st : State) (c : CtxId) (due after : Nat), st.dev.sys.railsUp = true ∧
   let x := st.dev.ctx c.h.val c.n.val
   let open_ : Prop := x.idles = true ∧ after = due + 1 ∧ x.cyc ≤ due ∧ (∀ r, x.idleRoom = some r → due + 1 - x.cyc ≤ r)
   let busy : Prop := x.idles = false ∧ after = due ∧ x.cyc = due
   ∃ (f : FacetN) (w : WedgeTile) (cell : WedgeCell), f.val / 128 = c.h.val ∧ (∀ n, n < 8 → n ≠ c.n.val → (st.dev.ctx
     c.h.val n).inflight = []) ∧ x.inflight = [⟨due, .wedgeReady f.val⟩] ∧ (open_ ∨ busy) ∧ st.dev.cell f.val = cell ∧
     cell.tiles = [w] ∧ w.out = []) :=
  ⟨⟨on (runDev.modCtx 0 0 fun x =>
    { x with cyc := 120, inflight := [⟨120, .product 3 true true [(⟨0, 9, 9, List.replicate 128 1, List.replicate 128 (some 2), false⟩)] 0 (⟨0, 3, 40, 0, 10, 10⟩) []⟩] }),
    c0, 120, 120, by decide +kernel, 3, true, true, ⟨0, 9, 9, List.replicate 128 1, List.replicate 128 (some 2), false⟩,
    0, (⟨0, 3, 40, 0, 10, 10⟩), [], by decide +kernel, by decide +kernel, Or.inr (by decide +kernel)⟩,
    ⟨on (runDev.modCtx 0 0 fun x =>
      { x with phase := .fillWait, inflight := [⟨120, .drainRow (⟨3, false, 0, [], true, 0x400, 128, 9, 0, List.replicate 128 0, List.replicate 128 0, List.replicate 128 0, (⟨0, 3, 40, 0, 10, 10⟩), [], []⟩) 126⟩] }),
      c0, 120, 121, by decide +kernel, ⟨3, false, 0, [], true, 0x400, 128, 9, 0, List.replicate 128 0, List.replicate
      128 0, List.replicate 128 0, (⟨0, 3, 40, 0, 10, 10⟩), [], []⟩, 126, by decide +kernel, by decide +kernel, by
      decide +kernel, ⟨by decide +kernel, by decide +kernel, by decide +kernel, room_of (by decide +kernel)⟩⟩,
    ⟨on ((runDev.modCtx 0 0 fun x => { x with cyc := 120, inflight := [⟨120, .wedgeReady 3⟩] }).setCell 3 (⟨1, 0,
      none, [(⟨[], some 120, [], 0, 0, 0, 0, 0, 0, (⟨0, 3, 40, 0, 10, 10⟩)⟩)]⟩)), c0, 120, 120, by decide +kernel, 3,
      ⟨[], some 120, [], 0, 0, 0, 0, 0, 0, (⟨0, 3, 40, 0, 10, 10⟩)⟩, ⟨1, 0, none, [(⟨[], some 120, [], 0, 0, 0, 0, 0, 0,
      (⟨0, 3, 40, 0, 10, 10⟩)⟩)]⟩, by decide +kernel, by decide +kernel, by decide +kernel, Or.inr (by decide +kernel),
      by decide +kernel⟩⟩

theorem test_meets_WedgeAndBoxSteps :
  ∃ (st : State) (s : Site) (dn : BitVec 3), st.dev.sys.railsUp = true ∧ st.dev.siteOk s = true ∧
   let d := atIssue st.dev s.c 4
   let i := st.dev.issueOf s.c
   ∃ f fs, siteFacets s = f :: fs ∧ st.dev.holdsBox i.p s.c.h.val = true ∧ d.boxJob s.c.h.val = none ∧ wdKind (d.wdesc
     f dn.toNat) ≠ 0 ∧ (∀ k, k < 4 → d.holds i.p (s.c.h.val * 8 + bits (wdAt (d.wdesc f dn.toNat) (0x10 + k) 1) 6 4) =
     true) ∧ 1 < bxSteps (d.wdesc f dn.toNat) :=
  ⟨on { runDev with wds := [(3 * 8 + 2, 2 ^ 504 + 4 * 2 ^ 224)] }, site, 2, by decide +kernel, by decide +kernel, 3,
    [], by decide +kernel⟩

theorem test_meets_BundleIssueAdvances :
  ∃ (st : State) (c : CtxId), st.dev.sys.railsUp = true ∧ st.dev.moves c = true ∧
   let h := c.h.val
   let n := c.n.val
   let x := st.dev.ctx h n
   let hd := decHeader (st.dev.bundle h n)
   (x.phase = .issuing ∨ (x.phase = .boundary ∧ st.dev.stepOneDone h n = true ∧ st.dev.atSavePoint h n = false ∧
      st.dev.atBreakpoint h n = false ∧ bundleCrc (st.dev.bundle h n) = hd.chk)) ∧ (st.dev.agentActs h n).spanBlocked
        h n hd = false :=
  ⟨on (ctxDev fun x => { x with phase := .issuing }), c0, by decide +kernel, by decide +kernel, by decide +kernel, by
    decide +kernel⟩

theorem test_meets_HingesAndHalts :
  (∃ (st : State) (c : CtxId), st.dev.sys.railsUp = true ∧ st.dev.moves c = true ∧
   let h := c.h.val
   let n := c.n.val
   let x := st.dev.ctx h n
   let hd := decHeader (st.dev.bundle h n)
   let tab := st.dev.reg (rCtxBtab h n (bits hd.hinge 15 8))
   let s := bits tab (32 * x.sample + 31) (32 * x.sample)
   x.dhalt = false ∧ x.phase = .hinge ∧ bit s 26 = true ∧ bit s 27 = false ∧ x.hinges.length < 4) ∧
  (∃ (st : State) (c : CtxId), st.dev.sys.railsUp = true ∧ st.dev.moves c = true ∧
   let h := c.h.val
   let n := c.n.val
   let x := st.dev.ctx h n
   x.dhalt = false ∧ ∃ e es, x.phase = .padClosed ∧ x.hinges = e :: es ∧ e.isOpen = false ∧ e.elapsed ≤ e.len ∧ e.len
     < 2 ^ 32) ∧
  (∃ (st : State) (c : CtxId), st.dev.sys.railsUp = true ∧ st.dev.moves c = true ∧
   let h := c.h.val
   let n := c.n.val
   let x := st.dev.ctx h n
   x.dhalt = false ∧ ∃ e es, x.phase = .padOpen ∧ x.hinges = e :: es ∧ e.isOpen = true ∧ e.align16 = true ∧ e.phase <
     16) ∧
  (∃ (st : State) (c : CtxId), st.dev.sys.railsUp = true ∧ st.dev.moves c = true ∧
   let h := c.h.val
   let n := c.n.val
   let x := st.dev.ctx h n
   x.phase = .haltDue ∧ x.requests = [] ∧ x.streams = [] ∧ x.inflight = []) ∧
  (∃ (st : State) (c : CtxId), st.dev.sys.railsUp = true ∧ st.dev.moves c = true ∧
   let h := c.h.val
   let n := c.n.val
   let x := st.dev.ctx h n
   ∃ e, x.firstBound = some e ∧ e.len - e.elapsed ≤ st.dev.waitRoom h n) :=
  ⟨⟨on ((ctxDev fun x => { x with phase := .hinge, sample := 3, hinges := [hent, hent, hent] }).setReg (rCtxBtab 0 0
    0) (2 ^ 122)), c0, by decide +kernel, by decide +kernel, by decide +kernel, by decide +kernel⟩,
    ⟨on (ctxDev fun x => { x with phase := .padClosed, hinges := [({ hent with elapsed := 100 })] }), c0, by
      decide +kernel, by decide +kernel, by decide +kernel, { hent with elapsed := 100 }, [], by decide +kernel⟩,
    ⟨on (ctxDev fun x =>
      { x with phase := .padOpen, hinges := [({ hent with isOpen := true, align16 := true, phase := 15 })] }), c0, by
      decide +kernel, by decide +kernel, by decide +kernel, { hent with isOpen := true, align16 := true, phase := 15 },
      [], by decide +kernel⟩,
    ⟨on (ctxDev fun x => { x with phase := .haltDue }), c0, by decide +kernel, by decide +kernel, by decide +kernel,
      by decide +kernel⟩,
    ⟨on (ctxDev fun x => { x with phase := .fillWait, hinges := [({ hent with isOpen := true })] }), c0, by
      decide +kernel, by decide +kernel, { hent with isOpen := true }, by decide +kernel⟩⟩

theorem test_meets_SpanTokensAndFences :
  (∃ (st : State) (c : CtxId), st.dev.sys.railsUp = true ∧
   let h := c.h.val
   let n := c.n.val
   let x := st.dev.ctx h n
   ∃ e es tok, st.dev.spanTo h = e :: es ∧ e.tokens = [tok] ∧ st.dev.ctxNum tok.part h = some n ∧ x.part = tok.part) ∧
  (∃ (st : State) (c : CtxId), st.dev.sys.railsUp = true ∧
   let h := c.h.val
   let n := c.n.val
   let x := st.dev.ctx h n
   let id := st.dev.fenceId h n
   let held := x.tokens.get id
   st.dev.moves c = true ∧ st.dev.beforeFence h n = true ∧ st.dev.filled h n = true ∧ held = 0 ∧ x.phase ≠ .fenceWait) ∧
  (∃ (st : State) (c : CtxId), st.dev.sys.railsUp = true ∧
   let h := c.h.val
   let n := c.n.val
   let x := st.dev.ctx h n
   let id := st.dev.fenceId h n
   let held := x.tokens.get id
   st.dev.moves c = true ∧ st.dev.beforeFence h n = true ∧ st.dev.filled h n = true ∧ held = 0 ∧ x.phase = .fenceWait) ∧
  (∃ (st : State) (c : CtxId), st.dev.sys.railsUp = true ∧
   let h := c.h.val
   let n := c.n.val
   let x := st.dev.ctx h n
   let id := st.dev.fenceId h n
   let held := x.tokens.get id
   st.dev.moves c = true ∧ st.dev.beforeFence h n = true ∧ st.dev.filled h n = true ∧ held ≠ 0) ∧
  (∃ (st : State) (c : CtxId), st.dev.sys.railsUp = true ∧
   let h := c.h.val
   let n := c.n.val
   let x := st.dev.ctx h n
   let id := st.dev.fenceId h n
   let held := x.tokens.get id
   st.dev.moves c = true ∧ x.phase = .fenceWait ∧ held ≠ 0) ∧
  (∃ (st : State) (c : CtxId), st.dev.sys.railsUp = true ∧
   let h := c.h.val
   let n := c.n.val
   let x := st.dev.ctx h n
   st.dev.moves c = true ∧ (x.phase = .issuing ∨ st.dev.stepOneDone h n = true) ∧ st.dev.spanBlocked h n (decHeader
     (st.dev.bundle h n)) = true) :=
  ⟨⟨on ((ctxDev fun x => { x with tokens := [(15, 14)] }).setSpanTo 0 [(⟨[(⟨⟨1, 0⟩, 0, 15, 3, 90⟩)], []⟩)]), c0, by
    decide +kernel, ⟨[(⟨⟨1, 0⟩, 0, 15, 3, 90⟩)], []⟩, [], ⟨⟨1, 0⟩, 0, 15, 3, 90⟩, by decide +kernel⟩,
    ⟨on { runDev with istore := [(40, (2 ^ 47))], fill := [(40, 1)] }, c0, by decide +kernel, by decide +kernel, by
      decide +kernel⟩,
    ⟨on { ctxDev (fun x => { x with phase := .fenceWait }) with istore := [(40, (2 ^ 47))], fill := [(40, 1)] }, c0,
      by decide +kernel, by decide +kernel, by decide +kernel⟩,
    ⟨on { ctxDev (fun x => { x with tokens := [(0, 1)] }) with istore := [(40, (2 ^ 47))], fill := [(40, 1)] }, c0, by
      decide +kernel, by decide +kernel, by decide +kernel⟩,
    ⟨on (ctxDev fun x => { x with phase := .fenceWait, tokens := [(0, 1)] }), c0, by decide +kernel, by
      decide +kernel, by decide +kernel⟩,
    ⟨on ({ ctxDev fun x => { x with phase := .issuing } with istore := [(40, 2 ^ 42)] }.setSpanTo 1 (List.replicate
      128 ⟨[⟨c0, 0, 0, 3, 90⟩], []⟩)), c0, by decide +kernel, by decide +kernel, by decide +kernel⟩⟩

theorem test_meets_LateFencesAndFills :
  (∃ (st : State) (c : CtxId), st.dev.sys.railsUp = true ∧ st.dev.moves c = true ∧
   let h := c.h.val
   let n := c.n.val
   let x := st.dev.ctx h n
   let id := st.dev.fenceId h n
   let held := x.tokens.get id
   x.phase = .fenceWait ∧ held = 0 ∧ x.late = false ∧ st.dev.countsRun x.part = true ∧ (∀ k, st.dev.tokenSent h n id =
     some k → k ≤ x.tclk)) ∧
  (∃ (st : State) (c : CtxId), st.dev.sys.railsUp = true ∧ st.dev.moves c = true ∧
   let h := c.h.val
   let n := c.n.val
   let x := st.dev.ctx h n
   let id := st.dev.fenceId h n
   let held := x.tokens.get id
   x.phase = .fenceWait ∧ held = 0 ∧ x.late = true ∧ st.dev.countsRun x.part = true ∧ x.part < 16 ∧ st.dev.ctxNum
     x.part h = some n) ∧
  (∃ (st : State) (c : CtxId), st.dev.sys.railsUp = true ∧ st.dev.moves c = true ∧
   let h := c.h.val
   let n := c.n.val
   let x := st.dev.ctx h n
   (x.phase = .boundary ∨ x.phase = .fillWait) ∧ st.dev.filled h n = false ∧ st.dev.countsRun x.part = true ∧ x.part <
     16 ∧ st.dev.ctxNum x.part h = some n) ∧
  (∃ (st : State) (c : CtxId), st.dev.sys.railsUp = true ∧ st.dev.moves c = true ∧
   let h := c.h.val
   let n := c.n.val
   let x := st.dev.ctx h n
   let d := st.dev.settle h n x.cyc
   let holds := d.prismHolds c (d.issueOf c) (d.bundle h n)
   ∃ (f : FacetN) (k : Nat), (x.phase = .issuing ∨ st.dev.stepOneDone h n = true) ∧ (f.val, k) ∈ holds) :=
  ⟨⟨on (ctxDev fun x => { x with phase := .fenceWait }), c0, by decide +kernel, by decide +kernel, by decide +kernel,
    by decide +kernel⟩,
    ⟨on (ctxDev fun x => { x with phase := .fenceWait, late := true }), c0, by decide +kernel, by decide +kernel, by
      decide +kernel, by decide +kernel⟩,
    ⟨on runDev, c0, by decide +kernel, by decide +kernel, by decide +kernel, by decide +kernel⟩,
    ⟨on
      { ctxDev fun x => { x with phase := .issuing, inflight := [⟨100, .product 3 false false [] 0 (⟨0, 3, 40, 0, 10, 10⟩) []⟩] } with istore := [(40, 2 ^ 451 + 2 ^ 65)] },
      c0, by decide +kernel, by decide +kernel, 3, 1, by decide +kernel⟩⟩

theorem test_meets_DebugPortAndStart :
  (∃ (st : State) (c : CtxId), st.dev.sys.railsUp = true ∧
   let h := c.h.val
   let n := c.n.val
   let x := st.dev.ctx h n
   st.dev.ctxNum x.part h = some n ∧ st.dev.debugOpen = true ∧ x.state = .running ∧ x.phase = .boundary) ∧
  (∃ (st : State) (c : CtxId), st.dev.sys.railsUp = true ∧
   let h := c.h.val
   let n := c.n.val
   let x := st.dev.ctx h n
   st.dev.ctxNum x.part h = some n ∧ st.dev.moves c = true ∧ st.dev.atBreakpoint h n = true) ∧
  (∃ (st : State) (c : CtxId), st.dev.sys.railsUp = true ∧
   let h := c.h.val
   let n := c.n.val
   let x := st.dev.ctx h n
   st.dev.ctxNum x.part h = some n ∧ st.dev.debugOpen = true ∧ x.state = .debugHalted) ∧
  (∃ (st : State) (c : CtxId), st.dev.sys.railsUp = true ∧
   let h := c.h.val
   let n := c.n.val
   let x := st.dev.ctx h n
   st.dev.ctxNum x.part h = some n ∧ (x.state = .idle ∨ x.state = .halted)) :=
  ⟨⟨on (dbg runDev), c0, by decide +kernel, by decide +kernel, by decide +kernel⟩,
    ⟨on ((dbg runDev).setReg (rCtxBrk 0 0) (2 ^ 31 + 40)), c0, by decide +kernel, by decide +kernel, by decide +kernel⟩,
    ⟨on (dbg (ctxDev fun x => { x with state := .debugHalted })), c0, by decide +kernel, by decide +kernel, by
      decide +kernel⟩,
    ⟨on (ctxDev fun x => { x with state := .halted }), c0, by decide +kernel, by decide +kernel, by decide +kernel⟩⟩

set_option maxRecDepth 20000 in
theorem test_meets_StreamInLandsBundles :
  (∃ (st : State) (c : CtxId) (o : StreamOp), st.dev.sys.railsUp = true ∧
   let h := c.h.val
   let n := c.n.val
   let x := st.dev.ctx h n
   x.state = .running ∧
   let d := atIssue st.dev c 4
   let a := o.tidx.toNat
   let k := o.count.toNat
   (d.isRange h n).1 ≤ a ∧ a + k ≤ (d.isRange h n).2 ∧ (¬ (a ≤ x.bidx ∧ x.bidx < a + k)) ∧ x.loops = [] ∧ 0 < k) ∧
  (∃ (st : State) (c : CtxId), st.dev.sys.railsUp = true ∧
   let h := c.h.val
   let n := c.n.val
   let x := st.dev.ctx h n
   ∃ j js, x.streams = j :: js ∧ st.dev.chanHeld j.src 512 = false ∧
   let y := st.dev.readRim 0 j.src 512
   ∃ g gs, y.2 = g :: gs) ∧
  (∃ (st : State) (c : CtxId), st.dev.sys.railsUp = true ∧
   let h := c.h.val
   let n := c.n.val
   let x := st.dev.ctx h n
   ∃ j js, x.streams = j :: js ∧ st.dev.chanHeld j.src 512 = false ∧
   let y := st.dev.readRim 0 j.src 512
   y.2 = [] ∧
   let b := leNat (y.1.gread x.part j.src 512)
   let d := { y.1 with istore := y.1.istore.set (isKey h j.next) b }
   streamedReason (d.valCtx x.part h n) b = none) :=
  ⟨⟨on runDev, c0, ⟨ga 0, 1023, 1⟩, by decide +kernel, by decide +kernel, by decide +kernel, by decide +kernel⟩,
    ⟨on
      { ctxDev (fun x => { x with streams := [(⟨0, 1023, 1⟩)] }) with mem := { runDev.mem with errs := [(7, [(0, 1), (1, 1), (2, 1), (3, 1), (4, 1), (5, 1)])] } },
      c0, by decide +kernel, ⟨0, 1023, 1⟩, [], by decide +kernel, by decide +kernel, (448, false), [], by
      decide +kernel⟩,
    ⟨on
      { ctxDev (fun x => { x with streams := [(⟨0x100000600000, 1023, 1⟩)] }) with ls := [(3 * 0x200000, 0xB7), (3 * 0x200000 + 1, 0x44)] },
      c0, by decide +kernel, ⟨0x100000600000, 1023, 1⟩, [], by decide +kernel, by decide +kernel, by decide +kernel, by
      decide +kernel⟩⟩

theorem test_meets_PrefetchesTransfersAndDrops :
  (∃ (st : State) (c : CtxId) (o : PfsOp), st.dev.sys.railsUp = true ∧
   let h := c.h.val
   let n := c.n.val
   let k := st.dev.ctx h n
   let d := atIssue st.dev c 4
   k.state = .running ∧ ((d.ctx h n).onTag o.tag.toNat).length < 4095 ∧ d.refuse k.part [⟨d.gaAddr h n o.src,
     o.len.toNat, false⟩] = none) ∧
  (∃ (st : State) (c : CtxId) (x : XferOp), st.dev.sys.railsUp = true ∧
   let h := c.h.val
   let n := c.n.val
   let k := st.dev.ctx h n
   let d := atIssue st.dev c 4
   k.state = .running ∧
   let src := d.gaAddr h n x.src
   let dsts := if x.bsect = 0 then [d.gaAddr h n x.dst] else (namedFacets h x.bsect.toNat x.bfmask.toNat).map fun f =>
     lsView f + d.gaAddr h n x.dst % 2 ^ 21
   ((d.ctx h n).onTag x.tag.toNat).length < 4095 ∧ d.refuse k.part (⟨src, x.len.toNat, false⟩ :: dsts.map fun a => ⟨a,
     x.len.toNat, true⟩) = none) ∧
  (∃ (st : State) (c : CtxId), st.dev.sys.railsUp = true ∧
   let h := c.h.val
   let n := c.n.val
   let k := st.dev.ctx h n
   k.state = .running ∧ k.inflight = []) :=
  ⟨⟨on runDev, c0, ⟨5, ga 0x1000, 0x1000, false⟩, by decide +kernel, by decide +kernel, by decide +kernel⟩,
    ⟨on runDev, c0, ⟨5, ga 0x1000, ga 0x400, 0x400, false, false, 1, 8⟩, by decide +kernel, by decide +kernel, by
      decide +kernel, by decide +kernel⟩,
    ⟨on runDev, c0, by decide +kernel, by decide +kernel, by decide +kernel⟩⟩

theorem test_meets_GathersAndScatters :
  (∃ (st : State) (c : CtxId) (o : GatherOp), st.dev.sys.railsUp = true ∧
   let h := c.h.val
   let n := c.n.val
   let k := st.dev.ctx h n
   let d := atIssue st.dev c 4
   let rsz := o.rsz.toNat
   let rows := if rsz = 0 then 0 else o.len.toNat / rsz
   let src := d.gaAddr h n o.src
   let dst := d.gaAddr h n o.dst
   let ib := d.tbase h n o.ib.toNat
   let idx (r : Nat) : Nat := leNat (d.gread k.part (ib + 4 * r) 4)
   let gat := (List.range rows).map fun r => (src + idx r * rsz, dst + r * rsz)
   let may (l : List (Nat × Nat)) : Prop := d.refuse k.part ((if isFar ib then [⟨ib, 4 * rows, false⟩] else []) ++
     l.flatMap fun x => [⟨x.1, rsz, false⟩, ⟨x.2, rsz, true⟩]) = none
   k.state = .running ∧ ((d.ctx h n).onTag o.tag.toNat).length < 4095 ∧ d.firstBad k.part ib (4 * rows) = none ∧
     d.ueIn k.part ib (4 * rows) = none ∧ may gat) ∧
  (∃ (st : State) (c : CtxId) (o : GatherOp), st.dev.sys.railsUp = true ∧
   let h := c.h.val
   let n := c.n.val
   let k := st.dev.ctx h n
   let d := atIssue st.dev c 4
   let rsz := o.rsz.toNat
   let rows := if rsz = 0 then 0 else o.len.toNat / rsz
   let src := d.gaAddr h n o.src
   let dst := d.gaAddr h n o.dst
   let ib := d.tbase h n o.ib.toNat
   let idx (r : Nat) : Nat := leNat (d.gread k.part (ib + 4 * r) 4)
   let sca := ((List.range rows).filter fun r => idx r != 0xFFFFFFFF).map fun r => (src + r * rsz, dst + idx r * rsz)
   let may (l : List (Nat × Nat)) : Prop := d.refuse k.part ((if isFar ib then [⟨ib, 4 * rows, false⟩] else []) ++
     l.flatMap fun x => [⟨x.1, rsz, false⟩, ⟨x.2, rsz, true⟩]) = none
   k.state = .running ∧ ((d.ctx h n).onTag o.tag.toNat).length < 4095 ∧ d.firstBad k.part ib (4 * rows) = none ∧
     d.ueIn k.part ib (4 * rows) = none ∧ may sca) :=
  ⟨⟨on runDev, c0, ⟨5, ga 0x1000, ga 0x8000, 0x400, true, true, 0x100, 2⟩, by decide +kernel, by decide +kernel, by
    decide +kernel⟩,
    ⟨on runDev, c0, ⟨5, ga 0x1000, ga 0x8000, 0x400, true, true, 0x100, 2⟩, by decide +kernel, by decide +kernel, by
      decide +kernel⟩⟩

theorem test_meets_RequestsMoveAndComplete :
  (∃ (st : State) (c : CtxId) (tag : BitVec 6) (r : Request) (q : Piece), st.dev.sys.railsUp = true ∧
   let h := c.h.val
   let n := c.n.val
   let x := st.dev.ctx h n
   let whole (q : Piece) : Prop := isLs q.src = false ∧ q.rd = 0 ∧ q.got = [] ∧ 0 < q.len
   uncounted st.dev ∧ st.dev.mem.errs = [] ∧ x.requests = [r] ∧ r.tag = tag.toNat ∧ r.kind = .copy ∧ r.cut = true ∧
     st.dev.spanQ = [] ∧ st.dev.canComplete ⟨h, n, r⟩ = true ∧ (∀ p ∈ r.pieces, whole p ∧ p.dsts ≠ [] ∧ ∀ b ∈ p.dsts,
     isLs b = false)) ∧
  (∃ (st : State) (c : CtxId) (f : FacetN) (r : Request) (q : Piece) (a : Access), st.dev.sys.railsUp = true ∧
   let h := c.h.val
   let n := c.n.val
   let whole (q : Piece) : Prop := isLs q.src = false ∧ q.rd = 0 ∧ q.got = [] ∧ 0 < q.len
   uncounted st.dev ∧ st.dev.mem.errs = [] ∧ st.dev.allRequests = [⟨h, n, r⟩] ∧ r.kind = .copy ∧ st.dev.portQueue
     f.val true = [a] ∧ st.dev.portQueue f.val false = [] ∧ a.ready = true ∧ a.q = q ∧ q ∈ r.pieces ∧ whole q ∧ q.dsts =
     [a.a] ∧ (∀ y ∈ r.pieces, y.src = q.src → y.dsts = q.dsts → y = q) ∧ bit ((alGet [] st.dev.claims f.val).headD 0)
     a.bank = false) ∧
  (∃ (st : State) (c : CtxId) (tag : BitVec 6) (r : Request), st.dev.sys.railsUp = true ∧
   let h := c.h.val
   let n := c.n.val
   let x := st.dev.ctx h n
   uncounted st.dev ∧ st.dev.mem.errs = [] ∧ ∃ b : Nat, x.requests = [r] ∧ r.tag = tag.toNat ∧ st.dev.farAt r = some
     b) :=
  ⟨⟨on (ctxDev fun x => { x with requests := [({ copyReq with pieces := [⟨0, [0x4000], 64, 0, [], false⟩] })] }), c0,
    5, { copyReq with pieces := [⟨0, [0x4000], 64, 0, [], false⟩] }, ⟨0, [0x100000600400], 64, 0, [], false⟩, by
    decide +kernel, uncounted_of (by decide +kernel), by decide +kernel⟩,
    ⟨on (ctxDev fun x => { x with requests := [copyReq] }), c0, 3, copyReq, ⟨0, [0x100000600400], 64, 0, [], false⟩,
      (((on (ctxDev fun x => { x with requests := [copyReq] })).dev.portQueue 3 true).headD ⟨⟨0, 0, copyReq⟩, (⟨0,
      [0x100000600400], 64, 0, [], false⟩), 0, 0, false⟩), by decide +kernel, uncounted_of (by decide +kernel), by
      decide +kernel⟩,
    ⟨on (ctxDev fun x =>
      { x with requests := [({ copyReq with pieces := [(⟨0x800000000000, [0x100000600400], 64, 0, [], false⟩)] })] }),
      c0, 5, { copyReq with pieces := [(⟨0x800000000000, [0x100000600400], 64, 0, [], false⟩)] }, by decide +kernel,
      uncounted_of (by decide +kernel), by decide +kernel, 0x800000000000, by decide +kernel⟩⟩

theorem test_meets_DeadlineFences :
  (∃ (st : State) (c : CtxId) (o : DfenceOp), st.dev.sys.railsUp = true ∧
   let h := c.h.val
   let n := c.n.val
   let x := st.dev.ctx h n
   x.state = .running ∧ x.phase = .boundary ∧ x.fenceDone = false ∧ x.onTag o.tag.toNat = [] ∧ o.cv = false) ∧
  (∃ (st : State) (c : CtxId) (o : DfenceOp), st.dev.sys.railsUp = true ∧
   let h := c.h.val
   let n := c.n.val
   let x := st.dev.ctx h n
   x.state = .running ∧ x.phase = .boundary ∧ x.fenceDone = false ∧ x.onTag o.tag.toNat ≠ [] ∧ o.bound ≠ 0) ∧
  (∃ (st : State) (c : CtxId) (o : DfenceOp), st.dev.sys.railsUp = true ∧
   let h := c.h.val
   let n := c.n.val
   let x := st.dev.ctx h n
   x.state = .running ∧ x.phase = .boundary ∧ x.fenceDone = false ∧ x.onTag o.tag.toNat ≠ [] ∧ o.bound = 0) ∧
  (∃ (st : State) (c : CtxId) (f : FenceWait) (r : Request), st.dev.sys.railsUp = true ∧
   let h := c.h.val
   let n := c.n.val
   let x := st.dev.ctx h n
   x.state = .running ∧ x.phase = .dfenceWait ∧ x.fence = some f ∧ x.requests = [r] ∧ r.tag = f.tag ∧ r.kind = .copy ∧
     x.inflight = [] ∧ f.cv = true) :=
  ⟨⟨on runDev, c0, ⟨5, 1, 15, false⟩, by decide +kernel, by decide +kernel, by decide +kernel⟩,
    ⟨on (ctxDev fun x => { x with requests := [copyReq] }), c0, ⟨5, 1, 15, false⟩, by decide +kernel, by
      decide +kernel, by decide +kernel⟩,
    ⟨on (ctxDev fun x => { x with requests := [copyReq] }), c0, ⟨5, 0, 15, false⟩, by decide +kernel, by
      decide +kernel, by decide +kernel⟩,
    ⟨on (ctxDev fun x => { x with phase := .dfenceWait, fence := some (⟨5, 10, 3, true, 4⟩), requests := [copyReq] }),
      c0, ⟨5, 10, 3, true, 4⟩, copyReq, by decide +kernel, by decide +kernel, by decide +kernel⟩⟩

set_option maxRecDepth 20000 in
theorem test_meets_RimGranulesAreRead :
  (∃ (st : State) (a : BitVec 48) (errs fix : SymErrs), st.dev.sys.railsUp = true ∧ uncounted st.dev ∧ st.dev.mem.errs
    = [] ∧ st.dev.mem.repairing = [] ∧ (∀ e ∈ errs, e.1 < 42 ∧ e.2 ≠ 0) ∧ (errs.map fun e => e.1).Nodup ∧
   let g := a.toNat / 64 * 64
   g < rimTop ∧ st.dev.inCarve g = false ∧ rsDecode errs = .fixed fix ∧ fix ≠ []) ∧
  (∃ (st : State) (a : BitVec 48) (bytes : List Byte) (errs : SymErrs), st.dev.sys.railsUp = true ∧ uncounted st.dev ∧
    st.dev.mem.errs = [] ∧ st.dev.mem.repairing = [] ∧ (∀ e ∈ errs, e.1 < 42 ∧ e.2 ≠ 0) ∧ (errs.map fun e => e.1).Nodup
    ∧ a.toNat < rimTop ∧ a.toNat % 64 + bytes.length < 64) ∧
  (∃ (st : State) (errs : SymErrs) (x : Fin 8) (pc : Fin 32), st.dev.sys.railsUp = true ∧ uncounted st.dev ∧
    st.dev.mem.errs = [] ∧ st.dev.mem.repairing = [] ∧ (∀ e ∈ errs, e.1 < 42 ∧ e.2 ≠ 0) ∧ (errs.map fun e => e.1).Nodup
    ∧ st.dev.fld rMemCfg 7 0 ≠ 0 ∧ st.dev.pcOk x.val pc.val = true) :=
  ⟨⟨on runDev, 0x1000, [(41, 0x8001)], [(41, 0x8001)], by decide +kernel, uncounted_of (by decide +kernel), by
    decide +kernel, by decide +kernel, by decide +kernel, by decide +kernel, by decide +kernel, by decide +kernel⟩,
    ⟨on runDev, 0x1000, List.replicate 63 7, [(41, 0x8001), (2, 1)], by decide +kernel, uncounted_of (by
      decide +kernel), by decide +kernel⟩,
    ⟨on (((dbg runDev).setReg rMemCfg 1).setReg (rMemStk 7) (2 ^ 32 - 1)), [(41, 0x8001), (2, 1)], 7, 31, by
      decide +kernel, uncounted_of (by decide +kernel), by decide +kernel⟩⟩

theorem test_meets_IngestHandOff :
  (∃ (st : State) (c : CtxId) (o : ItakeOp), st.dev.sys.railsUp = true ∧
   let h := c.h.val
   let n := c.n.val
   let k := st.dev.ctx h n
   let p := k.part
   k.state = .running ∧ k.inflight = [] ∧
   let dst := st.dev.gaAddr h n o.dst
   st.dev.ringOn p o.ring.toNat = true ∧ diff32 (st.dev.ringTaken p o.ring.toNat) (st.dev.ringReleased p o.ring.toNat)
     + o.nrow.toNat ≤ st.dev.ringNent p o.ring.toNat ∧ (k.onTag o.tag.toNat).length < 4095 ∧
   (let first := st.dev.ringTaken p o.ring.toNat
    let entries := (List.range o.nrow.toNat).map fun k => st.dev.ringEntry p o.ring.toNat (first + k)
    (∀ e ∈ entries, isFar e = false) ∧ st.dev.refuse p ((entries.map fun e => ⟨e, st.dev.ringEsz p o.ring.toNat,
      false⟩) ++ [⟨dst, o.nrow.toNat * st.dev.ringEsz p o.ring.toNat, true⟩]) = none)) ∧
  (∃ (st : State) (c : CtxId) (q : IrelOp), st.dev.sys.railsUp = true ∧
   let h := c.h.val
   let n := c.n.val
   let k := st.dev.ctx h n
   let p := k.part
   k.state = .running ∧ k.inflight = [] ∧ q.nrow.toNat ≤ diff32 (st.dev.ringTaken p q.ring.toNat) (st.dev.ringReleased
     p q.ring.toNat)) ∧
  (∃ (st : State) (c : CtxId) (v : IroiOp), st.dev.sys.railsUp = true ∧
   let h := c.h.val
   let n := c.n.val
   let k := st.dev.ctx h n
   let p := k.part
   k.state = .running ∧ k.inflight = [] ∧
   let a := st.dev.gaAddr h n v.list
   st.dev.firstBad p a (4 * v.count.toNat) = none) :=
  ⟨⟨on (((runDev.setReg (rIngRingCfg 0 3) (2 ^ 63)).setReg (rIngRingBase 0 3) (16 * 2 ^ 48)).setReg (rIngRingEsz 0 3)
    256), c0, ⟨5, 3, ga 0x1000, 16, true⟩, by decide +kernel, by decide +kernel, by decide +kernel, by decide +kernel,
    by decide +kernel⟩,
    ⟨on (((runDev.setReg (rIngRingCfg 0 3) (2 ^ 63)).setReg (rIngRingBase 0 3) (16 * 2 ^ 48)).setReg (rIngRingEsz 0 3)
      256), c0, ⟨3, 0⟩, by decide +kernel, by decide +kernel, by decide +kernel⟩,
    ⟨on (((runDev.setReg (rIngRingCfg 0 3) (2 ^ 63)).setReg (rIngRingBase 0 3) (16 * 2 ^ 48)).setReg (rIngRingEsz 0 3)
      256), c0, ⟨ga 0x2000, 64, 0xC0000001⟩, by decide +kernel, by decide +kernel, by decide +kernel, by
      decide +kernel⟩⟩

theorem test_meets_BarrovLaunches :
  ∃ (st : State) (c : CtxId) (o : BarrovOp) (k : Nat), st.dev.sys.railsUp = true ∧
   let h := c.h.val
   let n := c.n.val
   let x := st.dev.ctx h n
   let g := x.part * 256 + o.grp.toNat
   let epoch := st.dev.grpEpoch g
   let d := st.dev.setGrpEpoch g (epoch + 1)
   let src := st.dev.gaAddr h n o.src
   let dst := st.dev.gaAddr h n o.dst
   let r : Request :=
     { id := d.nextReq, tag := o.tag.toNat, kind := .barrov g epoch, pieces := [], cut := false, allocate := false, failed := false, bidx := x.bidx, list := none }
   let j : BarrovJob :=
     { g, epoch, op := k, c, o, src, dst, len := o.len.toNat, bidx := x.bidx, icount := x.icount, waiting := true, begun := false, data := false, heard := [], met := st.dev.earlyRanks g epoch }
   let l := (({ d with nextReq := d.nextReq + 1 } : Dev).setCtx h n { x with requests := x.requests ++ [r] }).askPeer
     x.part r.id src o.len.toNat
   let e := (({ l with brv := { l.brv with jobs := l.brv.jobs ++ [j] } } : Dev).setGrpState g 1).nextJob g
   x.state = .running ∧ x.inflight = [] ∧ 1 ≤ k ∧ k ≤ 5 ∧ countIf (fun j => j.g / 256 == x.part) st.dev.brv.jobs <
     1024 ∧ st.dev.grpOn g = true ∧ (st.dev.grpKey g = 0xFFFF ∨ (d.slotFor (d.grpKey g) x.part 4).isSome = true) ∧ epoch
     < 0xFFFFFFFF ∧ d.grpFault g = false ∧ st.dev.brv.aborted.contains (g, epoch) = false ∧ d.barrovBad g k h o = false
     ∧ (x.onTag o.tag.toNat).length < 4095 ∧ d.refuse x.part [⟨src, o.len.toNat, false⟩, ⟨dst, resultBytes k (d.grpMem
     g) o.len.toNat, true⟩] = none ∧ e.advance x.part = e :=
  ⟨on (runDev.setReg (rBrvGrp 3) (2 + 0xFFFF * 2 ^ 152 + 2 ^ 176)), c0, { barop with slot := 32 }, 5, by
    decide +kernel, by decide +kernel, by decide +kernel⟩

theorem test_meets_DoorbellsAndFetches :
  (∃ (st : State) (q : Nat), st.dev.sys.railsUp = true ∧ st.dev.hostUp = true ∧ ∃ (fn : FnN) (w : BellWrite), q <
    16384 ∧ st.dev.fld (rHqCq q) 5 0 = fn.val ∧ (fn = 0 ∨ ∃ p, st.dev.vfPart fn.val = some p ∧ st.dev.queuePart q = some
    p) ∧
   let i := w.value.toNat % 2 ^ 16
   w.size = 4 ∧ w.off.toNat = 0x40 * q ∧ st.dev.sqOn q = true ∧ i < st.dev.sqSize q) ∧
  (∃ (st : State) (q : Nat), st.dev.sys.railsUp = true ∧ st.dev.hostUp = true ∧
   let x := st.dev.queue q
   ∃ (fn : FnN) (w : BellWrite), q < 16384 ∧ st.dev.fld (rHqCq q) 5 0 = fn.val ∧ (fn = 0 ∨ ∃ p, st.dev.vfPart fn.val =
     some p ∧ st.dev.queuePart q = some p) ∧
   let i := w.value.toNat % 2 ^ 16
   w.size = 4 ∧ w.off.toNat = 0x40 * q + 4 ∧ st.dev.cqOn q = true ∧ i < st.dev.cqSize q ∧ x.owed = [] ∧ x.closing =
     none) ∧
  (∃ (st : State) (q : Nat), st.dev.sys.railsUp = true ∧ st.dev.hostUp = true ∧ ∃ (fn : FnN) (w : BellWrite), q <
    16384 ∧ st.dev.fld (rHqCq q) 5 0 = fn.val ∧ (fn = 0 ∨ ∃ p, st.dev.vfPart fn.val = some p ∧ st.dev.queuePart q = some
    p) ∧ w.size ≠ 4) ∧
  (∃ (st : State) (q : Nat), st.dev.sys.railsUp = true ∧ st.dev.hostUp = true ∧
   let x := st.dev.queue q
   ∃ entry buf : List Byte, st.dev.pendingQueues = [q] ∧ st.dev.fetchRoom q = true ∧
   let head := (x.head + 1) % st.dev.sqSize q
   let c : FetchedCmd :=
     { seq := st.dev.hq.nextSeq, q, sqhd := head, entry := entryOf entry, buf, started := false, interim := false, mute := false }
   st.dev.fetchCheck c = none) :=
  ⟨⟨on ((((((runDev.setReg rHqDevstat (2 ^ 31)).setReg (rHqSq 2) (2 ^ 4 + 4 * 2 ^ 7)).setReg (rHqCq 2) (5 + 4 * 2 ^
    7)).setReg (rHqVec 2) (2 ^ 20 + 1)).setReg (rHqFn 5) (2 ^ 31 + 2 ^ 19)).setQueue 2
    { QueueSt.off with head := 14, tail := 15, posted := 3, cqIdx := 3 }), 2, by decide +kernel, by decide +kernel, 5,
    ⟨0x80, 4, 15⟩, by decide +kernel, by decide +kernel, by decide +kernel, by decide +kernel, by decide +kernel⟩,
    ⟨on ((((((runDev.setReg rHqDevstat (2 ^ 31)).setReg (rHqSq 2) (2 ^ 4 + 4 * 2 ^ 7)).setReg (rHqCq 2) (5 + 4 * 2 ^
      7)).setReg (rHqVec 2) (2 ^ 20 + 1)).setReg (rHqFn 5) (2 ^ 31 + 2 ^ 19)).setQueue 2
      { QueueSt.off with head := 14, tail := 15, posted := 3, cqIdx := 3 }), 2, by decide +kernel, by decide +kernel, 5,
      ⟨0x84, 4, 3⟩, by decide +kernel, by decide +kernel, by decide +kernel, by decide +kernel, by decide +kernel⟩,
    ⟨on ((((((runDev.setReg rHqDevstat (2 ^ 31)).setReg (rHqSq 2) (2 ^ 4 + 4 * 2 ^ 7)).setReg (rHqCq 2) (5 + 4 * 2 ^
      7)).setReg (rHqVec 2) (2 ^ 20 + 1)).setReg (rHqFn 5) (2 ^ 31 + 2 ^ 19)).setQueue 2
      { QueueSt.off with head := 14, tail := 15, posted := 3, cqIdx := 3 }), 2, by decide +kernel, by decide +kernel, 5,
      ⟨0x80, 8, 15⟩, by decide +kernel⟩,
    ⟨on ((((((runDev.setReg rHqDevstat (2 ^ 31)).setReg (rHqSq 2) (2 ^ 4 + 4 * 2 ^ 7)).setReg (rHqCq 2) (5 + 4 * 2 ^
      7)).setReg (rHqVec 2) (2 ^ 20 + 1)).setReg (rHqFn 5) (2 ^ 31 + 2 ^ 19)).setQueue 2
      { QueueSt.off with head := 14, tail := 15, posted := 3, cqIdx := 3 }), 2, by decide +kernel, by decide +kernel,
      (command 0x101 0 0 []).entry, [], by decide +kernel, by decide +kernel, by decide +kernel⟩⟩

theorem test_meets_CompletionsVectorsAndMemoryReads :
  (∃ (st : State) (q : QueueN) (c : FetchedCmd), st.dev.sys.railsUp = true ∧ ∃ e, Accepted st.dev q 0x006 [] c e ∧
    c.mute = false ∧ c.crit = false ∧
   let x := e.queue c.q
   e.cqOn c.q = true ∧ e.cqFull c.q = false ∧ x.owed = [] ∧ x.closing = none) ∧
  (∃ (st : State) (q : QueueN) (cid : BitVec 32) (c : FetchedCmd), st.dev.sys.railsUp = true ∧ st.dev.hq.fetched = [c]
    ∧ c.q = q.val ∧ c.cid = cid.toNat ∧ c.interim = false ∧ c.mute = false) ∧
  (∃ (st : State) (q : QueueN), st.dev.sys.railsUp = true ∧ st.dev.cqOn q.val = true ∧ (st.dev.queue
    q.val).unsignalled ≠ 0 ∧ st.dev.fld (rHqVec q.val) 7 0 ≠ 0) ∧
  (∃ (st : State) (o : Bar4Op), st.dev.sys.railsUp = true ∧
   let a := st.dev.reg rHqBar4Base + o.off.toNat
   st.dev.hostUp = true ∧ o.write = true ∧ o.bytes.length = o.len ∧ st.dev.bar4Served a o.len = true ∧ st.dev.chanHeld
     a o.len = false ∧ st.dev.mem.errs = []) ∧
  (∃ (st : State) (o : Bar4Op), st.dev.sys.railsUp = true ∧
   let a := st.dev.reg rHqBar4Base + o.off.toNat
   st.dev.hostUp = true ∧ o.write = false ∧ st.dev.bar4Served a o.len = true ∧ st.dev.mem.errs = [] ∧ st.dev.chanHeld
     a o.len = false) ∧
  (∃ st : State, st.dev.sys.railsUp = true ∧ st.dev.hostUp = false) ∧
  (∃ st : State, st.dev.sys.railsUp = true ∧ ∃ (fn : FnN) (b : Nat), (((st.dev.hq.queues.map Prod.fst) ++
    st.dev.hq.fetched.map FetchedCmd.q).eraseDups.filter fun k =>
      st.dev.fld (rHqCq k) 5 0 == fn.val) = [b] ∧ (st.dev.queue b).closing = none) :=
  ⟨⟨on (got ((((idleDev.setReg rHqDevstat (2 ^ 31)).setReg (rHqSq 2) (2 ^ 4 + 4 * 2 ^ 7)).setReg (rHqCq 2) (5 + 4 * 2
    ^ 7)).setReg (rHqVec 2) (2 ^ 20 + 1)) (command 0x006 0 0 [])), 2, command 0x006 0 0 [], by decide +kernel, went
    ((((idleDev.setReg rHqDevstat (2 ^ 31)).setReg (rHqSq 2) (2 ^ 4 + 4 * 2 ^ 7)).setReg (rHqCq 2) (5 + 4 * 2 ^
    7)).setReg (rHqVec 2) (2 ^ 20 + 1)) (command 0x006 0 0 []), accepted_plain (by decide +kernel), by decide +kernel,
    by decide +kernel, by decide +kernel, by decide +kernel⟩,
    ⟨on (got ((((idleDev.setReg rHqDevstat (2 ^ 31)).setReg (rHqSq 2) (2 ^ 4 + 4 * 2 ^ 7)).setReg (rHqCq 2) (5 + 4 * 2
      ^ 7)).setReg (rHqVec 2) (2 ^ 20 + 1)) (command 0x006 0 0 [])), 2, 0x77, command 0x006 0 0 [], by decide +kernel⟩,
    ⟨on (((((idleDev.setReg rHqDevstat (2 ^ 31)).setReg (rHqSq 2) (2 ^ 4 + 4 * 2 ^ 7)).setReg (rHqCq 2) (5 + 4 * 2 ^
      7)).setReg (rHqVec 2) (2 ^ 20 + 1)).setQueue 2 { QueueSt.off with unsignalled := 1 }), 2, by decide +kernel⟩,
    ⟨on (((((idleDev.setReg rHqDevstat (2 ^ 31)).setReg (rHqSq 2) (2 ^ 4 + 4 * 2 ^ 7)).setReg (rHqCq 2) (5 + 4 * 2 ^
      7)).setReg (rHqVec 2) (2 ^ 20 + 1)).setReg (rCusPol 0) (2 ^ 63)), ⟨true, 64, 4, [1, 2, 3, 4]⟩, by decide +kernel,
      by decide +kernel, by decide +kernel⟩,
    ⟨on (((((idleDev.setReg rHqDevstat (2 ^ 31)).setReg (rHqSq 2) (2 ^ 4 + 4 * 2 ^ 7)).setReg (rHqCq 2) (5 + 4 * 2 ^
      7)).setReg (rHqVec 2) (2 ^ 20 + 1)).setReg (rCusPol 0) (2 ^ 63)), ⟨false, 64, 4, []⟩, by decide +kernel, by
      decide +kernel, by decide +kernel⟩,
    ⟨on (((((idleDev.setReg rHqDevstat (2 ^ 31)).setReg (rHqSq 2) (2 ^ 4 + 4 * 2 ^ 7)).setReg (rHqCq 2) (5 + 4 * 2 ^
      7)).setReg (rHqVec 2) (2 ^ 20 + 1)).setReg rHqDevstat 0), by decide +kernel⟩,
    ⟨on (got (((((idleDev.setReg rHqDevstat (2 ^ 31)).setReg (rHqSq 2) (2 ^ 4 + 4 * 2 ^ 7)).setReg (rHqCq 2) (5 + 4 *
      2 ^ 7)).setReg (rHqVec 2) (2 ^ 20 + 1)).setQueue 2 { QueueSt.off with head := 3 }) (command 0x006 0 0 [])), by
      decide +kernel, 5, 2, by decide +kernel⟩⟩

theorem test_meets_QueueCommandsSetQueues :
  (∃ (st : State) (q : QueueN) (c : FetchedCmd) (e : Dev), st.dev.sys.railsUp = true ∧ (e.queue c.q).closing = none ∧
   let spec := [PKind.num 2, .num 1, .num 1, .num 8, .num 1, .num 8, .num 1, .num 2, .num 1, .num 1]
   let v := (c.params spec).at
   Accepted st.dev q 0x001 spec c e ∧ v 0 ≠ 0 ∧ v 0 < 16384 ∧ v 1 < 64 ∧ v 2 < 4 ∧ v 3 % 4096 = 0 ∧ 4 ≤ v 4 ∧ v 4 ≤ 16
     ∧ v 5 % 4096 = 0 ∧ 4 ≤ v 6 ∧ v 6 ≤ 16 ∧ v 7 < vecLimit (v 1) ∧ v 8 < 256 ∧ v 9 < 256 ∧ (c.part = 0xFF → v 1 = 0) ∧
     e.queueOn (v 0) = false ∧ c.q ≠ v 0 ∧ v 3 < 2 ^ 64 ∧ v 5 < 2 ^ 64) ∧
  (∃ (st : State) (q : QueueN) (c : FetchedCmd) (e : Dev), st.dev.sys.railsUp = true ∧ (e.queue c.q).closing = none ∧
   let n := (c.params [.num 2]).at 0
   Accepted st.dev q 0x002 [.num 2] c e ∧ n < 16384 ∧ n ≠ 0 ∧ e.queueOn n = true ∧ e.isEventQueue n = false ∧ n ≠ c.q
     ∧ e.unfetched n = 0 ∧ (∀ b ∈ e.hq.fetched, b.q ≠ n) ∧ (e.queue n).owed = [] ∧ (e.queue n).held = []) ∧
  (∃ (st : State) (q : QueueN) (c : FetchedCmd) (e : Dev), st.dev.sys.railsUp = true ∧ (e.queue c.q).closing = none ∧
   let spec := [PKind.num 1, .num 1, .num 1, .num 1, .num 1]
   let v := (c.params spec).at
   let w := (v 4 - 1) * 2 ^ 16 + v 3 * 2 ^ 12 + v 2 * 2 ^ 8 + v 1 * 2 ^ 4 + v 0
   Accepted st.dev q 0x003 spec c e ∧ (∀ k, k < 4 → 1 ≤ v k ∧ v k ≤ 15) ∧ 1 ≤ v 4 ∧ v 4 ≤ 4 ∧ arbOk w = true ∧ e.flag
     rHqLock 0 = false) ∧
  (∃ (st : State) (q : QueueN) (c : FetchedCmd) (e : Dev), st.dev.sys.railsUp = true ∧ (e.queue c.q).closing = none ∧
   let n := (c.params [.num 2]).at 0
   Accepted st.dev q 0x004 [.num 2] c e ∧ n < 16384 ∧ e.sqOn n = false) ∧
  (∃ (st : State) (q : QueueN) (c : FetchedCmd) (e : Dev), st.dev.sys.railsUp = true ∧ (e.queue c.q).closing = none ∧
   let v := (c.params [.num 1, .num 2]).at
   Accepted st.dev q 0x005 [.num 1, .num 2] c e ∧ 1 ≤ v 0 ∧ v 0 < 64 ∧ v 1 < 16384 ∧ c.part < 16 ∧ e.partValid c.part
     = true ∧ e.flag (rHqFn (v 0)) 31 = false) :=
  ⟨⟨on (got idleDev (command 0x001 0 0 [(2, 16383), (1, 63), (1, 3), (8, 0x1000), (1, 16), (8, 0x2000), (1, 4), (2,
    15), (1, 255), (1, 255)])), 2, command 0x001 0 0 [(2, 16383), (1, 63), (1, 3), (8, 0x1000), (1, 16), (8, 0x2000),
    (1, 4), (2, 15), (1, 255), (1, 255)], went idleDev (command 0x001 0 0 [(2, 16383), (1, 63), (1, 3), (8, 0x1000), (1,
    16), (8, 0x2000), (1, 4), (2, 15), (1, 255), (1, 255)]), by decide +kernel, by decide +kernel, accepted_plain (by
    decide +kernel), by decide +kernel⟩,
    ⟨on (got (idleDev.setReg (rHqSq 5) (2 ^ 4 + 4 * 2 ^ 7)) (command 0x002 0 0 [(2, 5)])), 2, command 0x002 0 0 [(2,
      5)], went (idleDev.setReg (rHqSq 5) (2 ^ 4 + 4 * 2 ^ 7)) (command 0x002 0 0 [(2, 5)]), by decide +kernel, by
      decide +kernel, accepted_plain (by decide +kernel), by decide +kernel⟩,
    ⟨on (got idleDev (command 0x003 0 0 [(1, 15), (1, 15), (1, 15), (1, 15), (1, 1)])), 2, command 0x003 0 0 [(1, 15),
      (1, 15), (1, 15), (1, 15), (1, 1)], went idleDev (command 0x003 0 0 [(1, 15), (1, 15), (1, 15), (1, 15), (1, 1)]),
      by decide +kernel, by decide +kernel, accepted_plain (by decide +kernel), by decide +kernel⟩,
    ⟨on (got idleDev (command 0x004 0 0 [(2, 16383)])), 2, command 0x004 0 0 [(2, 16383)], went idleDev (command 0x004
      0 0 [(2, 16383)]), by decide +kernel, by decide +kernel, accepted_plain (by decide +kernel), by decide +kernel⟩,
    ⟨on (got idleDev (command 0x005 0 0 [(1, 63), (2, 16383)])), 2, command 0x005 0 0 [(1, 63), (2, 16383)], went
      idleDev (command 0x005 0 0 [(1, 63), (2, 16383)]), by decide +kernel, by decide +kernel, accepted_plain (by
      decide +kernel), by decide +kernel⟩⟩

theorem test_meets_QueuesThatAreOnAreRefused :
  (∃ (st : State) (q : QueueN) (c : FetchedCmd) (e : Dev), st.dev.sys.railsUp = true ∧
   let spec := [PKind.num 2, .num 1, .num 1, .num 8, .num 1, .num 8, .num 1, .num 2, .num 1, .num 1]
   let v := (c.params spec).at
   Accepted st.dev q 0x001 spec c e ∧ v 0 ≠ 0 ∧ v 0 < 16384 ∧ v 1 < 64 ∧ v 2 < 4 ∧ v 3 % 4096 = 0 ∧ 4 ≤ v 4 ∧ v 4 ≤ 16
     ∧ v 5 % 4096 = 0 ∧ 4 ≤ v 6 ∧ v 6 ≤ 16 ∧ (c.part = 0xFF → v 1 = 0) ∧ v 7 < vecLimit (v 1) ∧ (e.sqOn (v 0) = true ∨
     e.cqOn (v 0) = true)) ∧
  (∃ (st : State) (q : QueueN) (c : FetchedCmd) (e : Dev), st.dev.sys.railsUp = true ∧
   let spec := [PKind.num 2, .num 1, .num 1, .num 8, .num 1, .num 8, .num 1, .num 2, .num 1, .num 1]
   let v := (c.params spec).at
   Accepted st.dev q 0x001 spec c e ∧ v 0 ≠ 0 ∧ v 0 < 16384 ∧ v 1 < 64 ∧ v 2 < 4 ∧ v 3 % 4096 = 0 ∧ 4 ≤ v 4 ∧ v 4 ≤ 16
     ∧ v 5 % 4096 = 0 ∧ 4 ≤ v 6 ∧ v 6 ≤ 16 ∧ (c.part = 0xFF → v 1 = 0) ∧ vecLimit (v 1) ≤ v 7 ∧ c.crit = false) ∧
  (∃ (st : State) (q : QueueN) (c : FetchedCmd) (e : Dev), st.dev.sys.railsUp = true ∧
   let n := (c.params [.num 2]).at 0
   Accepted st.dev q 0x004 [.num 2] c e ∧ n < 16384 ∧ e.sqOn n = true) :=
  ⟨⟨on (got (idleDev.setReg (rHqSq 1) (2 ^ 4 + 4 * 2 ^ 7)) (command 0x001 0 0 [(2, 1), (1, 63), (1, 3), (8, 0x1000),
    (1, 16), (8, 0x2000), (1, 4), (2, 15), (1, 255), (1, 255)])), 2, command 0x001 0 0 [(2, 1), (1, 63), (1, 3), (8,
    0x1000), (1, 16), (8, 0x2000), (1, 4), (2, 15), (1, 255), (1, 255)], went (idleDev.setReg (rHqSq 1) (2 ^ 4 + 4 * 2 ^
    7)) (command 0x001 0 0 [(2, 1), (1, 63), (1, 3), (8, 0x1000), (1, 16), (8, 0x2000), (1, 4), (2, 15), (1, 255), (1,
    255)]), by decide +kernel, accepted_plain (by decide +kernel), by decide +kernel⟩,
    ⟨on (got idleDev (command 0x001 0 0 [(2, 1), (1, 63), (1, 3), (8, 0x1000), (1, 16), (8, 0x2000), (1, 4), (2, 16),
      (1, 255), (1, 255)])), 2, command 0x001 0 0 [(2, 1), (1, 63), (1, 3), (8, 0x1000), (1, 16), (8, 0x2000), (1, 4),
      (2, 16), (1, 255), (1, 255)], went idleDev (command 0x001 0 0 [(2, 1), (1, 63), (1, 3), (8, 0x1000), (1, 16), (8,
      0x2000), (1, 4), (2, 16), (1, 255), (1, 255)]), by decide +kernel, accepted_plain (by decide +kernel), by
      decide +kernel⟩,
    ⟨on (got (idleDev.setReg (rHqSq 16383) (2 ^ 4 + 4 * 2 ^ 7)) (command 0x004 0 0 [(2, 16383)])), 2, command 0x004 0
      0 [(2, 16383)], went (idleDev.setReg (rHqSq 16383) (2 ^ 4 + 4 * 2 ^ 7)) (command 0x004 0 0 [(2, 16383)]), by
      decide +kernel, accepted_plain (by decide +kernel), by decide +kernel⟩⟩

set_option maxRecDepth 20000 in
theorem test_meets_ProgramsLoadAndStart :
  (∃ (st : State) (q : QueueN) (c : FetchedCmd) (e : Dev) (images : List (List Byte)), st.dev.sys.railsUp = true ∧
   let p := c.part
   p < 16 ∧ e.partValid p = true ∧ e.live p = true ∧ Accepted st.dev q 0x101 [.list [8]] c e ∧ ((c.params [.list
     [8]]).lst 0).length = (e.ctxsOf p).length ∧ images.length = (e.ctxsOf p).length ∧ e.busyCtx p = none ∧
     e.checkImages p images = none) ∧
  (∃ (st : State) (q : QueueN) (c : FetchedCmd) (e : Dev), st.dev.sys.railsUp = true ∧
   let p := c.part
   p < 16 ∧ e.partValid p = true ∧ e.live p = true ∧ Accepted st.dev q 0x102 [] c e ∧ e.quiet p = true) ∧
  (∃ (st : State) (q : QueueN) (c : FetchedCmd) (e : Dev), st.dev.sys.railsUp = true ∧
   let p := c.part
   p < 16 ∧ e.partValid p = true ∧ e.live p = true ∧ Accepted st.dev q 0x104 [] c e ∧ c.profile ≠ 0 ∧ c.profile ≤
     0x11) ∧
  (∃ (st : State) (q : QueueN) (c : FetchedCmd) (e : Dev), st.dev.sys.railsUp = true ∧
   let h := (c.params [.num 1]).at 0
   Accepted st.dev q 0x103 [.num 1] c e ∧ h < 2) :=
  ⟨⟨on (got idleDev (command 0x101 0 0 [] (lay [(4, 1), (8, 0x9000)]))), 2, command 0x101 0 0 [] (lay [(4, 1), (8,
    0x9000)]), went idleDev (command 0x101 0 0 [] (lay [(4, 1), (8, 0x9000)])), [haltImage], by decide +kernel, by
    decide +kernel, by decide +kernel, by decide +kernel, accepted_plain (by decide +kernel), by decide +kernel⟩,
    ⟨on (got idleDev (command 0x102 0 0 [])), 2, command 0x102 0 0 [], went idleDev (command 0x102 0 0 []), by
      decide +kernel, by decide +kernel, by decide +kernel, by decide +kernel, accepted_plain (by decide +kernel), by
      decide +kernel⟩,
    ⟨on (got idleDev (command 0x104 0 4 [(1, 1), (8, 0x9000)] (lay [(1, 2), (1, 3), (1, 0), (1, 0), (2, 0), (2, 0),
      (4, 64), (8, 0x1000), (8, 0x2000)]))), 2, command 0x104 0 4 [(1, 1), (8, 0x9000)] (lay [(1, 2), (1, 3), (1, 0),
      (1, 0), (2, 0), (2, 0), (4, 64), (8, 0x1000), (8, 0x2000)]), went idleDev (command 0x104 0 4 [(1, 1), (8, 0x9000)]
      (lay [(1, 2), (1, 3), (1, 0), (1, 0), (2, 0), (2, 0), (4, 64), (8, 0x1000), (8, 0x2000)])), by decide +kernel, by
      decide +kernel, by decide +kernel, by decide +kernel, accepted_plain (by decide +kernel), by decide +kernel⟩,
    ⟨on (got idleDev (command 0x103 0 0 [(1, 1)])), 2, command 0x103 0 0 [(1, 1)], went idleDev (command 0x103 0 0
      [(1, 1)]), by decide +kernel, accepted_plain (by decide +kernel), by decide +kernel⟩⟩

theorem test_meets_NumericEventCommands :
  (∃ (st : State) (q : QueueN) (c : FetchedCmd) (e : Dev), st.dev.sys.railsUp = true ∧
   let p := c.part
   p < 16 ∧ e.partValid p = true ∧
   let spec := [PKind.num 1, .num 1, .num 1, .num 8, .num 1]
   let v := (c.params spec).at
   Accepted st.dev q 0x201 spec c e ∧ v 0 = 1 ∧ v 1 < 256 ∧ v 2 < 2 ∧ v 3 < 2 ^ 48 ∧ v 3 % 4096 = 0 ∧ 4 ≤ v 4 ∧ v 4 ≤
     20 ∧ e.flag (rNevRcfg p) 31 = false) ∧
  (∃ (st : State) (q : QueueN) (c : FetchedCmd) (e : Dev), st.dev.sys.railsUp = true ∧
   let p := c.part
   p < 16 ∧ e.partValid p = true ∧ e.live p = true ∧ Accepted st.dev q 0x202 [] c e) ∧
  (∃ (st : State) (q : QueueN) (c : FetchedCmd) (e : Dev), st.dev.sys.railsUp = true ∧
   let p := c.part
   p < 16 ∧ e.partValid p = true ∧ e.live p = true ∧ e.quiet p = true ∧ Accepted st.dev q 0x203 [.num 8, .num 4] c e) ∧
  (∃ (st : State) (r : PartN), st.dev.sys.railsUp = true ∧ ∃ b bs, alGet [] st.dev.nevRing r.val = b :: bs ∧
   let d := st.dev
   let head := d.reg (rNevRhead r.val)
   let n := 2 ^ d.fld (rNevRcfg r.val) 4 0
   diff32 head (d.reg (rNevRtail r.val)) ≠ n) ∧
  (∃ (st : State) (r : PartN), st.dev.sys.railsUp = true ∧ ∃ b bs, alGet [] st.dev.nevRing r.val = b :: bs ∧
   let d := st.dev
   let head := d.reg (rNevRhead r.val)
   let n := 2 ^ d.fld (rNevRcfg r.val) 4 0
   diff32 head (d.reg (rNevRtail r.val)) = n) :=
  ⟨⟨on (got idleDev (command 0x201 0 0 [(1, 1), (1, 255), (1, 1), (8, 0x1000), (1, 20)])), 2, command 0x201 0 0 [(1,
    1), (1, 255), (1, 1), (8, 0x1000), (1, 20)], went idleDev (command 0x201 0 0 [(1, 1), (1, 255), (1, 1), (8, 0x1000),
    (1, 20)]), by decide +kernel, by decide +kernel, by decide +kernel, accepted_plain (by decide +kernel), by
    decide +kernel⟩,
    ⟨on (got idleDev (command 0x202 0 0 [])), 2, command 0x202 0 0 [], went idleDev (command 0x202 0 0 []), by
      decide +kernel, by decide +kernel, by decide +kernel, by decide +kernel, accepted_plain (by decide +kernel)⟩,
    ⟨on (got idleDev (command 0x203 0 0 [(8, 0x123456789ABCDEF0), (4, 77)])), 2, command 0x203 0 0 [(8,
      0x123456789ABCDEF0), (4, 77)], went idleDev (command 0x203 0 0 [(8, 0x123456789ABCDEF0), (4, 77)]), by
      decide +kernel, by decide +kernel, by decide +kernel, by decide +kernel, by decide +kernel, accepted_plain (by
      decide +kernel)⟩,
    ⟨on ({ idleDev with nevRing := [(3, [(List.replicate 32 1)])] }.setReg (rNevRcfg 3) 4), 3, by decide +kernel,
      List.replicate 32 1, [], by decide +kernel, by decide +kernel⟩,
    ⟨on (({ idleDev with nevRing := [(3, [(List.replicate 32 1)])] }.setReg (rNevRcfg 3) 4).setReg (rNevRhead 3) 16),
      3, by decide +kernel, List.replicate 32 1, [], by decide +kernel, by decide +kernel⟩⟩

theorem test_meets_MemoryCommands :
  (∃ (st : State) (q : QueueN) (c : FetchedCmd) (e : Dev), st.dev.sys.railsUp = true ∧
   let v := (c.params [.num 1, .num 1]).at
   Accepted st.dev q 0x301 [.num 1, .num 1] c e ∧ v 0 ≤ 168 ∧ 2 ≤ v 1 ∧ v 1 < 256) ∧
  (∃ (st : State) (q : QueueN) (c : FetchedCmd) (e : Dev), st.dev.sys.railsUp = true ∧
   let spec := [PKind.num 1, .num 1, .num 1, .num 8]
   let v := (c.params spec).at
   let p := c.part
   Accepted st.dev q 0x302 spec c e ∧ p < 16 ∧ e.partValid p = true ∧ e.quiet p = true ∧ v 0 < 16 ∧ v 1 < 4 ∧ (v 1 ≠ 0
     → 12 ≤ v 2 ∧ v 2 ≤ 43)) ∧
  (∃ (st : State) (q : QueueN) (c : FetchedCmd) (e : Dev), st.dev.sys.railsUp = true ∧
   let spec := [PKind.num 1, .num 1, .num 1, .num 1, .num 2, .num 1]
   let v := (c.params spec).at
   let b := bankKey (v 0) (v 1) (v 2) (v 3)
   Accepted st.dev q 0x303 spec c e ∧ v 0 < 8 ∧ v 1 < 32 ∧ v 2 < 8 ∧ v 3 < 16 ∧ v 4 < 24576 ∧ v 5 < 2 ∧ e.pcOk (v 0)
     (v 1) = true ∧ e.mem.spares.get b < 4 ∧ (∀ r ∈ e.mem.repairing, r.1 ≠ chanKey (v 0) (v 1))) ∧
  (∃ (st : State) (c : FetchedCmd) (x : Fin 8) (pc : Fin 32), st.dev.sys.railsUp = true ∧ ∃ s hard,
    st.dev.mem.repairing = [(chanKey x.val pc.val, s, hard)] ∧ st.dev.fetchedCmd s = some c) ∧
  (∃ (st : State) (q : QueueN) (c : FetchedCmd) (e : Dev), st.dev.sys.railsUp = true ∧
   let k := (c.params [.num 1]).at 0
   Accepted st.dev q 0x304 [.num 1] c e ∧ k < 8) :=
  ⟨⟨on (got idleDev (command 0x301 0 0 [(1, 168), (1, 2)])), 2, command 0x301 0 0 [(1, 168), (1, 2)], went idleDev
    (command 0x301 0 0 [(1, 168), (1, 2)]), by decide +kernel, accepted_plain (by decide +kernel), by decide +kernel⟩,
    ⟨on (got idleDev (command 0x302 0 0 [(1, 15), (1, 3), (1, 43), (8, 0x1000)])), 2, command 0x302 0 0 [(1, 15), (1,
      3), (1, 43), (8, 0x1000)], went idleDev (command 0x302 0 0 [(1, 15), (1, 3), (1, 43), (8, 0x1000)]), by
      decide +kernel, accepted_plain (by decide +kernel), by decide +kernel⟩,
    ⟨on (got (idleDev.setReg (rMemStk 7) (2 ^ 32 - 1)) (command 0x303 0 0 [(1, 7), (1, 31), (1, 7), (1, 15), (2,
      24575), (1, 1)])), 2, command 0x303 0 0 [(1, 7), (1, 31), (1, 7), (1, 15), (2, 24575), (1, 1)], went
      (idleDev.setReg (rMemStk 7) (2 ^ 32 - 1)) (command 0x303 0 0 [(1, 7), (1, 31), (1, 7), (1, 15), (2, 24575), (1,
      1)]), by decide +kernel, accepted_plain (by decide +kernel), by decide +kernel⟩,
    ⟨on (got { idleDev with mem := { idleDev.mem with repairing := [(chanKey 7 31, 6, 1)] } } (command 0x303 0 0 [(1,
      7), (1, 31), (1, 7), (1, 15), (2, 24575), (1, 1)])), command 0x303 0 0 [(1, 7), (1, 31), (1, 7), (1, 15), (2,
      24575), (1, 1)], 7, 31, by decide +kernel, 6, 1, by decide +kernel⟩,
    ⟨on (got idleDev (command 0x304 0 0 [(1, 7)])), 2, command 0x304 0 0 [(1, 7)], went idleDev (command 0x304 0 0
      [(1, 7)]), by decide +kernel, accepted_plain (by decide +kernel), by decide +kernel⟩⟩

theorem test_meets_PortCommandsSetPorts :
  (∃ (st : State) (q : QueueN) (c : FetchedCmd) (e : Dev), st.dev.sys.railsUp = true ∧
   let spec := [PKind.num 1, .num 1, .num 1, .num 2, .num 1, .num 1]
   let v := (c.params spec).at
   let n := v 0
   Accepted st.dev q 0x401 spec c e ∧ n < 48 ∧ v 1 < 4 ∧ v 2 < 2 ∧ 1518 ≤ v 3 ∧ v 3 ≤ 9216 ∧ v 4 < 4 ∧ v 5 < 2 ∧
     e.portMine (began c) n = true ∧ e.ganged n = true) ∧
  (∃ (st : State) (q : QueueN) (c : FetchedCmd) (e : Dev), st.dev.sys.railsUp = true ∧
   let spec := [PKind.num 1, .num 1, .num 1, .num 2, .num 1, .num 1]
   let v := (c.params spec).at
   let n := v 0
   Accepted st.dev q 0x401 spec c e ∧ n < 48 ∧ v 1 < 4 ∧ v 2 < 2 ∧ 1518 ≤ v 3 ∧ v 3 ≤ 9216 ∧ v 4 < 4 ∧ v 5 < 2 ∧
     e.portMine (began c) n = true ∧ e.ganged n = false ∧ e.modeOk n (v 1) = true ∧ e.linkUp n = false ∧ e.linkUp (n +
     1) = false) ∧
  (∃ (st : State) (q : QueueN) (c : FetchedCmd) (e : Dev), st.dev.sys.railsUp = true ∧
   let spec := [PKind.num 1, .num 1, .num 2, .num 2, .num 2]
   let v := (c.params spec).at
   Accepted st.dev q 0x402 spec c e ∧ v 0 < 48 ∧ v 2 < 4096 ∧ v 3 < 4096 ∧ e.portMine (began c) (v 0) = true) ∧
  (∃ (st : State) (q : QueueN) (c : FetchedCmd) (e : Dev) (m : PdelayMeas), st.dev.sys.railsUp = true ∧
   let n := (c.params [.num 1]).at 0
   Accepted st.dev q 0x403 [.num 1] c e ∧ n < 48 ∧ e.portMine (began c) n = true ∧ e.ganged n = false ∧ 48 ≤
     m.roundTrips.length) ∧
  (∃ (st : State) (q : QueueN) (c : FetchedCmd) (e : Dev), st.dev.sys.railsUp = true ∧ c.part < 16 ∧ e.partValid
    c.part = true ∧
   let spec := [PKind.bytes 16, .num 1, .num 8, .num 2, .num 1, .list [8, 1]]
   let v := (c.params spec).at
   let ws := (c.params spec).lst 0
   Accepted st.dev q 0x404 spec c e ∧ v 1 < 2 ∧ v 2 < 2 ^ 48 ∧ v 3 < 4096 ∧ v 4 < 64 ∧ ws.length ≤ 4 ∧ (∀ w ∈ ws,
     w.getD 0 0 < 2 ^ 48 ∧ (w.getD 1 0 = 0 ∨ 12 ≤ w.getD 1 0 ∧ w.getD 1 0 ≤ 43))) ∧
  (∃ (st : State) (q : QueueN) (c : FetchedCmd) (e : Dev), st.dev.sys.railsUp = true ∧ c.part < 16 ∧ e.partValid
    c.part = true ∧
   let spec := [PKind.num 2, .bytes 16, .num 1, .num 8, .num 2, .num 2]
   let v := (c.params spec).at
   Accepted st.dev q 0x405 spec c e ∧ v 0 < 16384 ∧ v 2 < 2 ∧ v 3 < 2 ^ 48 ∧ v 4 < 4096 ∧ (e.flag (rBrvPeer (v 0)) 255
     = true → e.fld (rBrvPeer (v 0)) 253 250 = c.part)) ∧
  (∃ (st : State) (q : QueueN) (c : FetchedCmd) (e : Dev), st.dev.sys.railsUp = true ∧
   let spec := [PKind.num 2, .num 4, .num 4, .num 1, .num 2, .num 1]
   let v := (c.params spec).at
   Accepted st.dev q 0x408 spec c e ∧ v 1 < 2 ^ 24 ∧ v 2 < 2 ^ 24 ∧ v 3 < 48 ∧ (v 4 = 1024 ∨ v 4 = 2048 ∨ v 4 = 4096)
     ∧ v 5 < 8 ∧ e.qp (v 0) = none) :=
  ⟨⟨on (got (idleDev.setReg (rPortCfg 46) (3 * 2 ^ 28)) (command 0x401 0xFF 0 [(1, 47), (1, 2), (1, 1), (2, 9216), (1,
    3), (1, 1)])), 2, command 0x401 0xFF 0 [(1, 47), (1, 2), (1, 1), (2, 9216), (1, 3), (1, 1)], went (idleDev.setReg
    (rPortCfg 46) (3 * 2 ^ 28)) (command 0x401 0xFF 0 [(1, 47), (1, 2), (1, 1), (2, 9216), (1, 3), (1, 1)]), by
    decide +kernel, accepted_plain (by decide +kernel), by decide +kernel⟩,
    ⟨on (got idleDev (command 0x401 0xFF 0 [(1, 46), (1, 3), (1, 1), (2, 9216), (1, 3), (1, 1)])), 2, command 0x401
      0xFF 0 [(1, 46), (1, 3), (1, 1), (2, 9216), (1, 3), (1, 1)], went idleDev (command 0x401 0xFF 0 [(1, 46), (1, 3),
      (1, 1), (2, 9216), (1, 3), (1, 1)]), by decide +kernel, accepted_plain (by decide +kernel), by decide +kernel⟩,
    ⟨on (got idleDev (command 0x402 0xFF 0 [(1, 47), (1, 3), (2, 20), (2, 4095), (2, 4095)])), 2, command 0x402 0xFF 0
      [(1, 47), (1, 3), (2, 20), (2, 4095), (2, 4095)], went idleDev (command 0x402 0xFF 0 [(1, 47), (1, 3), (2, 20),
      (2, 4095), (2, 4095)]), by decide +kernel, accepted_plain (by decide +kernel), by decide +kernel⟩,
    ⟨on (got idleDev (command 0x403 0xFF 0 [(1, 47)])), 2, command 0x403 0xFF 0 [(1, 47)], went idleDev (command 0x403
      0xFF 0 [(1, 47)]), ⟨List.replicate 64 20000, 5, 3⟩, by decide +kernel, accepted_plain (by decide +kernel), by
      decide +kernel⟩,
    ⟨on (got idleDev (command 0x404 0 0 [(8, 0x1122), (8, 0x3344), (1, 1), (8, 0xFFFFFFFFFFFF), (2, 4095), (1, 63)]
      (lay [(4, 4), (8, 0), (1, 43), (8, 0), (1, 12), (8, 0x1000), (1, 0), (8, 0), (1, 20)]))), 2, command 0x404 0 0
      [(8, 0x1122), (8, 0x3344), (1, 1), (8, 0xFFFFFFFFFFFF), (2, 4095), (1, 63)] (lay [(4, 4), (8, 0), (1, 43), (8, 0),
      (1, 12), (8, 0x1000), (1, 0), (8, 0), (1, 20)]), went idleDev (command 0x404 0 0 [(8, 0x1122), (8, 0x3344), (1,
      1), (8, 0xFFFFFFFFFFFF), (2, 4095), (1, 63)] (lay [(4, 4), (8, 0), (1, 43), (8, 0), (1, 12), (8, 0x1000), (1, 0),
      (8, 0), (1, 20)])), by decide +kernel, by decide +kernel, by decide +kernel, accepted_plain (by decide +kernel),
      by decide +kernel⟩,
    ⟨on (got idleDev (command 0x405 0 0 [(2, 16383), (8, 0x1122), (8, 0x3344), (1, 1), (8, 0xFFFFFFFFFFFF), (2, 4095),
      (2, 0xFFFF)])), 2, command 0x405 0 0 [(2, 16383), (8, 0x1122), (8, 0x3344), (1, 1), (8, 0xFFFFFFFFFFFF), (2,
      4095), (2, 0xFFFF)], went idleDev (command 0x405 0 0 [(2, 16383), (8, 0x1122), (8, 0x3344), (1, 1), (8,
      0xFFFFFFFFFFFF), (2, 4095), (2, 0xFFFF)]), by decide +kernel, by decide +kernel, by decide +kernel, accepted_plain
      (by decide +kernel), by decide +kernel⟩,
    ⟨on (got idleDev (command 0x408 0 0 [(2, 7), (4, 0xFFFFFF), (4, 5), (1, 47), (2, 4096), (1, 7)])), 2, command
      0x408 0 0 [(2, 7), (4, 0xFFFFFF), (4, 5), (1, 47), (2, 4096), (1, 7)], went idleDev (command 0x408 0 0 [(2, 7),
      (4, 0xFFFFFF), (4, 5), (1, 47), (2, 4096), (1, 7)]), by decide +kernel, accepted_plain (by decide +kernel), by
      decide +kernel⟩⟩

theorem test_meets_GroupCommandsSetGroups :
  (∃ (st : State) (q : QueueN) (c : FetchedCmd) (e : Dev), st.dev.sys.railsUp = true ∧
   let p := c.part
   p < 16 ∧ e.partValid p = true ∧
   let spec := [PKind.num 1, .num 4, .num 8, .num 2, .num 2, .num 1, .num 8, .num 2, .num 1, .num 4]
   let v := (c.params spec).at
   let g := p * 256 + v 0
   let d := (e.setReg (rBrvGid g) (v 1)).writeGroup g (v 9 * 2 ^ 192 + v 5 * 2 ^ 177 + v 8 * 2 ^ 168 + v 7 * 2 ^ 152 +
     v 6 * 2 ^ 96 + v 2 * 2 ^ 32 + v 4 * 2 ^ 16 + v 3)
   Accepted st.dev q 0x406 spec c e ∧ v 2 < 2 ^ 48 ∧ v 2 % 64 = 0 ∧ v 3 < 2 ^ 16 ∧ v 4 < 2 ^ 16 ∧ v 5 < 2 ∧ v 6 < 2 ^
     48 ∧ v 7 < 2 ^ 16 ∧ v 8 < 3 ∧ 100 ≤ v 9 ∧ v 9 ≤ 10000000 ∧ e.grpOn g = false ∧ d.groupRefused g = false) ∧
  (∃ (st : State) (q : QueueN) (c : FetchedCmd) (e : Dev), st.dev.sys.railsUp = true ∧
   let p := c.part
   p < 16 ∧ e.partValid p = true ∧
   let g := p * 256 + (c.params [.num 1]).at 0
   let d := e.setFld (rBrvGrp g) 176 176 0
   Accepted st.dev q 0x407 [.num 1] c e ∧ (∀ j ∈ e.brv.jobs, j.g ≠ g) ∧ d.groupRefused g = false) ∧
  (∃ (st : State) (q : QueueN) (c : FetchedCmd) (e : Dev), st.dev.sys.railsUp = true ∧
   let p := c.part
   p < 16 ∧ e.partValid p = true ∧
   let spec := [PKind.list [1, 1, 1, 8], .list [1, 1], .list [8]]
   let l := (c.params spec).lst
   let cuts := (l 0).map fun x => ({ stage := x.getD 0 0, cut := x.getD 1 0, want := x.getD 2 0, ports := x.getD 3 0 }
     : Cut)
   let plan := planCuts cuts (e.sortedPorts p)
   let needs := (l 2).map fun x => x.getD 0 0
   let m := needs.foldl max 0
   Accepted st.dev q 0x409 spec c e ∧ (∀ x ∈ l 0, x.getD 1 0 < 4) ∧ (∀ x ∈ l 1, x.getD 0 0 < 5) ∧ (∀ x ∈ plan, x.2 ≠
     []) ∧ m ≤ e.allocatable p ∧ (∀ x ∈ l 1, e.grpOn (p * 256 + x.getD 1 0) = false)) ∧
  (∃ (st : State) (q : QueueN) (c : FetchedCmd) (e : Dev), st.dev.sys.railsUp = true ∧
   let p := c.part
   p < 16 ∧ e.partValid p = true ∧
   let spec := [PKind.num 1, .num 8, .num 8, .num 1, .num 1]
   let v := (c.params spec).at
   let g := p * 256 + v 0
   let a := v 1
   let len := v 2
   let epoch := e.grpEpoch g
   Accepted st.dev q 0x40A spec c e ∧ len % 64 = 0 ∧ 1 ≤ v 3 ∧ v 3 ≤ 16 ∧ 1 ≤ v 4 ∧ v 4 ≤ 4 ∧ e.grpOn g = true ∧
     e.grpKey g ≠ 0xFFFF ∧ e.grpMem g = v 3 + v 4 ∧ e.brv.aborted.contains (g, epoch) = false ∧ e.grpFault g = false ∧
     (e.slotFor (e.grpKey g) p 4).isSome = true ∧ epoch < 0xFFFFFFFF ∧ e.firstBad p a len = none) ∧
  (∃ (st : State) (c : FetchedCmd) (e : Dev), st.dev.sys.railsUp = true ∧
   let p := c.part
   p < 16 ∧ e.partValid p = true ∧ ∃ (x : BarrovJob) (y : ParityRun) (own : List Byte) (before : Option (List Byte))
     (b : Nat),
   let d := st.dev
   let rank := d.grpRank x.g
   x.parity = some y ∧ x.own = some own ∧ d.fromPrev x = some before ∧ own.length = x.len ∧ y.n ≤ 16 ∧ y.r ≤ 4 ∧ rank
     < y.n ∧ b < y.n ∧ rank < b ∧ messageLen x (d.grpMem x.g) rank b ≠ 0) :=
  ⟨⟨on (got ({ idleDev.setReg (rCusPol 0) (2 ^ 63) with rim := [(0x1000, 0xFF), (0x1001, 0xFF)] }) (command 0x406 0 0
    [(1, 255), (4, 9), (8, 0x1000), (2, 1), (2, 0), (1, 0), (8, 0), (2, 0xFFFF), (1, 2), (4, 10000000)])), 2, command
    0x406 0 0 [(1, 255), (4, 9), (8, 0x1000), (2, 1), (2, 0), (1, 0), (8, 0), (2, 0xFFFF), (1, 2), (4, 10000000)], went
    ({ idleDev.setReg (rCusPol 0) (2 ^ 63) with rim := [(0x1000, 0xFF), (0x1001, 0xFF)] }) (command 0x406 0 0 [(1, 255),
    (4, 9), (8, 0x1000), (2, 1), (2, 0), (1, 0), (8, 0), (2, 0xFFFF), (1, 2), (4, 10000000)]), by decide +kernel, by
    decide +kernel, by decide +kernel, accepted_plain (by decide +kernel), by decide +kernel⟩,
    ⟨on (got
      ({ ((idleDev.setReg (rCusPol 0) (2 ^ 63)).setReg (rBrvGrp 255) (1 + 0x1000 * 2 ^ 32 + 0xFFFF * 2 ^ 152 + 2 ^ 176 + 7 * 2 ^ 224)).setReg (rBrvGid 255) 9 with rim := [(0x1000, 0xFF), (0x1001, 0xFF)] })
      (command 0x407 0 0 [(1, 255)])), 2, command 0x407 0 0 [(1, 255)], went
      ({ ((idleDev.setReg (rCusPol 0) (2 ^ 63)).setReg (rBrvGrp 255) (1 + 0x1000 * 2 ^ 32 + 0xFFFF * 2 ^ 152 + 2 ^ 176 + 7 * 2 ^ 224)).setReg (rBrvGid 255) 9 with rim := [(0x1000, 0xFF), (0x1001, 0xFF)] })
      (command 0x407 0 0 [(1, 255)]), by decide +kernel, by decide +kernel, by decide +kernel, accepted_plain (by
      decide +kernel), by decide +kernel⟩,
    ⟨on (got ((((((idleDev.setReg (rPrtPorts 0) 0xF0).setReg (rPortStatus 5) (2 ^ 31)).setReg (rPortDist 5) (2 ^
      45)).setReg (rPortStatus 6) (2 ^ 31)).setReg (rPortDist 6) (2 ^ 45))) (command 0x409 0 0 [] (lay [(4, 1), (1, 1),
      (1, 3), (1, 2), (8, 0xF0), (4, 1), (1, 4), (1, 7), (4, 2), (8, 1000), (8, 0x300000000)]))), 2, command 0x409 0 0
      [] (lay [(4, 1), (1, 1), (1, 3), (1, 2), (8, 0xF0), (4, 1), (1, 4), (1, 7), (4, 2), (8, 1000), (8, 0x300000000)]),
      went ((((((idleDev.setReg (rPrtPorts 0) 0xF0).setReg (rPortStatus 5) (2 ^ 31)).setReg (rPortDist 5) (2 ^
      45)).setReg (rPortStatus 6) (2 ^ 31)).setReg (rPortDist 6) (2 ^ 45))) (command 0x409 0 0 [] (lay [(4, 1), (1, 1),
      (1, 3), (1, 2), (8, 0xF0), (4, 1), (1, 4), (1, 7), (4, 2), (8, 1000), (8, 0x300000000)])), by decide +kernel, by
      decide +kernel, by decide +kernel, accepted_plain (by decide +kernel), by decide +kernel⟩,
    ⟨on (got (((((idleDev.setReg (rBrvGrp 255) (17 + 16 * 2 ^ 16 + 0x1000 * 2 ^ 32 + 2 ^ (96 + 47) + 5 * 2 ^ 152 + 2 ^
      176 + 7 * 2 ^ 224)).setReg (rBrvGid 255) 9).setReg (rPortStatus 47) (2 ^ 31))).setReg (rCusSlot 5) (2 ^ 63 + 4 * 2
      ^ 53)) (command 0x40A 0 0 [(1, 255), (8, 0x2000), (8, 128), (1, 16), (1, 1)])), 2, command 0x40A 0 0 [(1, 255),
      (8, 0x2000), (8, 128), (1, 16), (1, 1)], went (((((idleDev.setReg (rBrvGrp 255) (17 + 16 * 2 ^ 16 + 0x1000 * 2 ^
      32 + 2 ^ (96 + 47) + 5 * 2 ^ 152 + 2 ^ 176 + 7 * 2 ^ 224)).setReg (rBrvGid 255) 9).setReg (rPortStatus 47) (2 ^
      31))).setReg (rCusSlot 5) (2 ^ 63 + 4 * 2 ^ 53)) (command 0x40A 0 0 [(1, 255), (8, 0x2000), (8, 128), (1, 16), (1,
      1)]), by decide +kernel, by decide +kernel, by decide +kernel, accepted_plain (by decide +kernel), by
      decide +kernel⟩,
    ⟨on (got (idleDev.setReg (rBrvGrp 255) (3 + 0x1000 * 2 ^ 32 + 2 ^ 176)) (command 0x40A 0 0 [])), command 0x40A 0 0
      [], went (idleDev.setReg (rBrvGrp 255) (3 + 0x1000 * 2 ^ 32 + 2 ^ 176)) (command 0x40A 0 0 []), by decide +kernel,
      by decide +kernel, by decide +kernel,
      { g := 255, epoch := 7, op := 6, c := c0, o := barop, src := 0, dst := 0, len := 4, bidx := 0, icount := 0, waiting := false, begun := true, data := true, heard := [], met := [], own := some ([1, 2, 3, 4]), parity := some ({ seq := 6, n := 2, r := 1 }) },
      { seq := 6, n := 2, r := 1 }, [1, 2, 3, 4], none, 1, by decide +kernel, by decide +kernel⟩⟩

theorem test_meets_FramesOfTheTransport :
  (∃ (st : State) (f : BarrovFrame) (g : Nat) (s : StripeSt), st.dev.sys.railsUp = true ∧
   let p := f.p.val
   let n := f.port.val
   let epoch := f.hdr.epoch.toNat
   let seq := f.hdr.seq.toNat
   let id := frameStripe g f
   st.dev.takes f = true ∧ st.dev.groupOf p f.hdr.gid.toNat = some g ∧ frameOk f (st.dev.grpPayload g) = true ∧ ∃ j
     bs, st.dev.job g epoch = some j ∧ st.dev.unseal (st.dev.grpKey g) p 1 f j.data = some bs ∧ j.waiting = false ∧
     st.dev.noBuffer n = false ∧
   let s := (st.dev.stripe id).getD (StripeSt.recv id n)
   let due := bit f.hdr.flags.toNat 2 || decide (16 ≤ s.sinceAck + 1)
   seq = s.expect ∧ due = false) ∧
  (∃ (st : State) (f : BarrovFrame) (g : Nat) (s : StripeSt), st.dev.sys.railsUp = true ∧
   let p := f.p.val
   let n := f.port.val
   let epoch := f.hdr.epoch.toNat
   let seq := f.hdr.seq.toNat
   let id := frameStripe g f
   st.dev.takes f = true ∧ st.dev.groupOf p f.hdr.gid.toNat = some g ∧ frameOk f (st.dev.grpPayload g) = true ∧ ∃ j
     bs, st.dev.job g epoch = some j ∧ st.dev.unseal (st.dev.grpKey g) p 1 f j.data = some bs ∧ j.waiting = false ∧
     st.dev.noBuffer n = false ∧
   let s := (st.dev.stripe id).getD (StripeSt.recv id n)
   let due := bit f.hdr.flags.toNat 2 || decide (16 ≤ s.sinceAck + 1)
   seq = s.expect ∧ due = true) ∧
  (∃ (st : State) (f : BarrovFrame) (g : Nat) (s : StripeSt), st.dev.sys.railsUp = true ∧
   let p := f.p.val
   let n := f.port.val
   let epoch := f.hdr.epoch.toNat
   let seq := f.hdr.seq.toNat
   let id := frameStripe g f
   let prio := st.dev.fld rBrvCfg 19 16
   let rest (n : Nat) : Prop := n < 48 ∧ (st.dev.port n).ignoring.contains prio = false
   st.dev.takes f = true ∧ st.dev.groupOf p f.hdr.gid.toNat = some g ∧ frameOk f (st.dev.grpPayload g) = true ∧ ∃ j
     bs, st.dev.job g epoch = some j ∧ st.dev.unseal (st.dev.grpKey g) p 1 f j.data = some bs ∧ j.waiting = false ∧
     st.dev.noBuffer n = false ∧
   let s := (st.dev.stripe id).getD (StripeSt.recv id n)
   s.expect < seq ∧ rest n) ∧
  (∃ (st : State) (f : BarrovFrame) (g : Nat), st.dev.sys.railsUp = true ∧
   let p := f.p.val
   let n := f.port.val
   let epoch := f.hdr.epoch.toNat
   let prio := st.dev.fld rBrvCfg 19 16
   let rest (n : Nat) : Prop := n < 48 ∧ (st.dev.port n).ignoring.contains prio = false
   st.dev.takes f = true ∧ st.dev.groupOf p f.hdr.gid.toNat = some g ∧ frameOk f (st.dev.grpPayload g) = true ∧
     st.dev.job g epoch = none ∧ (st.dev.unseal (st.dev.grpKey g) p 1 f false).isSome = true ∧ rest n ∧ st.dev.grpEpoch
     g ≤ epoch) ∧
  (∃ (st : State) (f : BarrovFrame) (g : Nat), st.dev.sys.railsUp = true ∧
   let p := f.p.val
   let n := f.port.val
   let epoch := f.hdr.epoch.toNat
   let prio := st.dev.fld rBrvCfg 19 16
   let rest (n : Nat) : Prop := n < 48 ∧ (st.dev.port n).ignoring.contains prio = false
   st.dev.takes f = true ∧ st.dev.groupOf p f.hdr.gid.toNat = some g ∧ frameOk f (st.dev.grpPayload g) = true ∧
     st.dev.job g epoch = none ∧ (st.dev.unseal (st.dev.grpKey g) p 1 f false).isSome = true ∧ rest n ∧ epoch <
     st.dev.grpEpoch g ∧ st.dev.grpFault g = false) ∧
  (∃ (st : State) (f : BarrovFrame) (g : Nat) (s : StripeSt), st.dev.sys.railsUp = true ∧
   let p := f.p.val
   let seq := f.hdr.seq.toNat
   let id := frameStripe g f
   st.dev.takes f = true ∧ st.dev.groupOf p f.hdr.gid.toNat = some g ∧ frameOk f (st.dev.grpPayload g) = true ∧
     st.dev.stripe id = some s ∧ s.acked < seq ∧ seq ≤ s.frames ∧ bit f.hdr.flags.toNat 3 = false) ∧
  (∃ (st : State) (f : BarrovFrame) (g : Nat) (s : StripeSt), st.dev.sys.railsUp = true ∧
   let p := f.p.val
   let seq := f.hdr.seq.toNat
   let id := frameStripe g f
   st.dev.takes f = true ∧ st.dev.groupOf p f.hdr.gid.toNat = some g ∧ frameOk f (st.dev.grpPayload g) = true ∧
     st.dev.stripe id = some s ∧ s.acked < seq ∧ seq ≤ s.frames ∧ bit f.hdr.flags.toNat 3 = true) ∧
  (∃ (st : State) (f : BarrovFrame) (g : Nat), st.dev.sys.railsUp = true ∧
   let p := f.p.val
   let epoch := f.hdr.epoch.toNat
   st.dev.takes f = true ∧ st.dev.groupOf p f.hdr.gid.toNat = some g ∧ frameOk f (st.dev.grpPayload g) = true ∧ ∃ j,
     st.dev.brv.jobs = [j] ∧ j.g = g ∧ j.epoch = epoch ∧ g / 256 = p) ∧
  (∃ (st : State) (f : BarrovFrame), st.dev.sys.railsUp = true ∧
   let p := f.p.val
   st.dev.takes f = true ∧ frameOk f 4096 = true ∧ uncounted st.dev ∧ st.dev.mem.errs = [] ∧
   let want := st.dev.served p f.hdr.off.toNat f.hdr.plen.toNat
   ∃ k as, st.dev.farKey p f.ip = .ok k ∧ want = some as) ∧
  (∃ (st : State) (f : BarrovFrame), st.dev.sys.railsUp = true ∧
   let p := f.p.val
   st.dev.takes f = true ∧ frameOk f 4096 = true ∧ uncounted st.dev ∧ st.dev.mem.errs = [] ∧
   let want := st.dev.served p f.hdr.off.toNat f.hdr.plen.toNat
   ∃ k, st.dev.farKey p f.ip = .ok k ∧ want = none) ∧
  (∃ (st : State) (f : BarrovFrame), st.dev.sys.railsUp = true ∧
   let p := f.p.val
   st.dev.takes f = true ∧ frameOk f 4096 = true ∧ uncounted st.dev ∧ st.dev.mem.errs = [] ∧ ∃ e, st.dev.farKey p f.ip
     = .error e) ∧
  (∃ (st : State) (f : BarrovFrame), st.dev.sys.railsUp = true ∧
   let p := f.p.val
   let epoch := f.hdr.epoch.toNat
   let seq := f.hdr.seq.toNat
   st.dev.takes f = true ∧ ∃ x a, frameOk f 4096 = true ∧ st.dev.farRead p epoch = some (x, a) ∧ seq ≠ 0) ∧
  (∃ (st : State) (f : BarrovFrame), st.dev.sys.railsUp = true ∧
   let p := f.p.val
   let epoch := f.hdr.epoch.toNat
   let seq := f.hdr.seq.toNat
   st.dev.takes f = true ∧ ∃ x a, frameOk f 4096 = true ∧ st.dev.farRead p epoch = some (x, a) ∧ ∃ bs, seq = 0 ∧
     st.dev.unseal (st.dev.winKey p a) p 8 f false = some bs) ∧
  (∃ (st : State) (f : BarrovFrame), st.dev.sys.railsUp = true ∧
   let p := f.p.val
   let epoch := f.hdr.epoch.toNat
   let seq := f.hdr.seq.toNat
   st.dev.takes f = true ∧ ∃ x a, frameOk f 4096 = true ∧ st.dev.farRead p epoch = some (x, a) ∧ ∃ bs q b, seq = 0 ∧
     st.dev.unseal (st.dev.winKey p a) p 8 f false = some bs ∧ uncounted st.dev ∧ st.dev.mem.errs = [] ∧ x.r.kind =
     .copy ∧ x.r.pieces = [q] ∧ isFar q.src = true ∧ q.rd = 0 ∧ q.got = [] ∧ 0 < q.len ∧ bs.length = q.len ∧ q.dsts =
     [b] ∧ isLs b = false ∧ f.hdr.off.toNat = (st.dev.winTarget p q.src).2 % 2 ^ 48 ∧ (st.dev.ctx x.h x.n).part = p) :=
  ⟨⟨on
    ({ ((idleDev.setReg (rPortCfg 47) (2 ^ 21)).setReg (rBrvGrp 255) (2 + 0x1000 * 2 ^ 32 + 0xFFFF * 2 ^ 152 + 2 ^ 176 + 7 * 2 ^ 224)).setReg (rBrvGid 255) 9 with brv := { idleDev.brv with jobs := [({ g := 255, epoch := 7, op := 2, c := c0, o := barop, src := 0, dst := 0x10000, len := 4096, bidx := 40, icount := 10, waiting := false, begun := true, data := true, heard := [], met := [] })], stripes := [({ StripeSt.recv (⟨255, 7, 1, 0⟩) 47 with frames := 9, acked := 4, expect := 5 })] } }),
    ⟨47, 0, 0, (⟨1, 0, 0, 9, 1, 0, 7, 5, 0, 0, 4, 0⟩), [1, 2, 3, 4], 0⟩, 255,
    { StripeSt.recv (⟨255, 7, 1, 0⟩) 47 with frames := 9, acked := 4, expect := 5 }, by decide +kernel, by
    decide +kernel, by decide +kernel, by decide +kernel,
    { g := 255, epoch := 7, op := 2, c := c0, o := barop, src := 0, dst := 0x10000, len := 4096, bidx := 40, icount := 10, waiting := false, begun := true, data := true, heard := [], met := [] },
    [1, 2, 3, 4], by decide +kernel, by decide +kernel, by decide +kernel, by decide +kernel, by decide +kernel, by
    decide +kernel⟩,
    ⟨on
      ({ ((idleDev.setReg (rPortCfg 47) (2 ^ 21)).setReg (rBrvGrp 255) (2 + 0x1000 * 2 ^ 32 + 0xFFFF * 2 ^ 152 + 2 ^ 176 + 7 * 2 ^ 224)).setReg (rBrvGid 255) 9 with brv := { idleDev.brv with jobs := [({ g := 255, epoch := 7, op := 2, c := c0, o := barop, src := 0, dst := 0x10000, len := 4096, bidx := 40, icount := 10, waiting := false, begun := true, data := true, heard := [], met := [] })], stripes := [({ StripeSt.recv (⟨255, 7, 1, 0⟩) 47 with frames := 9, acked := 4, expect := 5 })] } }),
      ⟨47, 0, 0, (⟨1, 0, 4, 9, 1, 0, 7, 5, 0, 0, 4, 0⟩), [1, 2, 3, 4], 0⟩, 255,
      { StripeSt.recv (⟨255, 7, 1, 0⟩) 47 with frames := 9, acked := 4, expect := 5 }, by decide +kernel, by
      decide +kernel, by decide +kernel, by decide +kernel,
      { g := 255, epoch := 7, op := 2, c := c0, o := barop, src := 0, dst := 0x10000, len := 4096, bidx := 40, icount := 10, waiting := false, begun := true, data := true, heard := [], met := [] },
      [1, 2, 3, 4], by decide +kernel, by decide +kernel, by decide +kernel, by decide +kernel, by decide +kernel, by
      decide +kernel⟩,
    ⟨on
      ({ ((idleDev.setReg (rPortCfg 47) (2 ^ 21)).setReg (rBrvGrp 255) (2 + 0x1000 * 2 ^ 32 + 0xFFFF * 2 ^ 152 + 2 ^ 176 + 7 * 2 ^ 224)).setReg (rBrvGid 255) 9 with brv := { idleDev.brv with jobs := [({ g := 255, epoch := 7, op := 2, c := c0, o := barop, src := 0, dst := 0x10000, len := 4096, bidx := 40, icount := 10, waiting := false, begun := true, data := true, heard := [], met := [] })], stripes := [({ StripeSt.recv (⟨255, 7, 1, 0⟩) 47 with frames := 9, acked := 4, expect := 5 })] } }),
      ⟨47, 0, 0, (⟨1, 0, 0, 9, 1, 0, 7, 6, 0, 0, 4, 0⟩), [1, 2, 3, 4], 0⟩, 255,
      { StripeSt.recv (⟨255, 7, 1, 0⟩) 47 with frames := 9, acked := 4, expect := 5 }, by decide +kernel, by
      decide +kernel, by decide +kernel, by decide +kernel,
      { g := 255, epoch := 7, op := 2, c := c0, o := barop, src := 0, dst := 0x10000, len := 4096, bidx := 40, icount := 10, waiting := false, begun := true, data := true, heard := [], met := [] },
      [1, 2, 3, 4], by decide +kernel, by decide +kernel, by decide +kernel, by decide +kernel, by decide +kernel, by
      decide +kernel⟩,
    ⟨on
      ({ ({ ((idleDev.setReg (rPortCfg 47) (2 ^ 21)).setReg (rBrvGrp 255) (2 + 0x1000 * 2 ^ 32 + 0xFFFF * 2 ^ 152 + 2 ^ 176 + 7 * 2 ^ 224)).setReg (rBrvGid 255) 9 with brv := { idleDev.brv with jobs := [({ g := 255, epoch := 7, op := 2, c := c0, o := barop, src := 0, dst := 0x10000, len := 4096, bidx := 40, icount := 10, waiting := false, begun := true, data := true, heard := [], met := [] })], stripes := [({ StripeSt.recv (⟨255, 7, 1, 0⟩) 47 with frames := 9, acked := 4, expect := 5 })] } }) with brv := { ({ ((idleDev.setReg (rPortCfg 47) (2 ^ 21)).setReg (rBrvGrp 255) (2 + 0x1000 * 2 ^ 32 + 0xFFFF * 2 ^ 152 + 2 ^ 176 + 7 * 2 ^ 224)).setReg (rBrvGid 255) 9 with brv := { idleDev.brv with jobs := [({ g := 255, epoch := 7, op := 2, c := c0, o := barop, src := 0, dst := 0x10000, len := 4096, bidx := 40, icount := 10, waiting := false, begun := true, data := true, heard := [], met := [] })], stripes := [({ StripeSt.recv (⟨255, 7, 1, 0⟩) 47 with frames := 9, acked := 4, expect := 5 })] } }).brv with jobs := [] } }),
      ⟨47, 0, 0, (⟨1, 0, 0, 9, 1, 0, 7, 5, 0, 0, 4, 0⟩), [1, 2, 3, 4], 0⟩, 255, by decide +kernel, by decide +kernel, by
      decide +kernel⟩,
    ⟨on
      (({ ({ ((idleDev.setReg (rPortCfg 47) (2 ^ 21)).setReg (rBrvGrp 255) (2 + 0x1000 * 2 ^ 32 + 0xFFFF * 2 ^ 152 + 2 ^ 176 + 7 * 2 ^ 224)).setReg (rBrvGid 255) 9 with brv := { idleDev.brv with jobs := [({ g := 255, epoch := 7, op := 2, c := c0, o := barop, src := 0, dst := 0x10000, len := 4096, bidx := 40, icount := 10, waiting := false, begun := true, data := true, heard := [], met := [] })], stripes := [({ StripeSt.recv (⟨255, 7, 1, 0⟩) 47 with frames := 9, acked := 4, expect := 5 })] } }) with brv := { ({ ((idleDev.setReg (rPortCfg 47) (2 ^ 21)).setReg (rBrvGrp 255) (2 + 0x1000 * 2 ^ 32 + 0xFFFF * 2 ^ 152 + 2 ^ 176 + 7 * 2 ^ 224)).setReg (rBrvGid 255) 9 with brv := { idleDev.brv with jobs := [({ g := 255, epoch := 7, op := 2, c := c0, o := barop, src := 0, dst := 0x10000, len := 4096, bidx := 40, icount := 10, waiting := false, begun := true, data := true, heard := [], met := [] })], stripes := [({ StripeSt.recv (⟨255, 7, 1, 0⟩) 47 with frames := 9, acked := 4, expect := 5 })] } }).brv with jobs := [] } }).setReg
      (rBrvGrp 255) (2 + 0x1000 * 2 ^ 32 + 0xFFFF * 2 ^ 152 + 2 ^ 176 + 8 * 2 ^ 224)), ⟨47, 0, 0, (⟨1, 0, 0, 9, 1, 0, 7,
      5, 0, 0, 4, 0⟩), [1, 2, 3, 4], 0⟩, 255, by decide +kernel, by decide +kernel, by decide +kernel⟩,
    ⟨on
      (({ ((idleDev.setReg (rPortCfg 47) (2 ^ 21)).setReg (rBrvGrp 255) (2 + 0x1000 * 2 ^ 32 + 0xFFFF * 2 ^ 152 + 2 ^ 176 + 7 * 2 ^ 224)).setReg (rBrvGid 255) 9 with brv := { idleDev.brv with jobs := [({ g := 255, epoch := 7, op := 2, c := c0, o := barop, src := 0, dst := 0x10000, len := 4096, bidx := 40, icount := 10, waiting := false, begun := true, data := true, heard := [], met := [] })], stripes := [({ StripeSt.recv (⟨255, 7, 1, 0⟩) 47 with frames := 9, acked := 4, expect := 5 })] } }).setReg
      rBrvTmo (7 * 2 ^ 16)), ⟨47, 0, 0, (⟨1, 0, 0, 9, 1, 0, 7, 6, 0, 0, 4, 0⟩), [1, 2, 3, 4], 0⟩, 255,
      { StripeSt.recv (⟨255, 7, 1, 0⟩) 47 with frames := 9, acked := 4, expect := 5 }, by decide +kernel, by
      decide +kernel, by decide +kernel⟩,
    ⟨on
      ({ ((idleDev.setReg (rPortCfg 47) (2 ^ 21)).setReg (rBrvGrp 255) (2 + 0x1000 * 2 ^ 32 + 0xFFFF * 2 ^ 152 + 2 ^ 176 + 7 * 2 ^ 224)).setReg (rBrvGid 255) 9 with brv := { idleDev.brv with jobs := [({ g := 255, epoch := 7, op := 2, c := c0, o := barop, src := 0, dst := 0x10000, len := 4096, bidx := 40, icount := 10, waiting := false, begun := true, data := true, heard := [], met := [] })], stripes := [({ StripeSt.recv (⟨255, 7, 1, 0⟩) 47 with frames := 9, acked := 4, expect := 5 })] } }),
      ⟨47, 0, 0, (⟨1, 0, 8, 9, 1, 0, 7, 9, 0, 0, 4, 0⟩), [1, 2, 3, 4], 0⟩, 255,
      { StripeSt.recv (⟨255, 7, 1, 0⟩) 47 with frames := 9, acked := 4, expect := 5 }, by decide +kernel, by
      decide +kernel, by decide +kernel⟩,
    ⟨on
      ({ ((idleDev.setReg (rPortCfg 47) (2 ^ 21)).setReg (rBrvGrp 255) (2 + 0x1000 * 2 ^ 32 + 0xFFFF * 2 ^ 152 + 2 ^ 176 + 7 * 2 ^ 224)).setReg (rBrvGid 255) 9 with brv := { idleDev.brv with jobs := [({ g := 255, epoch := 7, op := 2, c := c0, o := barop, src := 0, dst := 0x10000, len := 4096, bidx := 40, icount := 10, waiting := false, begun := true, data := true, heard := [], met := [] })], stripes := [({ StripeSt.recv (⟨255, 7, 1, 0⟩) 47 with frames := 9, acked := 4, expect := 5 })] } }),
      ⟨47, 0, 0, (⟨1, 0, 0, 9, 1, 0, 7, 5, 0, 0, 4, 0⟩), [1, 2, 3, 4], 0⟩, 255, by decide +kernel, by decide +kernel, by
      decide +kernel, by decide +kernel,
      { g := 255, epoch := 7, op := 2, c := c0, o := barop, src := 0, dst := 0x10000, len := 4096, bidx := 40, icount := 10, waiting := false, begun := true, data := true, heard := [], met := [] },
      by decide +kernel⟩,
    ⟨on ((((idleDev.setReg (rPortCfg 47) (2 ^ 21)).setReg (rBrvServe 0 3) (12 * 2 ^ 74)).setReg (rBrvPeer 0) (2 ^ 255
      + 0xFFFF * 2 ^ 160)).setReg (rCusPol 0) (2 ^ 63)), ⟨47, 0, 0, (⟨1, 0, 0, 9, 1, 0, 7, 5, 0, 0, 4, 0⟩), [1, 2, 3,
      4], 0⟩, by decide +kernel, by decide +kernel, by decide +kernel, uncounted_of (by decide +kernel), by
      decide +kernel, none, [0, 1, 2, 3], ok_of (by decide +kernel), by decide +kernel⟩,
    ⟨on (((idleDev.setReg (rPortCfg 47) (2 ^ 21)).setReg (rBrvPeer 0) (2 ^ 255 + 0xFFFF * 2 ^ 160)).setReg (rCusPol 0)
      (2 ^ 63)), ⟨47, 0, 0, (⟨1, 0, 0, 9, 1, 0, 7, 5, 0, 0, 4, 0⟩), [1, 2, 3, 4], 0⟩, by decide +kernel, by
      decide +kernel, by decide +kernel, uncounted_of (by decide +kernel), by decide +kernel, none, ok_of (by
      decide +kernel), by decide +kernel⟩,
    ⟨on ((idleDev.setReg (rPortCfg 47) (2 ^ 21)).setReg (rBrvPeer 0) (2 ^ 255 + 0xFFFF * 2 ^ 160)), ⟨47, 0, 0, (⟨1, 0,
      0, 9, 1, 0, 7, 5, 0, 0, 4, 0⟩), [1, 2, 3, 4], 0⟩, by decide +kernel, by decide +kernel, by decide +kernel,
      uncounted_of (by decide +kernel), by decide +kernel, 0x14, error_of (by decide +kernel)⟩,
    ⟨on (((((runDev.setReg (rPortCfg 47) (2 ^ 21)).modCtx 0 0 fun u =>
      { u with requests := [({ copyReq with id := 7, pieces := [{ src := 0x800000000000, dsts := [0x2000], len := 4, rd := 0, got := [], span := false }] })] }).setReg
      (rMemFwCfg 0 0) (2 ^ 31 + 2 ^ 29 + 20 * 2 ^ 23))).setReg (rBrvPeer 0) (0xFFFF * 2 ^ 160)), ⟨47, 0, 0, (⟨1, 0, 0,
      9, 1, 0, 7, 5, 0, 0, 4, 0⟩), [1, 2, 3, 4], 0⟩, by decide +kernel, by decide +kernel, ⟨0, 0,
      ({ copyReq with id := 7, pieces := [{ src := 0x800000000000, dsts := [0x2000], len := 4, rd := 0, got := [], span := false }] })⟩,
      0x800000000000, by decide +kernel⟩,
    ⟨on (((((runDev.setReg (rPortCfg 47) (2 ^ 21)).modCtx 0 0 fun u =>
      { u with requests := [({ copyReq with id := 7, pieces := [{ src := 0x800000000000, dsts := [0x2000], len := 4, rd := 0, got := [], span := false }] })] }).setReg
      (rMemFwCfg 0 0) (2 ^ 31 + 2 ^ 29 + 20 * 2 ^ 23))).setReg (rBrvPeer 0) (0xFFFF * 2 ^ 160)), ⟨47, 0, 0, (⟨1, 0, 0,
      9, 1, 0, 7, 0, 0, 0, 4, 0⟩), [1, 2, 3, 4], 0⟩, by decide +kernel, by decide +kernel, ⟨0, 0,
      ({ copyReq with id := 7, pieces := [{ src := 0x800000000000, dsts := [0x2000], len := 4, rd := 0, got := [], span := false }] })⟩,
      0x800000000000, by decide +kernel, by decide +kernel, [1, 2, 3, 4], by decide +kernel⟩,
    ⟨on (((((runDev.setReg (rPortCfg 47) (2 ^ 21)).modCtx 0 0 fun u =>
      { u with requests := [({ copyReq with id := 7, pieces := [({ src := 0x800000000000, dsts := [0x2000], len := 4, rd := 0, got := [], span := false })] })] }).setReg
      (rMemFwCfg 0 0) (2 ^ 31 + 2 ^ 29 + 20 * 2 ^ 23))).setReg (rBrvPeer 0) (0xFFFF * 2 ^ 160)), ⟨47, 0, 0, (⟨1, 0, 0,
      9, 1, 0, 7, 0, 0, 0, 4, 0⟩), [1, 2, 3, 4], 0⟩, by decide +kernel, by decide +kernel, ⟨0, 0,
      ({ copyReq with id := 7, pieces := [({ src := 0x800000000000, dsts := [0x2000], len := 4, rd := 0, got := [], span := false })] })⟩,
      0x800000000000, by decide +kernel, by decide +kernel, [1, 2, 3, 4],
      { src := 0x800000000000, dsts := [0x2000], len := 4, rd := 0, got := [], span := false }, 0x2000, by
      decide +kernel, by decide +kernel, uncounted_of (by decide +kernel), by decide +kernel⟩⟩

theorem test_meets_BarrovTimersAndCompletion :
  (∃ (st : State) (id : StripeId) (x : StripeSt), st.dev.sys.railsUp = true ∧ st.dev.stripe id = some x ∧ x.acked <
    x.frames ∧ x.retries < st.dev.fld rBrvTmo 19 16) ∧
  (∃ (st : State) (id : StripeId) (x : StripeSt), st.dev.sys.railsUp = true ∧ st.dev.stripe id = some x ∧ x.rnr =
    true) ∧
  (∃ (st : State) (g : BitVec 12) (epoch : BitVec 32) (j : BarrovJob), st.dev.sys.railsUp = true ∧ st.dev.job g.toNat
    epoch.toNat = some j ∧ j.begun = true ∧ j.data = false) ∧
  (∃ (st : State) (g : BitVec 12) (epoch : BitVec 32) (j : BarrovJob), st.dev.sys.railsUp = true ∧ st.dev.job g.toNat
    epoch.toNat = some j ∧ st.dev.brv.jobs = [j]) ∧
  (∃ (st : State) (g : BitVec 12) (epoch : BitVec 32) (j : BarrovJob), st.dev.sys.railsUp = true ∧ st.dev.job g.toNat
    epoch.toNat = some j ∧ ∃ bs, j.data = true ∧ st.dev.allAcked g.toNat epoch.toNat = true ∧ ((st.dev.jobSet j).all fun
    b => j.sent.contains b) = true ∧ st.dev.jobResult j = some bs ∧ st.dev.chanHeld j.dst bs.length = false) ∧
  (∃ (st : State) (g : BitVec 12) (epoch : BitVec 32) (j : BarrovJob), st.dev.sys.railsUp = true ∧ st.dev.job g.toNat
    epoch.toNat = some j ∧ ∃ own b,
   let n := st.dev.grpMem g.toNat
   let rank := st.dev.grpRank g.toNat
   j.op = 2 ∧ j.parity = none ∧ j.o.rop = 0 ∧ j.o.dtype = 0 ∧ j.own = some own ∧ 0 < rank ∧ n = rank + 1 ∧
     st.dev.messageFrom j (rank - 1) = some b) :=
  ⟨⟨on
    ({ ((idleDev.setReg (rBrvGrp 255) (2 + 0x1000 * 2 ^ 32 + 0xFFFF * 2 ^ 152 + 2 ^ 176 + 7 * 2 ^ 224)).setReg (rBrvGid 255) 9).setReg rBrvTmo (7 * 2 ^ 16) with brv := { idleDev.brv with jobs := [({ g := 255, epoch := 7, op := 2, c := c0, o := { barop with len := 64 }, src := 0, dst := 0x10000, len := 64, bidx := 40, icount := 10, waiting := false, begun := true, data := false, heard := [], met := [] })], stripes := [({ StripeSt.recv (⟨255, 7, 1, 0⟩) 47 with frames := 9, acked := 4, expect := 5, rnr := true, retries := 6 })] } }),
    ⟨255, 7, 1, 0⟩,
    { StripeSt.recv (⟨255, 7, 1, 0⟩) 47 with frames := 9, acked := 4, expect := 5, rnr := true, retries := 6 }, by
    decide +kernel⟩,
    ⟨on
      ({ ((idleDev.setReg (rBrvGrp 255) (2 + 0x1000 * 2 ^ 32 + 0xFFFF * 2 ^ 152 + 2 ^ 176 + 7 * 2 ^ 224)).setReg (rBrvGid 255) 9).setReg rBrvTmo (7 * 2 ^ 16) with brv := { idleDev.brv with jobs := [({ g := 255, epoch := 7, op := 2, c := c0, o := { barop with len := 64 }, src := 0, dst := 0x10000, len := 64, bidx := 40, icount := 10, waiting := false, begun := true, data := false, heard := [], met := [] })], stripes := [({ StripeSt.recv (⟨255, 7, 1, 0⟩) 47 with frames := 9, acked := 4, expect := 5, rnr := true, retries := 6 })] } }),
      ⟨255, 7, 1, 0⟩,
      { StripeSt.recv (⟨255, 7, 1, 0⟩) 47 with frames := 9, acked := 4, expect := 5, rnr := true, retries := 6 }, by
      decide +kernel⟩,
    ⟨on
      ({ ((idleDev.setReg (rBrvGrp 255) (2 + 0x1000 * 2 ^ 32 + 0xFFFF * 2 ^ 152 + 2 ^ 176 + 7 * 2 ^ 224)).setReg (rBrvGid 255) 9).setReg rBrvTmo (7 * 2 ^ 16) with brv := { idleDev.brv with jobs := [({ g := 255, epoch := 7, op := 2, c := c0, o := { barop with len := 64 }, src := 0, dst := 0x10000, len := 64, bidx := 40, icount := 10, waiting := false, begun := true, data := false, heard := [], met := [] })], stripes := [({ StripeSt.recv (⟨255, 7, 1, 0⟩) 47 with frames := 9, acked := 4, expect := 5, rnr := true, retries := 6 })] } }),
      255, 7,
      { g := 255, epoch := 7, op := 2, c := c0, o := { barop with len := 64 }, src := 0, dst := 0x10000, len := 64, bidx := 40, icount := 10, waiting := false, begun := true, data := false, heard := [], met := [] },
      by decide +kernel⟩,
    ⟨on
      ({ ((idleDev.setReg (rBrvGrp 255) (2 + 0x1000 * 2 ^ 32 + 0xFFFF * 2 ^ 152 + 2 ^ 176 + 7 * 2 ^ 224)).setReg (rBrvGid 255) 9).setReg rBrvTmo (7 * 2 ^ 16) with brv := { idleDev.brv with jobs := [({ g := 255, epoch := 7, op := 2, c := c0, o := { barop with len := 64 }, src := 0, dst := 0x10000, len := 64, bidx := 40, icount := 10, waiting := false, begun := true, data := false, heard := [], met := [] })], stripes := [({ StripeSt.recv (⟨255, 7, 1, 0⟩) 47 with frames := 9, acked := 4, expect := 5, rnr := true, retries := 6 })] } }),
      255, 7,
      { g := 255, epoch := 7, op := 2, c := c0, o := { barop with len := 64 }, src := 0, dst := 0x10000, len := 64, bidx := 40, icount := 10, waiting := false, begun := true, data := false, heard := [], met := [] },
      by decide +kernel⟩,
    ⟨on
      { ((({ ((idleDev.setReg (rBrvGrp 255) (2 + 0x1000 * 2 ^ 32 + 0xFFFF * 2 ^ 152 + 2 ^ 176 + 7 * 2 ^ 224)).setReg (rBrvGid 255) 9).setReg rBrvTmo (7 * 2 ^ 16) with brv := { idleDev.brv with jobs := [({ g := 255, epoch := 7, op := 2, c := c0, o := { barop with len := 64 }, src := 0, dst := 0x10000, len := 64, bidx := 40, icount := 10, waiting := false, begun := true, data := true, heard := [], met := [], own := some (List.replicate 64 1) })], stripes := [({ StripeSt.recv (⟨255, 7, 1, 0⟩) 47 with frames := 9, acked := 4, expect := 5, rnr := true, retries := 6 })] } }).setReg (rBrvGrp 255) (1 + 0x1000 * 2 ^ 32 + 0xFFFF * 2 ^ 152 + 2 ^ 176 + 7 * 2 ^ 224)).modCtx 0 0 fun c => { c with requests := [{ copyReq with kind := .barrov 255 7, pieces := [] }] }) with brv := { ({ ((idleDev.setReg (rBrvGrp 255) (2 + 0x1000 * 2 ^ 32 + 0xFFFF * 2 ^ 152 + 2 ^ 176 + 7 * 2 ^ 224)).setReg (rBrvGid 255) 9).setReg rBrvTmo (7 * 2 ^ 16) with brv := { idleDev.brv with jobs := [({ g := 255, epoch := 7, op := 2, c := c0, o := { barop with len := 64 }, src := 0, dst := 0x10000, len := 64, bidx := 40, icount := 10, waiting := false, begun := true, data := true, heard := [], met := [], own := some (List.replicate 64 1) })], stripes := [({ StripeSt.recv (⟨255, 7, 1, 0⟩) 47 with frames := 9, acked := 4, expect := 5, rnr := true, retries := 6 })] } }).brv with jobs := [({ g := 255, epoch := 7, op := 2, c := c0, o := { barop with len := 64 }, src := 0, dst := 0x10000, len := 64, bidx := 40, icount := 10, waiting := false, begun := true, data := true, heard := [], met := [], own := some (List.replicate 64 1) })], stripes := [{ ({ StripeSt.recv (⟨255, 7, 1, 0⟩) 47 with frames := 9, acked := 4, expect := 5, rnr := true, retries := 6 }) with acked := 9 }] } },
      255, 7,
      { g := 255, epoch := 7, op := 2, c := c0, o := { barop with len := 64 }, src := 0, dst := 0x10000, len := 64, bidx := 40, icount := 10, waiting := false, begun := true, data := true, heard := [], met := [], own := some (List.replicate 64 1) },
      by decide +kernel, by decide +kernel, List.replicate 64 1, by decide +kernel⟩,
    ⟨on
      { (({ ((idleDev.setReg (rBrvGrp 255) (2 + 0x1000 * 2 ^ 32 + 0xFFFF * 2 ^ 152 + 2 ^ 176 + 7 * 2 ^ 224)).setReg (rBrvGid 255) 9).setReg rBrvTmo (7 * 2 ^ 16) with brv := { idleDev.brv with jobs := [({ g := 255, epoch := 7, op := 2, c := c0, o := { barop with len := 4 }, src := 0, dst := 0x10000, len := 4, bidx := 40, icount := 10, waiting := false, begun := true, data := true, heard := [], met := [], own := some ([0, 0, 64, 64]) })], stripes := [({ StripeSt.recv (⟨255, 7, 0, 0⟩) 47 with got := (List.range 4).map fun k => (k, ([0, 0, 128, 63] : List Byte).getD k 0) })] } }).setReg (rBrvGrp 255) (2 + 2 ^ 16 + 0x1000 * 2 ^ 32 + 0xFFFF * 2 ^ 152 + 2 ^ 176 + 7 * 2 ^ 224)) with brv := { ({ ((idleDev.setReg (rBrvGrp 255) (2 + 0x1000 * 2 ^ 32 + 0xFFFF * 2 ^ 152 + 2 ^ 176 + 7 * 2 ^ 224)).setReg (rBrvGid 255) 9).setReg rBrvTmo (7 * 2 ^ 16) with brv := { idleDev.brv with jobs := [({ g := 255, epoch := 7, op := 2, c := c0, o := { barop with len := 4 }, src := 0, dst := 0x10000, len := 4, bidx := 40, icount := 10, waiting := false, begun := true, data := true, heard := [], met := [], own := some ([0, 0, 64, 64]) })], stripes := [({ StripeSt.recv (⟨255, 7, 0, 0⟩) 47 with got := (List.range 4).map fun k => (k, ([0, 0, 128, 63] : List Byte).getD k 0) })] } }).brv with jobs := [({ g := 255, epoch := 7, op := 2, c := c0, o := { barop with len := 4 }, src := 0, dst := 0x10000, len := 4, bidx := 40, icount := 10, waiting := false, begun := true, data := true, heard := [], met := [], own := some ([0, 0, 64, 64]) })], stripes := [({ StripeSt.recv (⟨255, 7, 0, 0⟩) 47 with got := (List.range 4).map fun k => (k, ([0, 0, 128, 63] : List Byte).getD k 0) })] } },
      255, 7,
      { g := 255, epoch := 7, op := 2, c := c0, o := { barop with len := 4 }, src := 0, dst := 0x10000, len := 4, bidx := 40, icount := 10, waiting := false, begun := true, data := true, heard := [], met := [], own := some ([0, 0, 64, 64]) },
      by decide +kernel, by decide +kernel, [0, 0, 64, 64], [0, 0, 128, 63], by decide +kernel, by decide +kernel⟩⟩

theorem test_meets_PortEventsAndRates :
  (∃ (st : State) (i : FrameInfo) (port : PortN), st.dev.sys.railsUp = true ∧ uncounted st.dev ∧
   let n := port.val
   let d := st.dev
   i.port = port ∧ d.flag (rPortCfg n) 31 = true ∧ d.ganged n = false ∧ d.gateOn (gPort n) = true ∧ i.fecCorrected = 0
     ∧ i.fecUncorrectable = false ∧ i.fcsOk = false) ∧
  (∃ (st : State) (i : FrameInfo) (port : PortN) (y : StripeSt), st.dev.sys.railsUp = true ∧ uncounted st.dev ∧
   let n := port.val
   let d := st.dev
   i.port = port ∧ d.flag (rPortCfg n) 31 = true ∧ d.ganged n = false ∧ d.gateOn (gPort n) = true ∧ i.fecCorrected = 0
     ∧ i.fecUncorrectable = false ∧ i.fcsOk = true ∧ 64 ≤ i.len ∧ i.len ≤ d.fld (rPortCfg n) 15 0 ∧ d.flag (rPortCfg n)
     20 = false ∧ i.sec = none ∧ ∃ ver ty : BitVec 8, i.body = .barrov ver ty (some y.id) ∧ (ver ≠ 1 ∨ ty = 0 ∨ 8 <
     ty.toNat)) ∧
  (∃ (st : State) (i : FrameInfo) (port : PortN) (y : StripeSt), st.dev.sys.railsUp = true ∧ uncounted st.dev ∧
   let n := port.val
   let d := st.dev
   i.port = port ∧ d.flag (rPortCfg n) 31 = true ∧ d.ganged n = false ∧ d.gateOn (gPort n) = true ∧ i.fecCorrected = 0
     ∧ i.fecUncorrectable = false ∧ i.fcsOk = true ∧ 64 ≤ i.len ∧ i.len ≤ d.fld (rPortCfg n) 15 0 ∧ d.flag (rPortCfg n)
     20 = false ∧ i.sec = none ∧ ∃ ty : BitVec 8, i.body = .barrov 1 ty (some y.id) ∧ 1 ≤ ty.toNat ∧ ty.toNat ≤ 8 ∧ i.ce
     = true ∧ d.stripe y.id = some y) ∧
  (∃ (st : State) (port : PortN) (prio : Fin 8), st.dev.sys.railsUp = true ∧ uncounted st.dev ∧
   let n := port.val
   let d := st.dev
   let z := d.port n
   let pfc := d.reg (rPortPfc n)
   d.ganged n = false ∧ bit pfc (24 + prio.val) = true ∧ z.pauseRx.contains prio.val = false ∧ z.ignoring.contains
     prio.val = false) ∧
  (∃ (st : State) (port : PortN) (prio : Fin 8) (k : Nat) (y : StripeSt), st.dev.sys.railsUp = true ∧ uncounted st.dev ∧
   let n := port.val
   let d := st.dev
   let z := d.port n
   let pfc := d.reg (rPortPfc n)
   d.ganged n = false ∧ bit pfc (24 + prio.val) = true ∧ bits pfc 23 12 < min (1024 - (z.occ.filter fun y => y.1 !=
     prio.val).foldl (fun s y => s + y.2) 0) k ∧ z.pauseTx.contains prio.val = false) ∧
  (∃ (st : State) (port : PortN) (prio : Fin 8), st.dev.sys.railsUp = true ∧ uncounted st.dev ∧
   let n := port.val
   let d := st.dev
   let z := d.port n
   let gone (f : SentFrame) : Bool := d.framePrio f.ftype == some prio.val
   let lost := countIf gone z.queued
   z.pauseRx.contains prio.val = true ∧ z.ignoring.contains prio.val = false ∧ lost ≠ 0) ∧
  (∃ (st : State) (port : PortN), st.dev.sys.railsUp = true ∧ uncounted st.dev ∧
   let n := port.val
   let d := st.dev
   let z := d.port n
   d.linkUp n = true ∧ d.brv.stripes = [] ∧ d.brv.jobs = [] ∧ d.flag (rPortStatus n) 28 = true ∧ z.exhausted = true) ∧
  (∃ (st : State) (port : PortN), st.dev.sys.railsUp = true ∧ uncounted st.dev ∧
   let n := port.val
   let d := st.dev
   d.flag (rPortCfg n) 31 = true ∧ d.fld (rPortCfg n) 30 28 ≠ 0 ∧ d.ganged n = false ∧ d.linkUp n = false ∧ d.gateOn
     (gPort n) = true ∧ d.flag (rClkPll (8 + n / 24)) 31 = true) ∧
  (∃ (st : State) (x : Qp) (a : Fin 65536), st.dev.sys.railsUp = true ∧ uncounted st.dev ∧
   let d := st.dev
   d.qp a.val = some x ∧ d.past50 x.cutAt = true) :=
  ⟨⟨on ((idleDev.setReg (rPortCfg 47) (2 ^ 31 + 9216)).setReg rClkGateEn (2 ^ 76)), ⟨47, 256, 7, 0, false, false,
    none, false, .other⟩, 47, by decide +kernel, uncounted_of (by decide +kernel), by decide +kernel, by
    decide +kernel⟩,
    ⟨on ((idleDev.setReg (rPortCfg 47) (2 ^ 31 + 9216)).setReg rClkGateEn (2 ^ 76)), ⟨47, 9216, 7, 0, false, true,
      none, false, .barrov 1 9 (some (⟨255, 7, 1, 0⟩))⟩, 47, StripeSt.recv (⟨255, 7, 1, 0⟩) 47, by decide +kernel,
      uncounted_of (by decide +kernel), more4 (by decide +kernel) (more4 (by decide +kernel) ⟨by decide +kernel, by
      decide +kernel, by decide +kernel, 1, 9, by decide +kernel⟩)⟩,
    ⟨on
      { ((idleDev.setReg (rPortCfg 47) (2 ^ 31 + 9216)).setReg rClkGateEn (2 ^ 76)) with brv := { ((idleDev.setReg (rPortCfg 47) (2 ^ 31 + 9216)).setReg rClkGateEn (2 ^ 76)).brv with stripes := [(StripeSt.recv (⟨255, 7, 1, 0⟩) 47)] } },
      ⟨47, 64, 7, 0, false, true, none, true, .barrov 1 8 (some (⟨255, 7, 1, 0⟩))⟩, 47, StripeSt.recv (⟨255, 7, 1, 0⟩)
      47, by decide +kernel, uncounted_of (by decide +kernel), more4 (by decide +kernel) (more4 (by decide +kernel) ⟨by
      decide +kernel, by decide +kernel, by decide +kernel, 8, by decide +kernel⟩)⟩,
    ⟨on (((idleDev.setReg (rPortCfg 47) (2 ^ 31 + 9216)).setReg rClkGateEn (2 ^ 76)).setReg (rPortPfc 47) (2 ^ 31)),
      47, 7, by decide +kernel, uncounted_of (by decide +kernel), by decide +kernel, by decide +kernel⟩,
    ⟨on (((idleDev.setReg (rPortCfg 47) (2 ^ 31 + 9216)).setReg rClkGateEn (2 ^ 76)).setReg (rPortPfc 47) (2 ^ 31 +
      1023 * 2 ^ 12)), 47, 7, 1024, StripeSt.recv (⟨255, 7, 1, 0⟩) 47, by decide +kernel, uncounted_of (by
      decide +kernel), by decide +kernel, by decide +kernel⟩,
    ⟨on ((((idleDev.setReg (rPortCfg 47) (2 ^ 31 + 9216)).setReg rClkGateEn (2 ^ 76)).setReg rBrvCfg (7 * 2 ^
      16)).setPort 47
      { PortSt.down with pauseRx := [7], queued := [{ port := 47, ftype := 2, g := 255, epoch := 7, peer := 1, stripe := 0, seq := 5, flags := 0, payload := [] }] }),
      47, 7, by decide +kernel, uncounted_of (by decide +kernel), by decide +kernel, by decide +kernel⟩,
    ⟨on ((((idleDev.setReg (rPortCfg 47) (2 ^ 31 + 9216)).setReg rClkGateEn (2 ^ 76)).setReg (rPortStatus 47) (2 ^ 31
      + 2 ^ 28)).setPort 47 { PortSt.down with exhausted := true }), 47, by decide +kernel, uncounted_of (by
      decide +kernel), by decide +kernel, by decide +kernel⟩,
    ⟨on ((((idleDev.setReg (rPortCfg 47) (2 ^ 31 + 9216)).setReg rClkGateEn (2 ^ 76)).setReg (rPortCfg 47) (2 ^ 31 + 2
      ^ 28 + 9216)).setReg (rClkPll 9) (2 ^ 31)), 47, by decide +kernel, uncounted_of (by decide +kernel), by
      decide +kernel, by decide +kernel⟩,
    ⟨on
      { ((idleDev.setReg (rPortCfg 47) (2 ^ 31 + 9216)).setReg rClkGateEn (2 ^ 76)) with brv := { ((idleDev.setReg (rPortCfg 47) (2 ^ 31 + 9216)).setReg rClkGateEn (2 ^ 76)).brv with qps := [({ idx := 65535, part := 0, rqpn := 5, psn := 6, mtu := 1024, path := 47, maxRetries := 7, retries := 0, error := false, rate := 400000, cutAt := 0, cnpAt := 0, wrs := [⟨0, 4, 0x100, 3, 64, some 6⟩] })] }, sys := { ((idleDev.setReg (rPortCfg 47) (2 ^ 31 + 9216)).setReg rClkGateEn (2 ^ 76)).sys with tb := 50000 } },
      { idx := 65535, part := 0, rqpn := 5, psn := 6, mtu := 1024, path := 47, maxRetries := 7, retries := 0, error := false, rate := 400000, cutAt := 0, cnpAt := 0, wrs := [⟨0, 4, 0x100, 3, 64, some 6⟩] },
      65535, by decide +kernel, uncounted_of (by decide +kernel), by decide +kernel, by decide +kernel⟩⟩

theorem test_meets_IngestCommands :
  (∃ (st : State) (q : QueueN) (c : FetchedCmd) (e : Dev), st.dev.sys.railsUp = true ∧
   let p := c.part
   p < 16 ∧ e.partValid p = true ∧ uncounted e ∧ e.mem.errs = [] ∧
   let v := (c.params [.num 8, .num 2]).at
   Accepted st.dev q 0x501 [.num 8, .num 2] c e ∧ v 0 < 2 ^ 48 ∧ v 0 % (16 * MiB) = 0 ∧ e.inShare p (v 0) (v 1 * (16 *
     MiB)) = true) ∧
  (∃ (st : State) (q : QueueN) (c : FetchedCmd) (e : Dev), st.dev.sys.railsUp = true ∧
   let p := c.part
   p < 16 ∧ e.partValid p = true ∧ uncounted e ∧ e.mem.errs = [] ∧
   let spec := [PKind.num 1, .num 8, .num 2, .num 4, .num 2, .num 2, .num 1, .num 1, .num 1, .num 1, .num 2, .num 1,
     .num 2, .num 2, .num 1]
   let v := (c.params spec).at
   let r := v 0
   let cfg := 2 ^ 63 + v 8 * 2 ^ 62 + v 6 * 2 ^ 60 + v 7 * 2 ^ 56 + v 5 * 2 ^ 45 + v 3 * 2 ^ 27 + v 4 * 2 ^ 11
   Accepted st.dev q 0x502 spec c e ∧ r < 4 ∧ v 1 < 2 ^ 48 ∧ v 1 % 4096 = 0 ∧ 2 ≤ v 2 ∧ v 2 < 2 ^ 16 ∧ 1 ≤ v 3 ∧ v 3 ≤
     131072 ∧ 4 ≤ v 4 ∧ v 4 ≤ 16384 ∧ v 4 % 4 = 0 ∧ 1 ≤ v 5 ∧ v 5 ≤ 1024 ∧ v 6 < 4 ∧ (v 7 ≤ 3 ∨ v 7 = 9) ∧ v 8 < 2 ∧ v 9
     < 3 ∧ v 10 < 2 ^ 14 ∧ v 11 ≤ 128 ∧ (e.ring p r).shards = [] ∧ e.firstBad p (v 1) (v 2 * entrySize cfg) = none) ∧
  (∃ (st : State) (q : QueueN) (c : FetchedCmd) (e : Dev), st.dev.sys.railsUp = true ∧
   let p := c.part
   p < 16 ∧ e.partValid p = true ∧ uncounted e ∧ e.mem.errs = [] ∧
   let spec := [PKind.num 1, .num 4, .num 8, .num 4, .num 8, .num 4, .num 8, .num 4]
   let v := (c.params spec).at
   let r := v 0
   let s := shardOf c.seq 1 (c.params spec)
   Accepted st.dev q 0x503 spec c e ∧ r < 4 ∧ e.ringOn p r = true ∧ (e.ring p r).shards = [] ∧ (e.ring p r).done = []
     ∧ e.shardBad p s = none ∧ 0 < s.count) ∧
  (∃ (st : State) (q : QueueN) (c : FetchedCmd) (e : Dev), st.dev.sys.railsUp = true ∧
   let p := c.part
   p < 16 ∧ e.partValid p = true ∧ uncounted e ∧ e.mem.errs = [] ∧
   let spec := [PKind.num 1, .bytes 64, .num 4, .num 8, .num 4, .num 8, .num 4, .num 8, .num 4]
   let v := (c.params spec).at
   let r := v 0
   let cur := v 1
   let s := shardOf c.seq 2 (c.params spec)
   let lp := bits cur 319 288
   Accepted st.dev q 0x504 spec c e ∧ r < 4 ∧ e.ringOn p r = true ∧ e.shardBad p s = none ∧ lp < s.cap ∧ bits cur 415
     384 < s.count) ∧
  (∃ (st : State) (q : QueueN) (c : FetchedCmd) (e : Dev), st.dev.sys.railsUp = true ∧
   let p := c.part
   p < 16 ∧ e.partValid p = true ∧ uncounted e ∧ e.mem.errs = [] ∧
   let r := (c.params [.num 1]).at 0
   Accepted st.dev q 0x505 [.num 1] c e ∧ r < 4) ∧
  (∃ (st : State) (q : QueueN) (c : FetchedCmd) (e : Dev), st.dev.sys.railsUp = true ∧
   let p := c.part
   p < 16 ∧ e.partValid p = true ∧ uncounted e ∧ e.mem.errs = [] ∧
   let v := (c.params [.num 1, .num 8]).at
   let n := leNat (e.rim.read (v 1 + 4) 4)
   let img := e.rim.read (v 1) (dictSize (min n 262144))
   Accepted st.dev q 0x506 [.num 1, .num 8] c e ∧ v 0 < 4 ∧ e.dictInUse p (v 0) = false ∧ e.firstBad p (v 1) (dictSize
     (min n 262144)) = none ∧ dictBad img = false) ∧
  (∃ (st : State) (q : QueueN) (c : FetchedCmd) (e : Dev), st.dev.sys.railsUp = true ∧
   let p := c.part
   p < 16 ∧ e.partValid p = true ∧ uncounted e ∧ e.mem.errs = [] ∧
   let v := (c.params [.num 1, .num 1]).at
   Accepted st.dev q 0x507 [.num 1, .num 1] c e ∧ 2 ≤ v 0 ∧ v 0 ≤ 64 ∧ 1 ≤ v 1 ∧ v 1 ≤ 50) ∧
  (∃ (st : State) (q : QueueN) (c : FetchedCmd) (e : Dev), st.dev.sys.railsUp = true ∧
   let p := c.part
   p < 16 ∧ e.partValid p = true ∧ uncounted e ∧ e.mem.errs = [] ∧
   let v := (c.params [.num 1, .num 4, .num 4]).at
   let w := v 2 * 2 ^ 32 + v 1
   Accepted st.dev q 0x508 [.num 1, .num 4, .num 4] c e ∧ v 0 < 6 ∧ e.quotaOk p (v 0) w = true) :=
  ⟨⟨on (got idleDev (command 0x501 0 0 [(8, 0x1000000), (2, 767)])), 2, command 0x501 0 0 [(8, 0x1000000), (2, 767)],
    went idleDev (command 0x501 0 0 [(8, 0x1000000), (2, 767)]), by decide +kernel, by decide +kernel, by
    decide +kernel, uncounted_of (by decide +kernel), by decide +kernel, accepted_plain (by decide +kernel), by
    decide +kernel⟩,
    ⟨on (got idleDev (command 0x502 0 0 [(1, 3), (8, 0x1000), (2, 2), (4, 131072), (2, 16384), (2, 1024), (1, 3), (1,
      9), (1, 1), (1, 2), (2, 160), (1, 128), (2, 0), (2, 8000), (1, 1)])), 2, command 0x502 0 0 [(1, 3), (8, 0x1000),
      (2, 2), (4, 131072), (2, 16384), (2, 1024), (1, 3), (1, 9), (1, 1), (1, 2), (2, 160), (1, 128), (2, 0), (2, 8000),
      (1, 1)], went idleDev (command 0x502 0 0 [(1, 3), (8, 0x1000), (2, 2), (4, 131072), (2, 16384), (2, 1024), (1, 3),
      (1, 9), (1, 1), (1, 2), (2, 160), (1, 128), (2, 0), (2, 8000), (1, 1)]), by decide +kernel, by decide +kernel, by
      decide +kernel, uncounted_of (by decide +kernel), by decide +kernel, accepted_plain (by decide +kernel), by
      decide +kernel⟩,
    ⟨on (got ((((idleDev.setReg (rIngRingCfg 0 3) (2 ^ 63)).setReg (rIngRingBase 0 3) (16 * 2 ^ 48)).setReg
      (rIngRingEsz 0 3) 256)) (command 0x503 0 0 [(1, 3), (4, 5), (8, 0x1000), (4, 2), (8, 0x2000), (4, 1), (8, 0x3000),
      (4, 16)])), 2, command 0x503 0 0 [(1, 3), (4, 5), (8, 0x1000), (4, 2), (8, 0x2000), (4, 1), (8, 0x3000), (4, 16)],
      went ((((idleDev.setReg (rIngRingCfg 0 3) (2 ^ 63)).setReg (rIngRingBase 0 3) (16 * 2 ^ 48)).setReg (rIngRingEsz 0
      3) 256)) (command 0x503 0 0 [(1, 3), (4, 5), (8, 0x1000), (4, 2), (8, 0x2000), (4, 1), (8, 0x3000), (4, 16)]), by
      decide +kernel, by decide +kernel, by decide +kernel, uncounted_of (by decide +kernel), by decide +kernel,
      accepted_plain (by decide +kernel), by decide +kernel⟩,
    ⟨on (got ((((idleDev.setReg (rIngRingCfg 0 3) (2 ^ 63)).setReg (rIngRingBase 0 3) (16 * 2 ^ 48)).setReg
      (rIngRingEsz 0 3) 256)) (command 0x504 0 0 [(1, 3), (8, 0), (8, 0), (8, 0), (8, 0), (8, 0), (8, 0), (8, 0), (8,
      0), (4, 5), (8, 0x1000), (4, 2)] (lay [(8, 0x2000), (4, 1), (8, 0x3000), (4, 16)]))), 2, command 0x504 0 0 [(1,
      3), (8, 0), (8, 0), (8, 0), (8, 0), (8, 0), (8, 0), (8, 0), (8, 0), (4, 5), (8, 0x1000), (4, 2)] (lay [(8,
      0x2000), (4, 1), (8, 0x3000), (4, 16)]), went ((((idleDev.setReg (rIngRingCfg 0 3) (2 ^ 63)).setReg (rIngRingBase
      0 3) (16 * 2 ^ 48)).setReg (rIngRingEsz 0 3) 256)) (command 0x504 0 0 [(1, 3), (8, 0), (8, 0), (8, 0), (8, 0), (8,
      0), (8, 0), (8, 0), (8, 0), (4, 5), (8, 0x1000), (4, 2)] (lay [(8, 0x2000), (4, 1), (8, 0x3000), (4, 16)])), by
      decide +kernel, by decide +kernel, by decide +kernel, uncounted_of (by decide +kernel), by decide +kernel,
      accepted_plain (by decide +kernel), by decide +kernel⟩,
    ⟨on (got idleDev (command 0x505 0 0 [(1, 3)])), 2, command 0x505 0 0 [(1, 3)], went idleDev (command 0x505 0 0
      [(1, 3)]), by decide +kernel, by decide +kernel, by decide +kernel, uncounted_of (by decide +kernel), by
      decide +kernel, accepted_plain (by decide +kernel), by decide +kernel⟩,
    ⟨on (got
      ({ idleDev with rim := [(0x1000, 0x31), (0x1001, 0x43), (0x1002, 0x44), (0x1003, 0x54), (0x1004, 1), (0x1040, 1), (0x1080, 65)] })
      (command 0x506 0 0 [(1, 3), (8, 0x1000)])), 2, command 0x506 0 0 [(1, 3), (8, 0x1000)], went
      ({ idleDev with rim := [(0x1000, 0x31), (0x1001, 0x43), (0x1002, 0x44), (0x1003, 0x54), (0x1004, 1), (0x1040, 1), (0x1080, 65)] })
      (command 0x506 0 0 [(1, 3), (8, 0x1000)]), by decide +kernel, by decide +kernel, by decide +kernel, uncounted_of
      (by decide +kernel), by decide +kernel, accepted_plain (by decide +kernel), by decide +kernel⟩,
    ⟨on (got idleDev (command 0x507 0 0 [(1, 64), (1, 50)])), 2, command 0x507 0 0 [(1, 64), (1, 50)], went idleDev
      (command 0x507 0 0 [(1, 64), (1, 50)]), by decide +kernel, by decide +kernel, by decide +kernel, uncounted_of (by
      decide +kernel), by decide +kernel, accepted_plain (by decide +kernel), by decide +kernel⟩,
    ⟨on (got idleDev (command 0x508 0 0 [(1, 5), (4, 1000), (4, 20)])), 2, command 0x508 0 0 [(1, 5), (4, 1000), (4,
      20)], went idleDev (command 0x508 0 0 [(1, 5), (4, 1000), (4, 20)]), by decide +kernel, by decide +kernel, by
      decide +kernel, uncounted_of (by decide +kernel), by decide +kernel, accepted_plain (by decide +kernel), by
      decide +kernel⟩⟩

theorem test_meets_SamplesBecomeSegments :
  (∃ (st : State) (i : SampleId), st.dev.sys.railsUp = true ∧ uncounted st.dev ∧ st.dev.mem.errs = [] ∧
   let p := i.p.val
   let r := i.ring.val
   let d := st.dev
   let x := d.ring p r
   let sh := x.shard
   let desc := d.rim.read (sh.descs + 256 * i.sidx) 256
   let cls := codecClass (dCodec desc)
   let fresh : Sample :=
     { id := i, stage := 1, cls, scratch := firstNeed desc, spare := 0xFFFFFFFF, log := [], desc, plain := [], frames := 0, firstTag := 0, tries := 0, emitted := false, spent := 0 }
   d.ringOn p r = true ∧ x.shards ≠ [] ∧ sh.ending = false ∧ sh.full = false ∧ d.flag rGovStatus 31 = false ∧ d.sample
     i = none ∧ sh.pack ≤ i.sidx ∧ i.sidx < sh.count ∧ (∀ e ∈ x.done, e.1 ≠ i.sidx) ∧ d.startReason p r desc = none ∧
     sh.replaying i.sidx 0 = false ∧ d.gateOn (gIcls cls) = true ∧ d.hasCredit p cls = true ∧ d.turn p cls = true ∧
     countIf (fun y => y.cls == cls && y.stage != 0) d.ing.samples < engines cls ∧ d.reserve fresh (firstNeed desc) =
     some true) ∧
  (∃ (st : State) (i : SampleId) (s : Sample), st.dev.sys.railsUp = true ∧ uncounted st.dev ∧ st.dev.mem.errs = [] ∧
   let p := i.p.val
   let d := st.dev
   d.sample i = some s ∧ s.stage = 1 ∧ d.hasCredit p 5 = true) ∧
  (∃ (st : State) (i : SampleId) (s : Sample), st.dev.sys.railsUp = true ∧ uncounted st.dev ∧ st.dev.mem.errs = [] ∧
   let d := st.dev
   d.sample i = some s ∧ s.stage = 2) ∧
  (∃ (st : State) (i : SampleId) (s : Sample) (us : Nat), st.dev.sys.railsUp = true ∧ uncounted st.dev ∧
    st.dev.mem.errs = [] ∧
   let p := i.p.val
   let r := i.ring.val
   let d := st.dev
   let x := d.ring p r
   let sh := x.shard
   d.sample i = some s ∧ s.stage = 3 ∧ sh.replaying i.sidx s.frames = false ∧ (isVideo (dCodec s.desc) = true → i.sidx
     = sh.pack) ∧
   let m := decode s.desc s.plain s.frames
   let n := unitsOf s.desc s.plain m
   let codec := dCodec s.desc
   s.spent + us * 1000 ≤ d.unitBudget p codec * n ∧ isImage codec = true) ∧
  (∃ (st : State) (i : SampleId) (s : Sample) (us : Nat), st.dev.sys.railsUp = true ∧ uncounted st.dev ∧
    st.dev.mem.errs = [] ∧
   let p := i.p.val
   let r := i.ring.val
   let d := st.dev
   let x := d.ring p r
   let sh := x.shard
   d.sample i = some s ∧ s.stage = 3 ∧ sh.replaying i.sidx s.frames = false ∧ (isVideo (dCodec s.desc) = true → i.sidx
     = sh.pack) ∧
   let m := decode s.desc s.plain s.frames
   let n := unitsOf s.desc s.plain m
   let codec := dCodec s.desc
   s.spent + us * 1000 ≤ d.unitBudget p codec * n ∧ ∃ rate chans, isAudio codec = true ∧ m = .sound rate chans) ∧
  (∃ (st : State) (i : SampleId) (s : Sample) (us : Nat), st.dev.sys.railsUp = true ∧ uncounted st.dev ∧
    st.dev.mem.errs = [] ∧
   let p := i.p.val
   let r := i.ring.val
   let d := st.dev
   let x := d.ring p r
   let sh := x.shard
   d.sample i = some s ∧ s.stage = 3 ∧ sh.replaying i.sidx s.frames = false ∧ (isVideo (dCodec s.desc) = true → i.sidx
     = sh.pack) ∧
   let m := decode s.desc s.plain s.frames
   let n := unitsOf s.desc s.plain m
   let codec := dCodec s.desc
   s.spent + us * 1000 ≤ d.unitBudget p codec * n ∧ ∃ txt, isText codec = true ∧ prepareText s.desc s.plain = some txt
     ∧ txt.length ≤ 64 * MiB) ∧
  (∃ (st : State) (i : SampleId) (s : Sample) (us : Nat), st.dev.sys.railsUp = true ∧ uncounted st.dev ∧
    st.dev.mem.errs = [] ∧
   let p := i.p.val
   let r := i.ring.val
   let d := st.dev
   let x := d.ring p r
   let sh := x.shard
   d.sample i = some s ∧ s.stage = 3 ∧ sh.replaying i.sidx s.frames = false ∧ (isVideo (dCodec s.desc) = true → i.sidx
     = sh.pack) ∧
   let m := decode s.desc s.plain s.frames
   let n := unitsOf s.desc s.plain m
   let codec := dCodec s.desc
   s.spent + us * 1000 ≤ d.unitBudget p codec * n ∧ ∃ reason, m = .stop reason) ∧
  (∃ (st : State) (i : SampleId) (s : Sample) (us : Nat), st.dev.sys.railsUp = true ∧ uncounted st.dev ∧
    st.dev.mem.errs = [] ∧
   let p := i.p.val
   let r := i.ring.val
   let d := st.dev
   let x := d.ring p r
   let sh := x.shard
   d.sample i = some s ∧ s.stage = 3 ∧ sh.replaying i.sidx s.frames = false ∧ (isVideo (dCodec s.desc) = true → i.sidx
     = sh.pack) ∧
   let m := decode s.desc s.plain s.frames
   let n := unitsOf s.desc s.plain m
   let codec := dCodec s.desc
   s.spent + us * 1000 ≤ d.unitBudget p codec * n ∧ isVideo codec = true) ∧
  (∃ (st : State) (i : SampleId) (s : Sample), st.dev.sys.railsUp = true ∧ uncounted st.dev ∧ st.dev.mem.errs = [] ∧
   let p := i.p.val
   let r := i.ring.val
   let d := st.dev
   let x := d.ring p r
   let sh := x.shard
   d.sample i = some s ∧ sh.replaying i.sidx s.frames = false ∧ sh.spareNext < sh.nspare ∧ sh.nspare ≤ 0xFFFFFFFF ∧
     s.stage = 3) ∧
  (∃ (st : State) (i : SampleId) (s : Sample), st.dev.sys.railsUp = true ∧ uncounted st.dev ∧ st.dev.mem.errs = [] ∧
   let p := i.p.val
   let r := i.ring.val
   let d := st.dev
   let x := d.ring p r
   let sh := x.shard
   d.sample i = some s ∧ sh.replaying i.sidx s.frames = false ∧ sh.spareNext < sh.nspare ∧ sh.nspare ≤ 0xFFFFFFFF ∧
     s.stage = 1) ∧
  (∃ (st : State) (i : SampleId) (s : Sample), st.dev.sys.railsUp = true ∧ uncounted st.dev ∧ st.dev.mem.errs = [] ∧
   let p := i.p.val
   let r := i.ring.val
   let d := st.dev
   let x := d.ring p r
   let sh := x.shard
   d.sample i = some s ∧ sh.replaying i.sidx s.frames = true ∧ s.stage = 1 ∧ s.tries < 3) :=
  ⟨⟨on
    (((((((({ idleDev with rim := [(0x1000, 0x0A), (0x1011, 4)], cus := { idleDev.cus with slotKeys := [(0, 9)] } }.setReg
    (rIngRingCfg 0 3) (2 ^ 63 + 2 ^ 45 + 2 ^ 27 + 4 * 2 ^ 11)).setReg (rIngScrSize 0) 1).setReg (rIngDict 0 0) (2 ^
    127)).setReg (rIngQuota 0 4) (2 ^ 32 + 1000)).setReg (rIngQuota 0 5) (2 ^ 32 + 1000)).setReg (rCusSlot 0) (2 ^ 63 +
    2 ^ 53))).setRing 0 3
    { Ring.none with shards := [({ Shard.none with id := 5, descs := 0x1000, count := 2, nspare := 1, cap := 16 })] }),
    ⟨0, 3, 0⟩, by decide +kernel, uncounted_of (by decide +kernel), by decide +kernel, by decide +kernel, by
    decide +kernel⟩,
    ⟨on
      ((((((((({ idleDev with rim := [(0x1000, 0x0A), (0x1011, 4)], cus := { idleDev.cus with slotKeys := [(0, 9)] } }.setReg
      (rIngRingCfg 0 3) (2 ^ 63 + 2 ^ 45 + 2 ^ 27 + 4 * 2 ^ 11)).setReg (rIngScrSize 0) 1).setReg (rIngDict 0 0) (2 ^
      127)).setReg (rIngQuota 0 4) (2 ^ 32 + 1000)).setReg (rIngQuota 0 5) (2 ^ 32 + 1000)).setReg (rCusSlot 0) (2 ^ 63
      + 2 ^ 53))).setRing 0 3
      { Ring.none with shards := [({ Shard.none with id := 5, descs := 0x1000, count := 2, nspare := 1, cap := 16 })] }).setSample
      ({ id := (⟨0, 3, 0⟩), stage := 1, cls := 4, scratch := 5120, spare := 0xFFFFFFFF, log := [], desc := (leBytes 1 0xA ++ List.replicate 15 0 ++ leBytes 8 1024 ++ List.replicate 232 0), plain := [], frames := 0, firstTag := 0, tries := 0, emitted := false, spent := 0 })),
      ⟨0, 3, 0⟩,
      { id := (⟨0, 3, 0⟩), stage := 1, cls := 4, scratch := 5120, spare := 0xFFFFFFFF, log := [], desc := (leBytes 1 0xA ++ List.replicate 15 0 ++ leBytes 8 1024 ++ List.replicate 232 0), plain := [], frames := 0, firstTag := 0, tries := 0, emitted := false, spent := 0 },
      by decide +kernel, uncounted_of (by decide +kernel), by decide +kernel, by decide +kernel, by decide +kernel⟩,
    ⟨on
      ((((((((({ idleDev with rim := [(0x1000, 0x0A), (0x1011, 4)], cus := { idleDev.cus with slotKeys := [(0, 9)] } }.setReg
      (rIngRingCfg 0 3) (2 ^ 63 + 2 ^ 45 + 2 ^ 27 + 4 * 2 ^ 11)).setReg (rIngScrSize 0) 1).setReg (rIngDict 0 0) (2 ^
      127)).setReg (rIngQuota 0 4) (2 ^ 32 + 1000)).setReg (rIngQuota 0 5) (2 ^ 32 + 1000)).setReg (rCusSlot 0) (2 ^ 63
      + 2 ^ 53))).setRing 0 3
      { Ring.none with shards := [({ Shard.none with id := 5, descs := 0x1000, count := 2, nspare := 1, cap := 16 })] }).setSample
      ({ id := (⟨0, 3, 0⟩), stage := 2, cls := 4, scratch := 5120, spare := 0xFFFFFFFF, log := [], desc := (leBytes 1 0xA ++ List.replicate 15 0 ++ leBytes 8 1024 ++ List.replicate 232 0), plain := ([65, 66, 67]), frames := 0, firstTag := 0, tries := 0, emitted := false, spent := 0 })),
      ⟨0, 3, 0⟩,
      { id := (⟨0, 3, 0⟩), stage := 2, cls := 4, scratch := 5120, spare := 0xFFFFFFFF, log := [], desc := (leBytes 1 0xA ++ List.replicate 15 0 ++ leBytes 8 1024 ++ List.replicate 232 0), plain := ([65, 66, 67]), frames := 0, firstTag := 0, tries := 0, emitted := false, spent := 0 },
      by decide +kernel, uncounted_of (by decide +kernel), by decide +kernel, by decide +kernel, by decide +kernel⟩,
    ⟨on
      ((((((((({ idleDev with rim := [(0x1000, 0x0A), (0x1011, 4)], cus := { idleDev.cus with slotKeys := [(0, 9)] } }.setReg
      (rIngRingCfg 0 3) (2 ^ 63 + 2 ^ 45 + 2 ^ 27 + 4 * 2 ^ 11)).setReg (rIngScrSize 0) 1).setReg (rIngDict 0 0) (2 ^
      127)).setReg (rIngQuota 0 4) (2 ^ 32 + 1000)).setReg (rIngQuota 0 5) (2 ^ 32 + 1000)).setReg (rCusSlot 0) (2 ^ 63
      + 2 ^ 53))).setRing 0 3
      { Ring.none with shards := [({ Shard.none with id := 5, descs := 0x1000, count := 2, nspare := 1, cap := 16 })] }).setSample
      ({ id := (⟨0, 3, 0⟩), stage := 3, cls := 4, scratch := 5120, spare := 0xFFFFFFFF, log := [], desc := (leBytes 1 1 ++ List.replicate 15 0 ++ leBytes 8 1024 ++ List.replicate 0x18 0 ++ leBytes 1 0 ++ leBytes 1 1 ++ leBytes 2 8 ++ leBytes 2 8 ++ List.replicate 0xCA 0), plain := ([65, 66, 67]), frames := 0, firstTag := 0, tries := 0, emitted := false, spent := 0 })),
      ⟨0, 3, 0⟩,
      { id := (⟨0, 3, 0⟩), stage := 3, cls := 4, scratch := 5120, spare := 0xFFFFFFFF, log := [], desc := (leBytes 1 1 ++ List.replicate 15 0 ++ leBytes 8 1024 ++ List.replicate 0x18 0 ++ leBytes 1 0 ++ leBytes 1 1 ++ leBytes 2 8 ++ leBytes 2 8 ++ List.replicate 0xCA 0), plain := ([65, 66, 67]), frames := 0, firstTag := 0, tries := 0, emitted := false, spent := 0 },
      0, by decide +kernel, uncounted_of (by decide +kernel), by decide +kernel, by decide +kernel, by decide +kernel,
      by decide +kernel, by decide +kernel, by decide +kernel, by decide +kernel⟩,
    ⟨on
      ((((((((({ idleDev with rim := [(0x1000, 0x0A), (0x1011, 4)], cus := { idleDev.cus with slotKeys := [(0, 9)] } }.setReg
      (rIngRingCfg 0 3) (2 ^ 63 + 2 ^ 45 + 2 ^ 27 + 4 * 2 ^ 11)).setReg (rIngScrSize 0) 1).setReg (rIngDict 0 0) (2 ^
      127)).setReg (rIngQuota 0 4) (2 ^ 32 + 1000)).setReg (rIngQuota 0 5) (2 ^ 32 + 1000)).setReg (rCusSlot 0) (2 ^ 63
      + 2 ^ 53))).setRing 0 3
      { Ring.none with shards := [({ Shard.none with id := 5, descs := 0x1000, count := 2, nspare := 1, cap := 16 })] }).setSample
      ({ id := (⟨0, 3, 0⟩), stage := 3, cls := 4, scratch := 5120, spare := 0xFFFFFFFF, log := [], desc := (leBytes 1 9 ++ List.replicate 15 0 ++ leBytes 8 1024 ++ List.replicate 0x60 0 ++ leBytes 4 8000 ++ leBytes 4 0x3F800000 ++ List.replicate 16 0 ++ leBytes 1 0 ++ leBytes 1 1 ++ leBytes 1 0 ++ leBytes 1 1 ++ leBytes 4 8000 ++ List.replicate 104 0), plain := ([0, 0x40]), frames := 0, firstTag := 0, tries := 0, emitted := false, spent := 0 })),
      ⟨0, 3, 0⟩,
      { id := (⟨0, 3, 0⟩), stage := 3, cls := 4, scratch := 5120, spare := 0xFFFFFFFF, log := [], desc := (leBytes 1 9 ++ List.replicate 15 0 ++ leBytes 8 1024 ++ List.replicate 0x60 0 ++ leBytes 4 8000 ++ leBytes 4 0x3F800000 ++ List.replicate 16 0 ++ leBytes 1 0 ++ leBytes 1 1 ++ leBytes 1 0 ++ leBytes 1 1 ++ leBytes 4 8000 ++ List.replicate 104 0), plain := ([0, 0x40]), frames := 0, firstTag := 0, tries := 0, emitted := false, spent := 0 },
      0, by decide +kernel, uncounted_of (by decide +kernel), by decide +kernel, by decide +kernel, by decide +kernel,
      by decide +kernel, by decide +kernel, by decide +kernel, 8000, [[0x3F000000]], by decide +kernel⟩,
    ⟨on
      ((((((((({ idleDev with rim := [(0x1000, 0x0A), (0x1011, 4)], cus := { idleDev.cus with slotKeys := [(0, 9)] } }.setReg
      (rIngRingCfg 0 3) (2 ^ 63 + 2 ^ 45 + 2 ^ 27 + 4 * 2 ^ 11)).setReg (rIngScrSize 0) 1).setReg (rIngDict 0 0) (2 ^
      127)).setReg (rIngQuota 0 4) (2 ^ 32 + 1000)).setReg (rIngQuota 0 5) (2 ^ 32 + 1000)).setReg (rCusSlot 0) (2 ^ 63
      + 2 ^ 53))).setRing 0 3
      { Ring.none with shards := [({ Shard.none with id := 5, descs := 0x1000, count := 2, nspare := 1, cap := 16 })] }).setSample
      ({ id := (⟨0, 3, 0⟩), stage := 3, cls := 4, scratch := 5120, spare := 0xFFFFFFFF, log := [], desc := (leBytes 1 0xA ++ List.replicate 15 0 ++ leBytes 8 1024 ++ List.replicate 232 0), plain := ([65, 66, 67]), frames := 0, firstTag := 0, tries := 0, emitted := false, spent := 0 })),
      ⟨0, 3, 0⟩,
      { id := (⟨0, 3, 0⟩), stage := 3, cls := 4, scratch := 5120, spare := 0xFFFFFFFF, log := [], desc := (leBytes 1 0xA ++ List.replicate 15 0 ++ leBytes 8 1024 ++ List.replicate 232 0), plain := ([65, 66, 67]), frames := 0, firstTag := 0, tries := 0, emitted := false, spent := 0 },
      0, by decide +kernel, uncounted_of (by decide +kernel), by decide +kernel, by decide +kernel, by decide +kernel,
      by decide +kernel, by decide +kernel, by decide +kernel, [65, 66, 67], by decide +kernel⟩,
    ⟨on
      ((((((((({ idleDev with rim := [(0x1000, 0x0A), (0x1011, 4)], cus := { idleDev.cus with slotKeys := [(0, 9)] } }.setReg
      (rIngRingCfg 0 3) (2 ^ 63 + 2 ^ 45 + 2 ^ 27 + 4 * 2 ^ 11)).setReg (rIngScrSize 0) 1).setReg (rIngDict 0 0) (2 ^
      127)).setReg (rIngQuota 0 4) (2 ^ 32 + 1000)).setReg (rIngQuota 0 5) (2 ^ 32 + 1000)).setReg (rCusSlot 0) (2 ^ 63
      + 2 ^ 53))).setRing 0 3
      { Ring.none with shards := [({ Shard.none with id := 5, descs := 0x1000, count := 2, nspare := 1, cap := 16 })] }).setSample
      ({ id := (⟨0, 3, 0⟩), stage := 3, cls := 4, scratch := 5120, spare := 0xFFFFFFFF, log := [], desc := (leBytes 1 0xA ++ leBytes 1 0 ++ leBytes 2 16 ++ List.replicate 12 0 ++ leBytes 8 1024 ++ List.replicate 232 0), plain := ([65, 0xFF]), frames := 0, firstTag := 0, tries := 0, emitted := false, spent := 0 })),
      ⟨0, 3, 0⟩,
      { id := (⟨0, 3, 0⟩), stage := 3, cls := 4, scratch := 5120, spare := 0xFFFFFFFF, log := [], desc := (leBytes 1 0xA ++ leBytes 1 0 ++ leBytes 2 16 ++ List.replicate 12 0 ++ leBytes 8 1024 ++ List.replicate 232 0), plain := ([65, 0xFF]), frames := 0, firstTag := 0, tries := 0, emitted := false, spent := 0 },
      0, by decide +kernel, uncounted_of (by decide +kernel), by decide +kernel, by decide +kernel, by decide +kernel,
      by decide +kernel, by decide +kernel, by decide +kernel, 9, by decide +kernel⟩,
    ⟨on
      ((((((((({ idleDev with rim := [(0x1000, 0x0A), (0x1011, 4)], cus := { idleDev.cus with slotKeys := [(0, 9)] } }.setReg
      (rIngRingCfg 0 3) (2 ^ 63 + 2 ^ 45 + 2 ^ 27 + 4 * 2 ^ 11)).setReg (rIngScrSize 0) 1).setReg (rIngDict 0 0) (2 ^
      127)).setReg (rIngQuota 0 4) (2 ^ 32 + 1000)).setReg (rIngQuota 0 5) (2 ^ 32 + 1000)).setReg (rCusSlot 0) (2 ^ 63
      + 2 ^ 53))).setRing 0 3
      { Ring.none with shards := [({ Shard.none with id := 5, descs := 0x1000, count := 2, nspare := 1, cap := 16 })] }).setSample
      ({ id := (⟨0, 3, 0⟩), stage := 3, cls := 4, scratch := 5120, spare := 0xFFFFFFFF, log := [], desc := (leBytes 1 3 ++ List.replicate 15 0 ++ leBytes 8 1024 ++ List.replicate 0x18 0 ++ leBytes 1 0 ++ leBytes 1 1 ++ leBytes 2 8 ++ leBytes 2 8 ++ List.replicate 0xCA 0), plain := ([65, 66, 67]), frames := 0, firstTag := 0, tries := 0, emitted := false, spent := 0 })),
      ⟨0, 3, 0⟩,
      { id := (⟨0, 3, 0⟩), stage := 3, cls := 4, scratch := 5120, spare := 0xFFFFFFFF, log := [], desc := (leBytes 1 3 ++ List.replicate 15 0 ++ leBytes 8 1024 ++ List.replicate 0x18 0 ++ leBytes 1 0 ++ leBytes 1 1 ++ leBytes 2 8 ++ leBytes 2 8 ++ List.replicate 0xCA 0), plain := ([65, 66, 67]), frames := 0, firstTag := 0, tries := 0, emitted := false, spent := 0 },
      0, by decide +kernel, uncounted_of (by decide +kernel), by decide +kernel, by decide +kernel, by decide +kernel,
      by decide +kernel, by decide +kernel, by decide +kernel, by decide +kernel⟩,
    ⟨on
      ((((((((({ idleDev with rim := [(0x1000, 0x0A), (0x1011, 4)], cus := { idleDev.cus with slotKeys := [(0, 9)] } }.setReg
      (rIngRingCfg 0 3) (2 ^ 63 + 2 ^ 45 + 2 ^ 27 + 4 * 2 ^ 11)).setReg (rIngScrSize 0) 1).setReg (rIngDict 0 0) (2 ^
      127)).setReg (rIngQuota 0 4) (2 ^ 32 + 1000)).setReg (rIngQuota 0 5) (2 ^ 32 + 1000)).setReg (rCusSlot 0) (2 ^ 63
      + 2 ^ 53))).setRing 0 3
      { Ring.none with shards := [({ Shard.none with id := 5, descs := 0x1000, count := 2, nspare := 1, cap := 16 })] }).setSample
      ({ id := (⟨0, 3, 0⟩), stage := 3, cls := 4, scratch := 5120, spare := 0xFFFFFFFF, log := [], desc := (leBytes 1 0xA ++ List.replicate 15 0 ++ leBytes 8 1024 ++ List.replicate 232 0), plain := ([65, 66, 67]), frames := 0, firstTag := 0, tries := 0, emitted := false, spent := 0 })),
      ⟨0, 3, 0⟩,
      { id := (⟨0, 3, 0⟩), stage := 3, cls := 4, scratch := 5120, spare := 0xFFFFFFFF, log := [], desc := (leBytes 1 0xA ++ List.replicate 15 0 ++ leBytes 8 1024 ++ List.replicate 232 0), plain := ([65, 66, 67]), frames := 0, firstTag := 0, tries := 0, emitted := false, spent := 0 },
      by decide +kernel, uncounted_of (by decide +kernel), by decide +kernel, by decide +kernel, by decide +kernel⟩,
    ⟨on
      ((((((((({ idleDev with rim := [(0x1000, 0x0A), (0x1011, 4)], cus := { idleDev.cus with slotKeys := [(0, 9)] } }.setReg
      (rIngRingCfg 0 3) (2 ^ 63 + 2 ^ 45 + 2 ^ 27 + 4 * 2 ^ 11)).setReg (rIngScrSize 0) 1).setReg (rIngDict 0 0) (2 ^
      127)).setReg (rIngQuota 0 4) (2 ^ 32 + 1000)).setReg (rIngQuota 0 5) (2 ^ 32 + 1000)).setReg (rCusSlot 0) (2 ^ 63
      + 2 ^ 53))).setRing 0 3
      { Ring.none with shards := [({ Shard.none with id := 5, descs := 0x1000, count := 2, nspare := 1, cap := 16 })] }).setSample
      ({ id := (⟨0, 3, 0⟩), stage := 1, cls := 4, scratch := 5120, spare := 0xFFFFFFFF, log := [], desc := (leBytes 1 0xA ++ List.replicate 15 0 ++ leBytes 8 1024 ++ List.replicate 232 0), plain := [], frames := 0, firstTag := 0, tries := 0, emitted := false, spent := 0 })),
      ⟨0, 3, 0⟩,
      { id := (⟨0, 3, 0⟩), stage := 1, cls := 4, scratch := 5120, spare := 0xFFFFFFFF, log := [], desc := (leBytes 1 0xA ++ List.replicate 15 0 ++ leBytes 8 1024 ++ List.replicate 232 0), plain := [], frames := 0, firstTag := 0, tries := 0, emitted := false, spent := 0 },
      by decide +kernel, uncounted_of (by decide +kernel), by decide +kernel, by decide +kernel, by decide +kernel⟩,
    ⟨on
      ((((((((({ idleDev with rim := [(0x1000, 0x0A), (0x1011, 4)], cus := { idleDev.cus with slotKeys := [(0, 9)] } }.setReg
      (rIngRingCfg 0 3) (2 ^ 63 + 2 ^ 45 + 2 ^ 27 + 4 * 2 ^ 11)).setReg (rIngScrSize 0) 1).setReg (rIngDict 0 0) (2 ^
      127)).setReg (rIngQuota 0 4) (2 ^ 32 + 1000)).setReg (rIngQuota 0 5) (2 ^ 32 + 1000)).setReg (rCusSlot 0) (2 ^ 63
      + 2 ^ 53))).setRing 0 3
      { Ring.none with shards := [({ Shard.none with id := 5, descs := 0x1000, count := 2, nspare := 1, cap := 16, replayHwm := some (0, 0) })] }).setSample
      ({ id := (⟨0, 3, 0⟩), stage := 1, cls := 4, scratch := 5120, spare := 0xFFFFFFFF, log := [], desc := (leBytes 1 0xA ++ List.replicate 15 0 ++ leBytes 8 1024 ++ List.replicate 232 0), plain := [], frames := 0, firstTag := 0, tries := 2, emitted := false, spent := 0 })),
      ⟨0, 3, 0⟩,
      { id := (⟨0, 3, 0⟩), stage := 1, cls := 4, scratch := 5120, spare := 0xFFFFFFFF, log := [], desc := (leBytes 1 0xA ++ List.replicate 15 0 ++ leBytes 8 1024 ++ List.replicate 232 0), plain := [], frames := 0, firstTag := 0, tries := 2, emitted := false, spent := 0 },
      by decide +kernel, uncounted_of (by decide +kernel), by decide +kernel, by decide +kernel, by decide +kernel⟩⟩

theorem test_meets_RowsLogsAndLists :
  (∃ (st : State) (p : PartN) (ring : Fin 4) (w : Row) (rest : List Row), st.dev.sys.railsUp = true ∧
   let r := ring.val
   let d := st.dev
   let x := d.ring p.val r
   let wr := d.ringWritten p.val r
   let nent := d.ringNent p.val r
   x.rows = w :: rest ∧ d.ringOn p.val r = true ∧ diff32 wr (d.ringReleased p.val r) < nent ∧ d.entryInUse p.val r
     ((wr + 2 ^ 32 - nent) % 2 ^ 32) = false ∧ x.shards = []) ∧
  (∃ (st : State) (p : PartN) (ring : Fin 4) (sh : Shard), st.dev.sys.railsUp = true ∧
   let r := ring.val
   let d := st.dev
   let x := d.ring p.val r
   x.shards = [sh] ∧ sh.full = true) ∧
  (∃ (st : State) (p : PartN) (ring : Fin 4) (sh : Shard), st.dev.sys.railsUp = true ∧
   let r := ring.val
   let d := st.dev
   let x := d.ring p.val r
   x.shards = [sh] ∧ (sh.replay.any fun l => l.kind == 2) = true) ∧
  (∃ (st : State) (p : PartN) (ring : Fin 4), st.dev.sys.railsUp = true ∧
   let r := ring.val
   let d := st.dev
   let x := d.ring p.val r
   ∃ a n tag posted, x.posted = (a, n, tag) :: posted ∧ uncounted d ∧ d.mem.errs = []) :=
  ⟨⟨on ((((((idleDev.setReg (rIngRingCfg 0 3) (2 ^ 63 + 2 ^ 45 + 2 ^ 27 + 4 * 2 ^ 11)).setReg (rIngRingBase 0 3) (2 *
    2 ^ 48 + 0x1000)).setReg (rIngRingEsz 0 3) 192)).setReg (rIngRingPtr 0 3) (2 ^ 64)).setRing 0 3
    { Ring.none with rows := [(⟨0, 5, false, [], 0, 0, 0⟩)] }), 0, 3, ⟨0, 5, false, [], 0, 0, 0⟩, [], by decide +kernel,
    by decide +kernel, by decide +kernel⟩,
    ⟨on ((got (((((idleDev.setReg (rIngRingCfg 0 3) (2 ^ 63 + 2 ^ 45 + 2 ^ 27 + 4 * 2 ^ 11)).setReg (rIngRingBase 0 3)
      (2 * 2 ^ 48 + 0x1000)).setReg (rIngRingEsz 0 3) 192)).setReg (rIngRingPtr 0 3) (2 ^ 64)) (command 0x503 0 0
      [])).setRing 0 3
      { Ring.none with shards := [({ Shard.none with id := 5, descs := 0x1000, count := 2, nspare := 1, cap := 16, logged := 16, seq := 6, replay := [⟨2, 0, 0, 0, 0⟩] })] }),
      0, 3,
      { Shard.none with id := 5, descs := 0x1000, count := 2, nspare := 1, cap := 16, logged := 16, seq := 6, replay := [⟨2, 0, 0, 0, 0⟩] },
      by decide +kernel, by decide +kernel, by decide +kernel⟩,
    ⟨on ((got (((((idleDev.setReg (rIngRingCfg 0 3) (2 ^ 63 + 2 ^ 45 + 2 ^ 27 + 4 * 2 ^ 11)).setReg (rIngRingBase 0 3)
      (2 * 2 ^ 48 + 0x1000)).setReg (rIngRingEsz 0 3) 192)).setReg (rIngRingPtr 0 3) (2 ^ 64)) (command 0x503 0 0
      [])).setRing 0 3
      { Ring.none with shards := [({ Shard.none with id := 5, descs := 0x1000, count := 2, nspare := 1, cap := 16, logged := 16, seq := 6, replay := [⟨2, 0, 0, 0, 0⟩] })] }),
      0, 3,
      { Shard.none with id := 5, descs := 0x1000, count := 2, nspare := 1, cap := 16, logged := 16, seq := 6, replay := [⟨2, 0, 0, 0, 0⟩] },
      by decide +kernel, by decide +kernel, by decide +kernel⟩,
    ⟨on ((((((idleDev.setReg (rIngRingCfg 0 3) (2 ^ 63 + 2 ^ 45 + 2 ^ 27 + 4 * 2 ^ 11)).setReg (rIngRingBase 0 3) (2 *
      2 ^ 48 + 0x1000)).setReg (rIngRingEsz 0 3) 192)).setReg (rIngRingPtr 0 3) (2 ^ 64)).setRing 0 3
      { Ring.none with posted := [(0x2000, 64, 0xC0000001)] }), 0, 3, by decide +kernel, 0x2000, 64, 0xC0000001, [], by
      decide +kernel, uncounted_of (by decide +kernel), by decide +kernel⟩⟩

theorem test_meets_AttestationAndSessions :
  (∃ (st : State) (q : QueueN) (c : FetchedCmd) (e : Dev), st.dev.sys.railsUp = true ∧ ∃ g : Dev,
   let spec := [PKind.bytes 32, .num 8]
   Accepted st.dev q 0x601 spec c e ∧ (c.part = 0xFF ∨ (c.part < 16 ∧ e.partValid c.part = true)) ∧
     e.waitingReports.length < 16 ∧ (e.interim (began c)).nextLeaf = some g) ∧
  (∃ (st : State) (q : QueueN) (c : FetchedCmd) (e : Dev), st.dev.sys.railsUp = true ∧ Accepted st.dev q 0x602 [.num
    8] c e) ∧
  (∃ st : State, st.dev.sys.railsUp = true ∧ ∃ (i : Fin 16) (r : Report), r ∈ st.dev.cus.reports ∧ r.idx = i.val) ∧
  (∃ (st : State) (q : QueueN) (c : FetchedCmd) (e : Dev), st.dev.sys.railsUp = true ∧ ∃ (r : Report) (s : Nat),
   let spec := [PKind.num 1, .bytes 1568]
   let v := (c.params spec).at
   Accepted st.dev q 0x603 spec c e ∧ e.cus.reports.find? (fun x => x.idx == v 0 && x.part == c.part) = some r ∧
     r.expired = false ∧ s < 256 ∧ e.prinValid (s + 1) = false ∧ (∀ j < s, e.prinValid (j + 1) = true)) ∧
  (∃ (st : State) (q : QueueN) (c : FetchedCmd) (e : Dev), st.dev.sys.railsUp = true ∧
   let v := (c.params [.num 1]).at
   Accepted st.dev q 0x604 [.num 1] c e ∧ v 0 < 256) ∧
  (∃ (st : State) (q : QueueN) (c : FetchedCmd) (e : Dev), st.dev.sys.railsUp = true ∧ ∃ s : Principal,
   let k := if e.ownerSet then (c.params [.num 1]).at 0 + 1 else (prinOf (leAt c.entry 0x78 4)).getD 0
   Accepted st.dev q 0x605 [.num 1] c e ∧ e.principal k = some s ∧ e.sessionOf k 0xFF = true) ∧
  (∃ st : State, st.dev.sys.railsUp = true ∧ ∃ k : Fin 257, st.dev.flag (rCusPrin k.val) 126 = true) :=
  ⟨⟨on (got idleDev (command 0x601 0xFF 0 [(8, 1), (8, 2), (8, 3), (8, 4), (8, 0x9000)])), 2, command 0x601 0xFF 0
    [(8, 1), (8, 2), (8, 3), (8, 4), (8, 0x9000)], went idleDev (command 0x601 0xFF 0 [(8, 1), (8, 2), (8, 3), (8, 4),
    (8, 0x9000)]), by decide +kernel, (((went idleDev (command 0x601 0xFF 0 [(8, 1), (8, 2), (8, 3), (8, 4), (8,
    0x9000)])).interim (began (command 0x601 0xFF 0 [(8, 1), (8, 2), (8, 3), (8, 4), (8, 0x9000)]))).nextLeaf).getD
    (went idleDev (command 0x601 0xFF 0 [(8, 1), (8, 2), (8, 3), (8, 4), (8, 0x9000)])), accepted_plain (by
    decide +kernel), by decide +kernel⟩,
    ⟨on (got idleDev (command 0x602 0 0 [(8, 0x9000)])), 2, command 0x602 0 0 [(8, 0x9000)], went idleDev (command
      0x602 0 0 [(8, 0x9000)]), by decide +kernel, accepted_plain (by decide +kernel)⟩,
    ⟨on (got ({ idleDev with cus := { idleDev.cus with reports := [(⟨15, 0, 1, 2, false⟩)] } }) (command 0x602 0 0
      [(8, 0x9000)])), by decide +kernel, 15, ⟨15, 0, 1, 2, false⟩, by decide +kernel⟩,
    ⟨on (got ({ idleDev with cus := { idleDev.cus with reports := [(⟨15, 0, 1, 2, false⟩)] } }) (command 0x603 0 0
      [(1, 15)] (List.replicate 1568 0))), 2, command 0x603 0 0 [(1, 15)] (List.replicate 1568 0), went
      ({ idleDev with cus := { idleDev.cus with reports := [(⟨15, 0, 1, 2, false⟩)] } }) (command 0x603 0 0 [(1, 15)]
      (List.replicate 1568 0)), by decide +kernel, ⟨15, 0, 1, 2, false⟩, 0, accepted_plain (by decide +kernel), by
      decide +kernel⟩,
    ⟨on (got (idleDev.setReg (rCusPrin 256) (2 ^ 127)) (command 0x604 0 0 [(1, 255)])), 2, command 0x604 0 0 [(1,
      255)], went (idleDev.setReg (rCusPrin 256) (2 ^ 127)) (command 0x604 0 0 [(1, 255)]), by decide +kernel,
      accepted_plain (by decide +kernel), by decide +kernel⟩,
    ⟨on (got
      ({ idleDev.setReg (rCusPrin 256) (2 ^ 127 + 2 ^ 121) with cus := { idleDev.cus with principals := [(⟨256, 5, 6, 0, 0⟩)] } })
      (command 0x605 0xFF 0 [(1, 255), (8, 0), (8, 0), (8, 0), (8, 0), (8, 0), (8, 0), (8, 0), (8, 0), (8, 0), (8, 0),
      (4, 0x100FF), (4, 0)])), 2, command 0x605 0xFF 0 [(1, 255), (8, 0), (8, 0), (8, 0), (8, 0), (8, 0), (8, 0), (8,
      0), (8, 0), (8, 0), (8, 0), (4, 0x100FF), (4, 0)], went
      ({ idleDev.setReg (rCusPrin 256) (2 ^ 127 + 2 ^ 121) with cus := { idleDev.cus with principals := [(⟨256, 5, 6, 0, 0⟩)] } })
      (command 0x605 0xFF 0 [(1, 255), (8, 0), (8, 0), (8, 0), (8, 0), (8, 0), (8, 0), (8, 0), (8, 0), (8, 0), (8, 0),
      (4, 0x100FF), (4, 0)]), by decide +kernel, ⟨256, 5, 6, 0, 0⟩, accepted_plain (by decide +kernel), by
      decide +kernel⟩,
    ⟨on (got
      ({ idleDev.setReg (rCusPrin 256) (2 ^ 127 + 2 ^ 126 + 16 * 2 ^ 115) with cus := { idleDev.cus with principals := [⟨256, 5, 6, 3, 0⟩] } })
      (command 0x602 0 0 [(8, 0x9000)])), by decide +kernel, 256, by decide +kernel⟩⟩

theorem test_meets_KeysAndSealing :
  (∃ (st : State) (q : QueueN) (c : FetchedCmd), st.dev.sys.railsUp = true ∧
   let p := c.part
   let k := c.prin
   st.dev.startable q.val = some c ∧ k ≠ 0 ∧ p < 16 ∧ st.dev.switchedOut p = true) ∧
  (∃ (st : State) (q : QueueN) (c : FetchedCmd) (e : Dev), st.dev.sys.railsUp = true ∧
   let p := c.part
   let spec := [PKind.num 2, .num 1, .bytes 40]
   let v := (c.params spec).at
   let k := c.prin
   Accepted st.dev q 0x606 spec c e ∧ (k = 0 ∨ 16 ≤ p ∨ st.dev.switchedOut p = false) ∧ v 0 < 4096 ∧ e.flag rCusStatus
     62 = false ∧ (if k = 0 then v 1 = 5 else 1 ≤ v 1 ∧ v 1 ≤ 4) ∧ e.flag (rCusSlot (v 0)) 63 = false) ∧
  (∃ (st : State) (q : QueueN) (c : FetchedCmd) (e : Dev), st.dev.sys.railsUp = true ∧
   let p := c.part
   let slot := (c.params [.num 2]).at 0
   let r := e.reg (rCusSlot slot)
   Accepted st.dev q 0x607 [.num 2] c e ∧ slot < 4096 ∧ bit r 63 = true ∧ bit r 62 = false ∧ e.mayErase c.prin p slot
     = true) ∧
  (∃ (st : State) (q : QueueN) (c : FetchedCmd) (e : Dev), st.dev.sys.railsUp = true ∧
   let p := c.part
   let x := (c.params [.num 1]).at 0
   Accepted st.dev q 0x608 [.num 1] c e ∧ x ≤ 1 ∧ p < 16 ∧ e.partValid p = true) ∧
  (∃ (st : State) (q : QueueN) (c : FetchedCmd) (e : Dev), st.dev.sys.railsUp = true ∧
   let p := c.part
   let spec := [PKind.num 2, .num 8, .num 8, .num 8, .num 8]
   let v := (c.params spec).at
   let slot := v 0
   p < 16 ∧ e.partValid p = true ∧ uncounted e ∧ e.mem.errs = [] ∧ ∃ key, e.sealKey slot p = some key ∧ Accepted
     st.dev q 0x609 spec c e ∧ 1 ≤ v 2 ∧ v 2 ≤ 2 ^ 32 ∧ e.fld (rCusSlot slot) 32 0 < 2 ^ 32 ∧ e.sealBad p (v 1) (v 2)
     true = none ∧ e.sealBad p (v 3) (v 2 + 48) false = none) ∧
  (∃ (st : State) (q : QueueN) (c : FetchedCmd) (e : Dev), st.dev.sys.railsUp = true ∧
   let p := c.part
   let spec := [PKind.num 2, .num 8, .num 8, .num 8, .num 8]
   let v := (c.params spec).at
   let slot := v 0
   p < 16 ∧ e.partValid p = true ∧ uncounted e ∧ e.mem.errs = [] ∧ ∃ key, e.sealKey slot p = some key ∧ Accepted
     st.dev q 0x60A spec c e ∧ 48 ≤ v 2 ∧ v 2 ≤ 2 ^ 32 + 48 ∧ e.sealBad p (v 1) (v 2) false = none ∧ e.sealBad p (v 3)
     (v 2 - 48) true = none ∧
   let obj := e.gread p (v 1) (v 2)
   leAt obj 0 4 = 0x4F454E31 ∧ leAt obj 4 2 = 1 ∧ leAt obj 6 2 = 0 ∧ leAt obj 0x1C 4 = 0 ∧ leAt obj 8 8 = v 4) ∧
  (∃ (st : State) (q : QueueN), st.dev.sys.railsUp = true ∧ ∃ (cid : BitVec 32) (j : SealJob) (b : FetchedCmd),
    st.dev.cus.seals.find? (fun s =>
        (st.dev.fetchedCmd s.seq).any fun x => x.q == q.val && x.cid == cid.toNat) = some j ∧ st.dev.fetchedCmd j.seq
          = some b) ∧
  (∃ (st : State) (q : QueueN) (c : FetchedCmd) (e : Dev), st.dev.sys.railsUp = true ∧
   let p := c.part
   let v := (c.params [.num 8, .num 8, .num 8]).at
   Accepted st.dev q 0x60B [.num 8, .num 8, .num 8] c e ∧ 1 ≤ v 1 ∧ v 1 ≤ 2 ^ 32 ∧ p < 16 ∧ e.partValid p = true ∧
     uncounted e ∧ e.mem.errs = [] ∧ e.flag (rCusPol p) 63 = true ∧ e.sealBad p (v 0) (v 1) true = none ∧ e.sealBad p (v
     2) (v 1) false = none) :=
  ⟨⟨on (got (idleDev.setReg (rPrtState 0) (4 * 2 ^ 27))
    ({ command 0x606 0 0 [] with entry := entryOf (leBytes 4 0x606 ++ List.replicate 116 0 ++ leBytes 4 0x10000) })), 2,
    { command 0x606 0 0 [] with entry := entryOf (leBytes 4 0x606 ++ List.replicate 116 0 ++ leBytes 4 0x10000) }, by
    decide +kernel, by decide +kernel, by decide +kernel⟩,
    ⟨on (got idleDev (command 0x606 0 0 [(2, 4095), (1, 5)])), 2, command 0x606 0 0 [(2, 4095), (1, 5)], went idleDev
      (command 0x606 0 0 [(2, 4095), (1, 5)]), by decide +kernel, accepted_plain (by decide +kernel), by
      decide +kernel⟩,
    ⟨on (got
      ({ idleDev.setReg (rCusSlot 4095) (2 ^ 63 + 2 ^ 61 + 5 * 2 ^ 53) with cus := { idleDev.cus with slotKeys := [(4095, 9)] } })
      (command 0x607 0 0 [(2, 4095)])), 2, command 0x607 0 0 [(2, 4095)], went
      ({ idleDev.setReg (rCusSlot 4095) (2 ^ 63 + 2 ^ 61 + 5 * 2 ^ 53) with cus := { idleDev.cus with slotKeys := [(4095, 9)] } })
      (command 0x607 0 0 [(2, 4095)]), by decide +kernel, accepted_plain (by decide +kernel), by decide +kernel⟩,
    ⟨on (got idleDev (command 0x608 0 0 [(1, 1)])), 2, command 0x608 0 0 [(1, 1)], went idleDev (command 0x608 0 0
      [(1, 1)]), by decide +kernel, accepted_plain (by decide +kernel), by decide +kernel⟩,
    ⟨on (got
      ({ idleDev.setReg (rCusSlot 4095) (2 ^ 63 + 2 * 2 ^ 53) with cus := { idleDev.cus with slotKeys := [(4095, 9)] } })
      (command 0x609 0 0 [(2, 4095), (8, 0x1000), (8, 64), (8, 0x2000), (8, 9)])), 2, command 0x609 0 0 [(2, 4095), (8,
      0x1000), (8, 64), (8, 0x2000), (8, 9)], went
      ({ idleDev.setReg (rCusSlot 4095) (2 ^ 63 + 2 * 2 ^ 53) with cus := { idleDev.cus with slotKeys := [(4095, 9)] } })
      (command 0x609 0 0 [(2, 4095), (8, 0x1000), (8, 64), (8, 0x2000), (8, 9)]), by decide +kernel, by decide +kernel,
      by decide +kernel, uncounted_of (by decide +kernel), by decide +kernel, 9, by decide +kernel, accepted_plain (by
      decide +kernel), by decide +kernel⟩,
    ⟨on (got
      ({ idleDev.setReg (rCusSlot 4095) (2 ^ 63 + 2 * 2 ^ 53) with cus := { idleDev.cus with slotKeys := [(4095, 9)] }, rim := [(0x1000, 0x31), (0x1001, 0x4E), (0x1002, 0x45), (0x1003, 0x4F), (0x1004, 1), (0x1008, 9)] })
      (command 0x60A 0 0 [(2, 4095), (8, 0x1000), (8, 48), (8, 0x2000), (8, 9)])), 2, command 0x60A 0 0 [(2, 4095), (8,
      0x1000), (8, 48), (8, 0x2000), (8, 9)], went
      ({ idleDev.setReg (rCusSlot 4095) (2 ^ 63 + 2 * 2 ^ 53) with cus := { idleDev.cus with slotKeys := [(4095, 9)] }, rim := [(0x1000, 0x31), (0x1001, 0x4E), (0x1002, 0x45), (0x1003, 0x4F), (0x1004, 1), (0x1008, 9)] })
      (command 0x60A 0 0 [(2, 4095), (8, 0x1000), (8, 48), (8, 0x2000), (8, 9)]), by decide +kernel, by decide +kernel,
      by decide +kernel, uncounted_of (by decide +kernel), by decide +kernel, 9, by decide +kernel, accepted_plain (by
      decide +kernel), by decide +kernel, by decide +kernel, by decide +kernel, by decide +kernel, by decide +kernel, by
      decide +kernel⟩,
    ⟨on
      { got idleDev ({ (command 0x60A 0 0 []) with started := true }) with cus := { idleDev.cus with seals := [(⟨6, 0, true, 4095, 0x2000, 64, [], false⟩)] } },
      2, by decide +kernel, 0x77, ⟨6, 0, true, 4095, 0x2000, 64, [], false⟩,
      { (command 0x60A 0 0 []) with started := true }, by decide +kernel⟩,
    ⟨on (got (idleDev.setReg (rCusPol 0) (2 ^ 63)) (command 0x60B 0 0 [(8, 0x1000), (8, 64), (8, 0x2000)])), 2,
      command 0x60B 0 0 [(8, 0x1000), (8, 64), (8, 0x2000)], went (idleDev.setReg (rCusPol 0) (2 ^ 63)) (command 0x60B 0
      0 [(8, 0x1000), (8, 64), (8, 0x2000)]), by decide +kernel, accepted_plain (by decide +kernel), by decide +kernel,
      by decide +kernel, by decide +kernel, by decide +kernel, uncounted_of (by decide +kernel), by decide +kernel⟩⟩

theorem test_meets_FirmwareAndFuses :
  (∃ (st : State) (q : QueueN) (c : FetchedCmd) (e : Dev), st.dev.sys.railsUp = true ∧
   let v := (c.params [.num 1, .num 1]).at
   let k := v 0
   Accepted st.dev q 0x60C [.num 1, .num 1] c e ∧ k ≤ 4 ∧ v 1 ≤ 1 ∧ (e.sys.pldm.map fun x => x.val) ≠ some k ∧ (v 1 =
     1 → (e.bank k).staged = true)) ∧
  (∃ (st : State) (q : QueueN) (c : FetchedCmd) (e : Dev), st.dev.sys.railsUp = true ∧ Accepted st.dev q 0x60D [] c e) ∧
  (∃ (st : State) (q : QueueN) (c : FetchedCmd) (e : Dev), st.dev.sys.railsUp = true ∧ Accepted st.dev q 0x60E [] c e) ∧
  (∃ (st : State) (q : QueueN) (c : FetchedCmd) (e : Dev), st.dev.sys.railsUp = true ∧ Accepted st.dev q 0x610 [] c e
    ∧ e.cus.killFuse = false ∧ e.cus.unlock = none) ∧
  (∃ (st : State) (q : QueueN) (c : FetchedCmd) (e : Dev), st.dev.sys.railsUp = true ∧ Accepted st.dev q 0x611 [] c e) ∧
  (∃ (st : State) (q : QueueN) (c : FetchedCmd) (e : Dev), st.dev.sys.railsUp = true ∧ Accepted st.dev q 0x60F [] c e)
    :=
  ⟨⟨on (got idleDev (command 0x60C 0xFF 0 [(1, 4), (1, 0)] [1, 2, 3])), 2, command 0x60C 0xFF 0 [(1, 4), (1, 0)] [1,
    2, 3], went idleDev (command 0x60C 0xFF 0 [(1, 4), (1, 0)] [1, 2, 3]), by decide +kernel, accepted_plain (by
    decide +kernel), by decide +kernel⟩,
    ⟨on (got idleDev (command 0x60D 0xFF 0 [])), 2, command 0x60D 0xFF 0 [], went idleDev (command 0x60D 0xFF 0 []),
      by decide +kernel, accepted_plain (by decide +kernel)⟩,
    ⟨on (got idleDev (command 0x60E 0xFF 0 [])), 2, command 0x60E 0xFF 0 [], went idleDev (command 0x60E 0xFF 0 []),
      by decide +kernel, accepted_plain (by decide +kernel)⟩,
    ⟨on (got idleDev (command 0x610 0xFF 0 [])), 2, command 0x610 0xFF 0 [], went idleDev (command 0x610 0xFF 0 []),
      by decide +kernel, accepted_plain (by decide +kernel), by decide +kernel⟩,
    ⟨on (got idleDev (command 0x611 0xFF 0 [])), 2, command 0x611 0xFF 0 [], went idleDev (command 0x611 0xFF 0 []),
      by decide +kernel, accepted_plain (by decide +kernel)⟩,
    ⟨on (got ({ idleDev with cus := { idleDev.cus with unlock := some 3 } }) (command 0x60F 0xFF 0 [])), 2, command
      0x60F 0xFF 0 [], went ({ idleDev with cus := { idleDev.cus with unlock := some 3 } }) (command 0x60F 0xFF 0 []),
      by decide +kernel, accepted_plain (by decide +kernel)⟩⟩

theorem test_meets_PartitionsAreCreatedAndEnd :
  (∃ (st : State) (q : QueueN) (c : FetchedCmd) (e : Dev), st.dev.sys.railsUp = true ∧
   let p := c.part
   let spec := [PKind.num 2, .num 1, .num 1, .num 1, .num 1, .num 8, .num 1, .num 1, .num 1, .num 4]
   let v := (c.params spec).at
   let x := creationOf p (c.params spec)
   Accepted st.dev q 0x701 spec c e ∧ 1 ≤ v 0 ∧ v 0 < 2 ^ 16 ∧ (v 1 ≤ 7 ∨ v 1 = 0xF) ∧ v 2 ≤ 3 ∧ v 3 < 256 ∧ v 4 < 256
     ∧ v 5 < 2 ^ 48 ∧ v 8 ≤ 3 ∧ 2000 ≤ v 9 ∧ v 9 ≤ 1000000 ∧ p < 16 ∧ e.partValid p = false ∧ e.createParam x = none ∧
     e.createBusy x = false ∧ (∀ h < 2, (e.groupMembers x).isEmpty = true → sectorsOn x.sectors h ≠ 0 → e.flag (rSeqLock
     h) 0 = false)) ∧
  (∃ (st : State) (q : QueueN) (c : FetchedCmd) (e : Dev), st.dev.sys.railsUp = true ∧
   let p := c.part
   Accepted st.dev q 0x702 [] c e ∧ p < 16 ∧ e.partValid p = true ∧ e.partState p ≠ 6) ∧
  (∃ st : State, st.dev.sys.railsUp = true ∧ ∃ g : Fin 16, st.dev.dirty g.val = true) ∧
  (∃ (st : State) (q : QueueN) (c : FetchedCmd) (e : Dev), st.dev.sys.railsUp = true ∧
   let p := c.part
   Accepted st.dev q 0x706 [] c e ∧ (e.devQueue c.q = true ∨ c.q = 0) ∧ p < 16 ∧ e.partValid p = true ∧ e.partState p
     ≠ 6 ∧ (e.part p).goal ≠ .reset) :=
  ⟨⟨on (got (forN 8 (fun k d => d.setReg (rMemStk k) (2 ^ 32 - 1)) partDev) (command 0x701 3 0 [(2, 0x8000), (1, 0xF),
    (1, 3), (1, 0), (1, 190), (8, 2 ^ 47), (1, 0), (1, 1), (1, 2), (4, 1000000)])), 2, command 0x701 3 0 [(2, 0x8000),
    (1, 0xF), (1, 3), (1, 0), (1, 190), (8, 2 ^ 47), (1, 0), (1, 1), (1, 2), (4, 1000000)], went (forN 8 (fun k d =>
    d.setReg (rMemStk k) (2 ^ 32 - 1)) partDev) (command 0x701 3 0 [(2, 0x8000), (1, 0xF), (1, 3), (1, 0), (1, 190), (8,
    2 ^ 47), (1, 0), (1, 1), (1, 2), (4, 1000000)]), by decide +kernel, accepted_plain (by decide +kernel), by
    decide +kernel⟩,
    ⟨on (got runDev (command 0x702 0 0 [])), 2, command 0x702 0 0 [], went runDev (command 0x702 0 0 []), by
      decide +kernel, accepted_plain (by decide +kernel), by decide +kernel⟩,
    ⟨on (idleDev.setReg rCusStatus (2 ^ 15)), by decide +kernel, 15, by decide +kernel⟩,
    ⟨on (got (runDev.setReg (rHqCq 2) (2 ^ 6)) (command 0x706 0 0 [])), 2, command 0x706 0 0 [], went (runDev.setReg
      (rHqCq 2) (2 ^ 6)) (command 0x706 0 0 []), by decide +kernel, accepted_plain (by decide +kernel), by
      decide +kernel⟩⟩

theorem test_meets_SlicesAndPreemption :
  (∃ (st : State) (q : QueueN) (c : FetchedCmd) (e : Dev), st.dev.sys.railsUp = true ∧
   let p := c.part
   let d := st.dev
   p < 16 ∧ e.partValid p = true ∧
   let v := (c.params [.num 4]).at 0
   Accepted d q 0x703 [.num 4] c e ∧ 2000 ≤ v ∧ v ≤ 1000000) ∧
  (∃ (st : State) (q : QueueN) (c : FetchedCmd) (e : Dev), st.dev.sys.railsUp = true ∧
   let p := c.part
   let d := st.dev
   p < 16 ∧ e.partValid p = true ∧
   let v := (c.params [.num 1]).at 0
   Accepted d q 0x704 [.num 1] c e ∧ v = 0 ∧ e.partFatal p = false) ∧
  (∃ (st : State) (q : QueueN) (c : FetchedCmd) (e : Dev), st.dev.sys.railsUp = true ∧
   let p := c.part
   let d := st.dev
   p < 16 ∧ e.partValid p = true ∧
   let v := (c.params [.num 1]).at 0
   Accepted d q 0x704 [.num 1] c e ∧ v = 1) ∧
  (∃ (st : State) (q : QueueN) (c : FetchedCmd) (e : Dev), st.dev.sys.railsUp = true ∧
   let p := c.part
   let d := st.dev
   p < 16 ∧ e.partValid p = true ∧
   let v := (c.params [.num 1]).at 0
   Accepted d q 0x704 [.num 1] c e ∧ v = 2 ∧ e.partFatal p = false) ∧
  (∃ (st : State) (q : QueueN) (c : FetchedCmd) (e : Dev), st.dev.sys.railsUp = true ∧
   let p := c.part
   let d := st.dev
   p < 16 ∧ e.partValid p = true ∧
   let v := (c.params [.num 1, .num 1, .num 1]).at
   Accepted d q 0x705 [.num 1, .num 1, .num 1] c e ∧ v 0 ≤ 1 ∧ (e.ctxNum p (v 0)).isSome = true ∧ v 1 ≤ (e.freeWays (v
     0)).length ∧ (v 2 = 0 ∨ v 2 < (e.mates p).foldl (fun n m => n + (e.waysOf m (v 0)).length) 0)) ∧
  (∃ (st : State) (pn : PartN), st.dev.sys.railsUp = true ∧
   let r := pn.val
   let d := st.dev
   d.maySwitch r = true) ∧
  (∃ (st : State) (pn : PartN), st.dev.sys.railsUp = true ∧
   let r := pn.val
   let d := st.dev
   d.draining r = true ∧ (∀ x ∈ (d.stopForDrain r).inFlight r, ∀ g ep, x.r.kind ≠ .barrov g ep)) ∧
  (∃ (st : State) (pn : PartN), st.dev.sys.railsUp = true ∧
   let r := pn.val
   let d := st.dev
   d.draining r = true ∧ d.unstoppable r = false ∧ (d.part r).goal ≠ .none ∧ (d.stopForDrain r).drained r = true ∧
     (d.part r).goal = .switch) ∧
  (∃ (st : State) (pn : PartN), st.dev.sys.railsUp = true ∧
   let r := pn.val
   let d := st.dev
   d.draining r = true ∧ d.unstoppable r = false ∧ (d.part r).goal ≠ .none ∧ (d.stopForDrain r).drained r = true ∧
     (d.part r).goal = .destroy) ∧
  (∃ (st : State) (pn : PartN), st.dev.sys.railsUp = true ∧
   let r := pn.val
   let d := st.dev
   d.draining r = true ∧ d.unstoppable r = false ∧ (d.part r).goal ≠ .none ∧ (d.stopForDrain r).drained r = true ∧
     (d.part r).goal = .reset) ∧
  (∃ (st : State) (pn : PartN), st.dev.sys.railsUp = true ∧
   let r := pn.val
   let d := st.dev
   d.draining r = true ∧ d.unstoppable r = false ∧ (d.part r).goal = .none ∧ d.drained r = true) ∧
  (∃ (st : State) (pn : PartN), st.dev.sys.railsUp = true ∧
   let r := pn.val
   let d := st.dev
   d.partState r = 4) ∧
  (∃ (st : State) (pn : PartN), st.dev.sys.railsUp = true ∧
   let r := pn.val
   let d := st.dev
   d.partState r = 5 ∧ (∀ j ∈ d.brv.jobs, j.g / 256 ≠ r) ∧ ∃ bad : BitVec 16, (∀ g < 16, d.holds r g = true →
     bad.getLsbD g = false)) :=
  ⟨⟨on (got runDev (command 0x703 0 0 [(4, 1000000)])), 2, command 0x703 0 0 [(4, 1000000)], went runDev (command
    0x703 0 0 [(4, 1000000)]), by decide +kernel, by decide +kernel, by decide +kernel, accepted_plain (by
    decide +kernel), by decide +kernel⟩,
    ⟨on (got runDev (command 0x704 0 0 [(1, 0)])), 2, command 0x704 0 0 [(1, 0)], went runDev (command 0x704 0 0 [(1,
      0)]), by decide +kernel, by decide +kernel, by decide +kernel, accepted_plain (by decide +kernel), by
      decide +kernel⟩,
    ⟨on (got runDev (command 0x704 0 0 [(1, 1)])), 2, command 0x704 0 0 [(1, 1)], went runDev (command 0x704 0 0 [(1,
      1)]), by decide +kernel, by decide +kernel, by decide +kernel, accepted_plain (by decide +kernel), by
      decide +kernel⟩,
    ⟨on (got runDev (command 0x704 0 0 [(1, 2)])), 2, command 0x704 0 0 [(1, 2)], went runDev (command 0x704 0 0 [(1,
      2)]), by decide +kernel, by decide +kernel, by decide +kernel, accepted_plain (by decide +kernel), by
      decide +kernel⟩,
    ⟨on (got runDev (command 0x705 0 0 [(1, 0), (1, 16), (1, 0)])), 2, command 0x705 0 0 [(1, 0), (1, 16), (1, 0)],
      went runDev (command 0x705 0 0 [(1, 0), (1, 16), (1, 0)]), by decide +kernel, by decide +kernel, by
      decide +kernel, accepted_plain (by decide +kernel), by decide +kernel⟩,
    ⟨on (runDev.setReg (rPrtState 0) (2 ^ 31 + 2 ^ 27)), 0, by decide +kernel, by decide +kernel⟩,
    ⟨on ((runDev.setReg (rPrtState 0) (3 * 2 ^ 27)).setPart 0 { PartSt.none with goal := .destroy }), 0, by
      decide +kernel, by decide +kernel, noBarrov_of (by decide +kernel)⟩,
    ⟨on ((runDev.setReg (rPrtState 0) (3 * 2 ^ 27)).setPart 0 { PartSt.none with goal := .switch }), 0, by
      decide +kernel, by decide +kernel, by decide +kernel⟩,
    ⟨on ((runDev.setReg (rPrtState 0) (3 * 2 ^ 27)).setPart 0 { PartSt.none with goal := .destroy }), 0, by
      decide +kernel, by decide +kernel, by decide +kernel⟩,
    ⟨on ((runDev.setReg (rPrtState 0) (3 * 2 ^ 27)).setPart 0 { PartSt.none with goal := .reset }), 0, by
      decide +kernel, by decide +kernel, by decide +kernel⟩,
    ⟨on ((ctxDev fun x => { x with saveStop := true }).setReg (rPsvSave 0) (2 ^ 45)), 0, by decide +kernel, by
      decide +kernel, by decide +kernel⟩,
    ⟨on (idleDev.setReg (rPrtState 0) (4 * 2 ^ 27)), 0, by decide +kernel, by decide +kernel⟩,
    ⟨on (idleDev.setReg (rPrtState 0) (5 * 2 ^ 27)), 0, by decide +kernel, by decide +kernel, by decide +kernel,
      0xFFFE, by decide +kernel⟩⟩

theorem test_meets_SavesArePlannedAndTaken :
  (∃ (st : State) (q : QueueN) (c : FetchedCmd) (e : Dev), st.dev.sys.railsUp = true ∧
   let d := st.dev
   let p := c.part
   p < 16 ∧ e.partValid p = true ∧
   let spec := [PKind.num 2, .num 1, .num 2, .num 2, .num 1, .num 2, .num 1, .num 8, .num 2, .num 2, .num 1, .num 8,
     .num 1, .num 1, .num 1, .num 4]
   let v := (c.params spec).at
   Accepted d q 0x801 spec c e ∧ e.psvBusy p = false ∧ v 0 % 2 = 0 ∧ v 0 ≤ e.fld (rPrtCfg p) 51 44 ∧ 20 ≤ v 1 ∧ v 1 ≤
     32 ∧ (v 2 < 4096 ∨ v 2 = 0xFFFF) ∧ (v 3 < 8192 ∧ e.inBranch p 0 (v 3) = false ∨ v 3 = 0xFFFF) ∧ v 4 ≤ 15 ∧ (v 5 <
     8192 ∧ e.inBranch p 1 (v 5) = false ∨ v 5 = 0xFFFF) ∧ v 6 ≤ 15 ∧ v 7 % 64 = 0 ∧ v 7 < 2 ^ 48 ∧ 30 ≤ v 8 ∧ v 8 ≤ v 9
     ∧ v 9 ≤ 21600 ∧ 1 ≤ v 10 ∧ v 10 < 256 ∧ v 12 < 256 ∧ v 13 < 256 ∧ v 14 ≤ 1 ∧ v 15 ≤ (if v 14 = 0 then 15 else
     65535)) ∧
  (∃ (st : State) (q : QueueN) (c : FetchedCmd) (e : Dev), st.dev.sys.railsUp = true ∧
   let d := st.dev
   let p := c.part
   p < 16 ∧ e.partValid p = true ∧
   let spec := [PKind.num 2, .list [8, 8, 1, 1, 1, 1, 1]]
   let v := (c.params spec).at
   let plan := ((c.params spec).lst 0).map regionOf
   let log2 := e.fld (rPsvCfg p) 5 0
   Accepted d q 0x802 spec c e ∧ v 0 < 2 ^ 14 ∧ (e.psvPhase p = 0 ∨ 3 < e.psvPhase p) ∧ plan.length ≤ 4094 ∧ (∀ r ∈
     plan, r.len ≠ 0 ∧ ceilDiv r.len (2 ^ log2) ≤ 4096 ∧ r.addr + r.len ≤ rimTop ∧ e.firstBad p r.addr r.len = none ∧
          (r.prot = 0 ∨ r.prot = 1 ∧ 1 ≤ r.n ∧ r.n ≤ 16 ∧ 1 ≤ r.r ∧ r.r ≤ 4 ∨ r.prot = 2 ∧ 2 ≤ r.n)) ∧ planBytes log2
            plan ≤ e.slotBytes p) ∧
  (∃ (st : State) (q : QueueN) (c : FetchedCmd) (e : Dev), st.dev.sys.railsUp = true ∧
   let d := st.dev
   let p := c.part
   p < 16 ∧ e.partValid p = true ∧
   let v := (c.params [.num 4, .num 8, .num 2]).at
   Accepted d q 0x803 [.num 4, .num 8, .num 2] c e ∧ 1 ≤ v 0 ∧ v 0 < 2 ^ 24 ∧ 1 ≤ v 2 ∧ v 2 ≤ 600 ∧ (e.psvPhase p = 0
     ∨ 3 < e.psvPhase p) ∧ (e.psvOf p).maxId < v 0 ∧ e.flag (rPsvCfg p) 63 = true) ∧
  (∃ st : State, st.dev.sys.railsUp = true ∧
   let d := st.dev
   ∃ k : CtxId, d.moves k = true ∧ d.atSavePoint k.h.val k.n.val = true) ∧
  (∃ (st : State) (pn : PartN), st.dev.sys.railsUp = true ∧
   let d := st.dev
   let p := pn.val
   d.psvPhase p = 1 ∧ d.atSave p = false) ∧
  (∃ (st : State) (pn : PartN), st.dev.sys.railsUp = true ∧
   let d := st.dev
   let p := pn.val
   (1 ≤ d.psvPhase p ∧ d.psvPhase p ≤ 3)) ∧
  (∃ (st : State) (pn : PartN), st.dev.sys.railsUp = true ∧
   let d := st.dev
   let p := pn.val
   let x := d.psvOf p
   ∃ s key, d.psvPhase p = 2 ∧ d.saveHit p = false ∧ x.current = some s ∧ d.slotFor (d.fld (rPsvCfg p) 47 32) p 3 =
     some key ∧ s.shards = [] ∧ uncounted d ∧ d.mem.errs = []) ∧
  (∃ (st : State) (pn : PartN), st.dev.sys.railsUp = true ∧
   let d := st.dev
   let p := pn.val
   let x := d.psvOf p
   ∃ s m, d.psvPhase p = 3 ∧ d.saveHit p = false ∧ x.current = some s ∧ x.cmd = some m ∧ s.saveId < 2 ^ 24 ∧ d.fld
     (rPsvSave p) 127 64 = s.saveId ∧ (∀ b ∈ x.background, b.1 ≠ s.saveId)) ∧
  (∃ (st : State) (pn : PartN), st.dev.sys.railsUp = true ∧
   let d := st.dev
   let p := pn.val
   let x := d.psvOf p
   ∃ s, d.saveHit p = true ∧ x.current = some s ∧ d.psvPhase p = 2) ∧
  (∃ (st : State) (pn : PartN), st.dev.sys.railsUp = true ∧
   let d := st.dev
   let p := pn.val
   let x := d.psvOf p
   ∃ s, d.saveHit p = true ∧ x.current = some s ∧ d.psvPhase p = 3) ∧
  (∃ (st : State) (pn : PartN), st.dev.sys.railsUp = true ∧
   let d := st.dev
   let p := pn.val
   let x := d.psvOf p
   ∃ id m rest, x.background = (id, m) :: rest ∧ d.saveHit p = false ∧ (∀ b ∈ rest, b.1 ≠ id) ∧ d.fld (rPsvSave p) 127
     64 = id ∧ m < 4 ∧ d.psvPhase p = 4 ∧ bit m 0 = true) ∧
  (∃ (st : State) (pn : PartN), st.dev.sys.railsUp = true ∧
   let d := st.dev
   let p := pn.val
   let x := d.psvOf p
   ∃ id m rest, x.background = (id, m) :: rest ∧ d.saveHit p = false ∧ (∀ b ∈ rest, b.1 ≠ id) ∧ d.fld (rPsvSave p) 127
     64 = id ∧ m < 4 ∧ d.psvPhase p = 5 ∧ m = 2) :=
  ⟨⟨on (got idleDev (command 0x801 0 0 [(2, 48), (1, 20), (2, 0xFFFF), (2, 8191), (1, 15), (2, 0xFFFF), (1, 15), (8,
    0xFFFFFFFFFFC0), (2, 21600), (2, 21600), (1, 255), (8, 0xFFFFFFFF), (1, 255), (1, 255), (1, 1), (4, 65535)])), 2,
    command 0x801 0 0 [(2, 48), (1, 20), (2, 0xFFFF), (2, 8191), (1, 15), (2, 0xFFFF), (1, 15), (8, 0xFFFFFFFFFFC0), (2,
    21600), (2, 21600), (1, 255), (8, 0xFFFFFFFF), (1, 255), (1, 255), (1, 1), (4, 65535)], went idleDev (command 0x801
    0 0 [(2, 48), (1, 20), (2, 0xFFFF), (2, 8191), (1, 15), (2, 0xFFFF), (1, 15), (8, 0xFFFFFFFFFFC0), (2, 21600), (2,
    21600), (1, 255), (8, 0xFFFFFFFF), (1, 255), (1, 255), (1, 1), (4, 65535)]), by decide +kernel, by decide +kernel,
    by decide +kernel, accepted_plain (by decide +kernel), by decide +kernel⟩,
    ⟨on (got ((idleDev.setReg (rPsvCfg 0) (2 ^ 63 + 20)).setReg (rPsvRsv 0) 2) (command 0x802 0 0 [(2, 16383)] (lay
      [(4, 1), (8, 0x1000), (8, 0x100000), (1, 1), (1, 3), (1, 15), (1, 16), (1, 4)]))), 2, command 0x802 0 0 [(2,
      16383)] (lay [(4, 1), (8, 0x1000), (8, 0x100000), (1, 1), (1, 3), (1, 15), (1, 16), (1, 4)]), went
      ((idleDev.setReg (rPsvCfg 0) (2 ^ 63 + 20)).setReg (rPsvRsv 0) 2) (command 0x802 0 0 [(2, 16383)] (lay [(4, 1),
      (8, 0x1000), (8, 0x100000), (1, 1), (1, 3), (1, 15), (1, 16), (1, 4)])), by decide +kernel, by decide +kernel, by
      decide +kernel, accepted_plain (by decide +kernel), by decide +kernel⟩,
    ⟨on (got ((idleDev.setReg (rPsvCfg 0) (2 ^ 63 + 20)).setReg (rPsvRsv 0) 2) (command 0x803 0 0 [(4, 0xFFFFFF), (8,
      0), (2, 600)])), 2, command 0x803 0 0 [(4, 0xFFFFFF), (8, 0), (2, 600)], went ((idleDev.setReg (rPsvCfg 0) (2 ^ 63
      + 20)).setReg (rPsvRsv 0) 2) (command 0x803 0 0 [(4, 0xFFFFFF), (8, 0), (2, 600)]), by decide +kernel, by
      decide +kernel, by decide +kernel, accepted_plain (by decide +kernel), by decide +kernel⟩,
    ⟨on (((ctxDev fun x => { x with conds := [(15, 1)] }).setReg (rPsvSave 0) (2 ^ 45)).setReg (rPsvSpt 0) (2 ^ 31 +
      15 * 2 ^ 16 + 40)), by decide +kernel, c0, by decide +kernel⟩,
    ⟨on (runDev.setReg (rPsvSave 0) (2 ^ 45)), 0, by decide +kernel, by decide +kernel, by decide +kernel⟩,
    ⟨on (runDev.setReg (rPsvSave 0) (3 * 2 ^ 45)), 0, by decide +kernel, by decide +kernel⟩,
    ⟨on
      { (((idleDev.setReg (rPsvSave 0) (2 ^ 64 + 2 * 2 ^ 45)).setReg (rPsvCfg 0) (2 ^ 63 + 5 * 2 ^ 32 + 20)).setReg (rCusSlot 5) (2 ^ 63 + 3 * 2 ^ 53)).setPsv 0 { Psv.none with plan := ([⟨0x1000, 0x100000, 0, 0, 0, 0, 0⟩]), current := some (⟨1, [], [], 0, [], none, [], [], [], 0, ([⟨0x1000, 0x100000, 0, 0, 0, 0, 0⟩]), 0⟩) } with cus := { idleDev.cus with slotKeys := [(5, 9)] } },
      0, by decide +kernel, (⟨1, [], [], 0, [], none, [], [], [], 0, ([⟨0x1000, 0x100000, 0, 0, 0, 0, 0⟩]), 0⟩), 9,
      more4 (by decide +kernel) ⟨by decide +kernel, uncounted_of (by decide +kernel), by decide +kernel⟩⟩,
    ⟨on ((got (idleDev.setReg (rPsvSave 0) (2 ^ 64 + 3 * 2 ^ 45)) (command 0x803 0 0 [])).setPsv 0
      { Psv.none with plan := ([⟨0x1000, 0x100000, 0, 0, 0, 0, 0⟩]), current := some (⟨1, [], [], 0, [], none, [], [], [], 0, ([⟨0x1000, 0x100000, 0, 0, 0, 0, 0⟩]), 0⟩), cmd := some 6 }),
      0, by decide +kernel, (⟨1, [], [], 0, [], none, [], [], [], 0, ([⟨0x1000, 0x100000, 0, 0, 0, 0, 0⟩]), 0⟩), 6, by
      decide +kernel⟩,
    ⟨on (((idleDev.setReg (rPsvSave 0) (2 ^ 64 + 2 * 2 ^ 45)).setReg (rPrtState 0) (2 ^ 30)).setPsv 0
      { Psv.none with plan := ([⟨0x1000, 0x100000, 0, 0, 0, 0, 0⟩]), current := some (⟨1, [], [], 0, [], none, [], [], [], 0, ([⟨0x1000, 0x100000, 0, 0, 0, 0, 0⟩]), 0⟩) }),
      0, by decide +kernel, (⟨1, [], [], 0, [], none, [], [], [], 0, ([⟨0x1000, 0x100000, 0, 0, 0, 0, 0⟩]), 0⟩), by
      decide +kernel⟩,
    ⟨on (((idleDev.setReg (rPsvSave 0) (2 ^ 64 + 3 * 2 ^ 45)).setReg rHqDevstat (2 ^ 30)).setPsv 0
      { Psv.none with plan := ([⟨0x1000, 0x100000, 0, 0, 0, 0, 0⟩]), current := some (⟨1, [], [], 0, [], none, [], [], [], 0, ([⟨0x1000, 0x100000, 0, 0, 0, 0, 0⟩]), 0⟩) }),
      0, by decide +kernel, (⟨1, [], [], 0, [], none, [], [], [], 0, ([⟨0x1000, 0x100000, 0, 0, 0, 0, 0⟩]), 0⟩), by
      decide +kernel⟩,
    ⟨on ((idleDev.setReg (rPsvSave 0) (2 ^ 64 + 4 * 2 ^ 45)).setPsv 0
      { Psv.none with plan := ([⟨0x1000, 0x100000, 0, 0, 0, 0, 0⟩]), background := [(1, 3)], saves := [(⟨1, [], [], 0, [], none, [], [], [], 0, ([⟨0x1000, 0x100000, 0, 0, 0, 0, 0⟩]), 0⟩)] }),
      0, by decide +kernel, 1, 3, [], by decide +kernel⟩,
    ⟨on ((idleDev.setReg (rPsvSave 0) (2 ^ 64 + 5 * 2 ^ 45)).setPsv 0
      { Psv.none with plan := ([⟨0x1000, 0x100000, 0, 0, 0, 0, 0⟩]), background := [(1, 2)], saves := [(⟨1, [], [], 0, [], none, [], [], [], 0, ([⟨0x1000, 0x100000, 0, 0, 0, 0, 0⟩]), 0⟩)] }),
      0, by decide +kernel, 1, 2, [], by decide +kernel⟩⟩

set_option maxRecDepth 20000 in
theorem test_meets_FailuresAndRestores :
  (∃ (st : State) (q : QueueN) (c : FetchedCmd) (e : Dev), st.dev.sys.railsUp = true ∧
   let p := c.part
   p < 16 ∧ e.partValid p = true ∧ Accepted st.dev q 0x804 [.num 8] c e) ∧
  (∃ st : State, st.dev.sys.railsUp = true ∧ ∃ (pn : PartN) (t0 : Nat), (st.dev.psvOf pn.val).lastFail = some t0) ∧
  (∃ (st : State) (q : QueueN) (c : FetchedCmd) (e : Dev), st.dev.sys.railsUp = true ∧
   let p := c.part
   ∃ (images : List (List Byte)) (saved : SavedShape) (sources : List ShardSource) (key : BitVec 256),
   let spec := [PKind.num 4, .num 1, .list [2, 8], .list [8], .num 1]
   let v := (c.params spec).at
   let held := (e.psvOf p).saves.find? fun s => s.saveId == v 0
   let mine := if v 1 = 0 then held else none
   let free (f : Dev) : Prop := f.busyCtx p = none ∧ f.checkImages p images = none
   p < 16 ∧ e.partValid p = true ∧ Accepted st.dev q 0x805 spec c e ∧ v 1 ≤ 1 ∧ v 2 ≤ 1 ∧ (e.psvPhase p = 0 ∨ 3 <
     e.psvPhase p) ∧ saved.sectors0 = sectorsOn (e.sectors p) 0 ∧ saved.sectors1 = sectorsOn (e.sectors p) 1 ∧
     images.map Config.sha256 = saved.programs ∧ images.length = (e.ctxsOf p).length ∧ e.slotFor (e.fld (rPsvCfg p) 47
     32) p 3 = some key ∧
   let x := Dev.fetchShards p key mine saved sources e
   (∀ g ∈ x.2, g.2 ≠ none) ∧ free x.1) ∧
  (∃ (st : State) (q : QueueN) (c : FetchedCmd) (e : Dev), st.dev.sys.railsUp = true ∧
   let p := c.part
   ∃ (images : List (List Byte)) (saved : SavedShape) (sources : List ShardSource) (key : BitVec 256),
   let spec := [PKind.num 4, .num 1, .list [2, 8], .list [8], .num 1]
   let v := (c.params spec).at
   let held := (e.psvOf p).saves.find? fun s => s.saveId == v 0
   let mine := if v 1 = 0 then held else none
   let free (f : Dev) : Prop := f.busyCtx p = none ∧ f.checkImages p images = none
   p < 16 ∧ e.partValid p = true ∧ Accepted st.dev q 0x805 spec c e ∧ v 1 ≤ 1 ∧ v 2 ≤ 1 ∧ (e.psvPhase p = 0 ∨ 3 <
     e.psvPhase p) ∧ saved.sectors0 = sectorsOn (e.sectors p) 0 ∧ saved.sectors1 = sectorsOn (e.sectors p) 1 ∧
     images.map Config.sha256 = saved.programs ∧ images.length = (e.ctxsOf p).length ∧ e.slotFor (e.fld (rPsvCfg p) 47
     32) p 3 = some key ∧ ∃ plain : BitVec 64 → List Byte, mine = none ∧ free e ∧ (∀ s ∈ sources, (saved.digests.find?
     fun g => g.1 == s.oid).map Prod.snd = some (Config.sha256 (plain s.oid)) ∧
          (s.rebuilt ≠ none ∨ s.flash ≠ none ∨ s.shared ≠ none) ∧
          ∀ b, (s.rebuilt = some b ∨ s.flash = some b ∨ s.shared = some b) →
            openEnvelope key s.oid.toNat b = some (plain s.oid))) :=
  ⟨⟨on (got idleDev (command 0x804 0 0 [(8, 0x123456789)])), 2, command 0x804 0 0 [(8, 0x123456789)], went idleDev
    (command 0x804 0 0 [(8, 0x123456789)]), by decide +kernel, by decide +kernel, by decide +kernel, accepted_plain (by
    decide +kernel)⟩,
    ⟨on (got (idleDev.setPsv 3 { Psv.none with lastFail := some 8 }) (command 0x804 0 0 [(8, 0x123456789)])), by
      decide +kernel, 3, 8, by decide +kernel⟩,
    ⟨on (got
      ({ (idleDev.setReg (rCusSlot 0) (2 ^ 63 + 3 * 2 ^ 53)).setReg (rPsvCfg 0) 0 with cus := { idleDev.cus with slotKeys := [(0, 9)] } })
      (command 0x805 0 0 [(4, 1), (1, 0), (1, 1)] (lay [(4, 0), (4, 1), (8, 0x9000)]))), 2, command 0x805 0 0 [(4, 1),
      (1, 0), (1, 1)] (lay [(4, 0), (4, 1), (8, 0x9000)]), went
      ({ (idleDev.setReg (rCusSlot 0) (2 ^ 63 + 3 * 2 ^ 53)).setReg (rPsvCfg 0) 0 with cus := { idleDev.cus with slotKeys := [(0, 9)] } })
      (command 0x805 0 0 [(4, 1), (1, 0), (1, 1)] (lay [(4, 0), (4, 1), (8, 0x9000)])), by decide +kernel, [haltImage],
      ⟨1, 0, [Config.sha256 haltImage], []⟩, [], 9, by decide +kernel, by decide +kernel, accepted_plain (by
      decide +kernel), more4 (by decide +kernel) ⟨by decide +kernel, rfl, by decide +kernel, by decide +kernel, by
      decide +kernel, by decide +kernel⟩⟩,
    ⟨on (got
      ({ (idleDev.setReg (rCusSlot 0) (2 ^ 63 + 3 * 2 ^ 53)).setReg (rPsvCfg 0) 0 with cus := { idleDev.cus with slotKeys := [(0, 9)] } })
      (command 0x805 0 0 [(4, 1), (1, 1), (1, 0)] (lay [(4, 0), (4, 1), (8, 0x9000)]))), 2, command 0x805 0 0 [(4, 1),
      (1, 1), (1, 0)] (lay [(4, 0), (4, 1), (8, 0x9000)]), went
      ({ (idleDev.setReg (rCusSlot 0) (2 ^ 63 + 3 * 2 ^ 53)).setReg (rPsvCfg 0) 0 with cus := { idleDev.cus with slotKeys := [(0, 9)] } })
      (command 0x805 0 0 [(4, 1), (1, 1), (1, 0)] (lay [(4, 0), (4, 1), (8, 0x9000)])), by decide +kernel, [haltImage],
      ⟨1, 0, [Config.sha256 haltImage], []⟩, [], 9, by decide +kernel, by decide +kernel, accepted_plain (by
      decide +kernel), more4 (by decide +kernel) ⟨by decide +kernel, rfl, by decide +kernel, by decide +kernel, fun _ =>
      [], by decide +kernel, by decide +kernel, by intro s h; cases h⟩⟩⟩

theorem test_meets_CountersWindowsAndSnapshots :
  (∃ (st : State) (q : QueueN) (c : FetchedCmd) (e : Dev), st.dev.sys.railsUp = true ∧
   let d := st.dev
   let spec := [PKind.num 1, .list [2], .num 1]
   let v := (c.params spec).at
   let pr := profileOf (v 0)
   let slots := ((c.params spec).lst 0).flatMap fun x => (List.range pr.2.length).map fun k => (slotOf pr.1 (x.getD 0
     0) k, pr.2.getD k (0, 0))
   Accepted d q 0x901 spec c e ∧ v 0 ≤ 4 ∧ (v 1 < 16 ∨ v 1 = 0xFF) ∧ (∀ s ∈ slots, ∃ x, s.1 = some x ∧ e.mayWriteSlot
     (e.fnOfCmd c) x = true)) ∧
  (∃ (st : State) (q : QueueN) (c : FetchedCmd) (e : Dev), st.dev.sys.railsUp = true ∧
   let d := st.dev
   let spec := [PKind.list [1, 1, 1], .num 1, .num 1, .num 8, .num 8, .num 1, .num 2]
   let v := (c.params spec).at
   let p := c.part
   let slots := ((c.params spec).lst 0).map fun x => if x.getD 0 0 < 2 then slotOf (x.getD 0 0) (x.getD 1 0) (x.getD 2
     0) else none
   Accepted d q 0x902 spec c e ∧ p < 16 ∧ e.partValid p = true ∧ 1 ≤ v 2 ∧ v 2 ≤ 2 ^ 48 ∧ v 3 % 4096 = 0 ∧ v 3 < 2 ^
     48 ∧ 4 ≤ v 4 ∧ v 4 ≤ 20 ∧ v 5 < 2048 ∧ (∀ s ∈ slots, ∃ x, s = some x ∧ e.mayWriteSlot (e.fnOfCmd c) x = true)) ∧
  (∃ (st : State) (q : QueueN) (c : FetchedCmd) (e : Dev), st.dev.sys.railsUp = true ∧
   let d := st.dev
   let spec := [PKind.list [1], .num 4]
   let us := (c.params spec).at 0
   let units := ((c.params spec).lst 0).map fun x => x.getD 0 0
   Accepted d q 0x903 spec c e ∧ 1 ≤ us ∧ us ≤ 1000000 ∧ (∀ n ∈ units, n ≤ 48)) ∧
  (∃ (st : State) (q : QueueN) (c : FetchedCmd) (e : Dev), st.dev.sys.railsUp = true ∧
   let d := st.dev
   let v := (c.params [.num 4, .num 8]).at
   Accepted d q 0x904 [.num 4, .num 8] c e ∧ 10 ≤ v 0 ∧ v 0 ≤ 1000000 ∧ e.sys.snapCmd = none) ∧
  (∃ st : State, st.dev.sys.railsUp = true ∧
   let d := st.dev
   ∃ n, d.sys.snapCmd = some n) ∧
  (∃ st : State, st.dev.sys.railsUp = true ∧
   let d := st.dev
   d.sys.snapCmd = none) ∧
  (∃ st : State, st.dev.sys.railsUp = true ∧
   let d := st.dev
   d.flag rPmuSnapStat 31 = true ∧ d.sys.snapHeld = [] ∧ (d.regs.map fun x => x.1).Nodup) ∧
  (∃ st : State, st.dev.sys.railsUp = true ∧
   let d := st.dev
   ∃ s : PmuSlot, d.flag (ctrBase s) 31 = true ∧ d.flag (ctrBase s) 30 = true) ∧
  (∃ st : State, st.dev.sys.railsUp = true ∧
   let d := st.dev
   ∃ s : PmuSlot, ∃ y, d.samples.find? (fun z => z.slot == s) = some y) ∧
  (∃ st : State, st.dev.sys.railsUp = true ∧
   let d := st.dev
   ∃ (pn : PartN) (rec : List Byte) (rest : List (List Byte)), alGet [] d.smpRing pn.val = rec :: rest) ∧
  (∃ st : State, st.dev.sys.railsUp = true ∧
   let d := st.dev
   ∃ n : Fin 49,
   let a := rPmuBw n.val
   d.flag a 31 = true) :=
  ⟨⟨on (got idleDev (command 0x901 0 0 [(1, 4), (1, 15)] (lay [(4, 2), (2, 5), (2, 0)]))), 2, command 0x901 0 0 [(1,
    4), (1, 15)] (lay [(4, 2), (2, 5), (2, 0)]), went idleDev (command 0x901 0 0 [(1, 4), (1, 15)] (lay [(4, 2), (2, 5),
    (2, 0)])), by decide +kernel, accepted_plain (by decide +kernel), by decide +kernel⟩,
    ⟨on (got idleDev (command 0x902 0 0 [(1, 9), (1, 3), (8, 2 ^ 48), (8, 0x1000), (1, 20), (2, 2047)] (lay [(4, 1),
      (1, 1), (1, 15), (1, 3)]))), 2, command 0x902 0 0 [(1, 9), (1, 3), (8, 2 ^ 48), (8, 0x1000), (1, 20), (2, 2047)]
      (lay [(4, 1), (1, 1), (1, 15), (1, 3)]), went idleDev (command 0x902 0 0 [(1, 9), (1, 3), (8, 2 ^ 48), (8,
      0x1000), (1, 20), (2, 2047)] (lay [(4, 1), (1, 1), (1, 15), (1, 3)])), by decide +kernel, accepted_plain (by
      decide +kernel), by decide +kernel⟩,
    ⟨on (got idleDev (command 0x903 0 0 [(4, 1000000)] (lay [(4, 2), (1, 48), (1, 0)]))), 2, command 0x903 0 0 [(4,
      1000000)] (lay [(4, 2), (1, 48), (1, 0)]), went idleDev (command 0x903 0 0 [(4, 1000000)] (lay [(4, 2), (1, 48),
      (1, 0)])), by decide +kernel, accepted_plain (by decide +kernel), by decide +kernel⟩,
    ⟨on (got idleDev (command 0x904 0 0 [(4, 1000000), (8, 0x9000)])), 2, command 0x904 0 0 [(4, 1000000), (8,
      0x9000)], went idleDev (command 0x904 0 0 [(4, 1000000), (8, 0x9000)]), by decide +kernel, accepted_plain (by
      decide +kernel), by decide +kernel⟩,
    ⟨on (got (sysDev idleDev fun s => { s with snapCmd := some 6 }) (command 0x903 0 0 [])), by decide +kernel, 6, by
      decide +kernel⟩,
    ⟨on (got idleDev (command 0x903 0 0 [])), by decide +kernel, by decide +kernel⟩,
    ⟨on (got (((idleDev.setReg rPmuSnapStat (2 ^ 31)).setReg (ctrBase (.port 47 3)) (2 ^ 31 + 3)).setReg (ctrBase
      (.port 47 3) + 8) 77) (command 0x903 0 0 [])), by decide +kernel, by decide +kernel, by decide +kernel⟩,
    ⟨on (got ((runDev.setReg (ctrBase (.sector 0 3)) (2 ^ 31 + 2 ^ 30 + 2)).setReg (rPmuSrCfg 0) (2 ^ 31 + 5))
      (command 0x903 0 0 [])), by decide +kernel, .sector 0 3, by decide +kernel⟩,
    ⟨on (got
      ({ (runDev.setReg (ctrBase (.sector 0 3)) (2 ^ 31 + 2 ^ 30 + 2)).setReg (rPmuSrCfg 0) (2 ^ 31 + 5) with samples := [(⟨.sector 0 3, 0, 0, 0, 40, 10⟩)] })
      (command 0x903 0 0 [])), by decide +kernel, .sector 0 3, ⟨.sector 0 3, 0, 0, 0, 40, 10⟩, by decide +kernel⟩,
    ⟨on (got ({ idleDev.setReg (rPmuSrCfg 3) (2 ^ 31 + 4) with smpRing := [(3, [(List.replicate 16 7)])] }) (command
      0x903 0 0 [])), by decide +kernel, 3, List.replicate 16 7, [], by decide +kernel⟩,
    ⟨on (got
      ({ idleDev.setReg (rPmuBw 48) (2 ^ 31 + 10) with sys := { idleDev.sys with bw := [(192, 1000), (193, 2000)] } })
      (command 0x903 0 0 [])), by decide +kernel, 48, by decide +kernel⟩⟩

theorem test_meets_RuntimeAndRegisterWrites :
  (∃ st : State,
   let d := st.dev
   d.sys.inputOn = true) ∧
  (∃ (st : State) (q : QueueN) (c : FetchedCmd) (e : Dev),
   let d := st.dev
   d.sys.railsUp = true ∧ Accepted d q 0xB01 [] c e) ∧
  (∃ (st : State) (q : QueueN) (c : FetchedCmd) (e : Dev),
   let d := st.dev
   d.sys.railsUp = true ∧
   let v := (c.params [.num 2, .num 2]).at
   Accepted d q 0xB02 [.num 2, .num 2] c e ∧ 1 ≤ v 0 ∧ v 0 ≤ 1000 ∧ 10 ≤ v 1 ∧ v 1 ≤ 10000) ∧
  (∃ (st : State) (q : QueueN) (c : FetchedCmd) (e : Dev),
   let d := st.dev
   d.sys.railsUp = true ∧
   let v := (c.params [.num 1]).at 0
   Accepted d q 0xB03 [.num 1] c e ∧ 4 ≤ v ∧ v ≤ 16 ∧ e.flag rMemLock 0 = false) ∧
  (∃ st : State,
   let d := st.dev
   d.sys.railsUp = true ∧ d.rtUp = true ∧ ∃ core : Fin 16, d.coreOnline core.val = true) ∧
  (∃ st : State,
   let d := st.dev
   d.sys.railsUp = true ∧ d.debugOpen = false) ∧
  (∃ st : State,
   let d := st.dev
   d.sys.railsUp = true ∧ d.debugOpen = true ∧ ∃ f : FacetN, d.facetHalted f.val = false) ∧
  (∃ st : State,
   let d := st.dev
   d.sys.railsUp = true ∧ ∃ n : Nat, d.debugOpen = true ∧ ∃ f : FacetN, d.facetHalted f.val = true ∧ ∃ a : BitVec 21,
     a.toNat % n = 0) :=
  ⟨⟨on (got idleDev (command 0xB01 0 0 [])), by decide +kernel⟩,
    ⟨on (got idleDev (command 0xB01 0 0 [])), 2, command 0xB01 0 0 [], went idleDev (command 0xB01 0 0 []), by
      decide +kernel, accepted_plain (by decide +kernel)⟩,
    ⟨on (got idleDev (command 0xB02 0xFF 0 [(2, 1000), (2, 10000)])), 2, command 0xB02 0xFF 0 [(2, 1000), (2, 10000)],
      went idleDev (command 0xB02 0xFF 0 [(2, 1000), (2, 10000)]), by decide +kernel, accepted_plain (by
      decide +kernel), by decide +kernel⟩,
    ⟨on (got idleDev (command 0xB03 0xFF 0 [(1, 16)])), 2, command 0xB03 0xFF 0 [(1, 16)], went idleDev (command 0xB03
      0xFF 0 [(1, 16)]), by decide +kernel, accepted_plain (by decide +kernel), by decide +kernel⟩,
    ⟨on (got ((idleDev.setReg rFlfStatus (2 ^ 63)).setReg (rFlfCore 15) (2 ^ 63)) (command 0xB01 0 0 [])), by
      decide +kernel, by decide +kernel, 15, by decide +kernel⟩,
    ⟨on (got idleDev (command 0xB01 0 0 [])), by decide +kernel, by decide +kernel⟩,
    ⟨on (got (dbg idleDev) (command 0xB01 0 0 [])), by decide +kernel, by decide +kernel, 3, by decide +kernel⟩,
    ⟨on (got ((dbg (partDev.setCtx 0 0 { runCtx with state := .debugHalted }))) (command 0xB01 0 0 [])), by
      decide +kernel, 8, by decide +kernel, 3, by decide +kernel, 0x1FFFF8, by decide +kernel⟩⟩

theorem test_meets_GovernorCommandsAndBrake :
  (∃ (st : State) (q : QueueN) (c : FetchedCmd) (e : Dev),
   let d := st.dev
   d.sys.railsUp = true ∧
   let v := (c.params [.num 2]).at 0
   Accepted d q 0xA01 [.num 2] c e ∧ 700 ≤ v ∧ v ≤ e.fld rGovCap 26 16) ∧
  (∃ (st : State) (q : QueueN) (c : FetchedCmd) (e : Dev),
   let d := st.dev
   d.sys.railsUp = true ∧
   let v := (c.params [.num 2]).at 0
   Accepted d q 0xA02 [.num 2] c e ∧ 700 ≤ v ∧ v ≤ 1200) ∧
  (∃ (st : State) (q : QueueN) (c : FetchedCmd) (e : Dev),
   let d := st.dev
   d.sys.railsUp = true ∧
   let v := (c.params [.num 2, .num 1]).at
   Accepted d q 0xA03 [.num 2, .num 1] c e ∧ 25 ≤ v 0 ∧ v 0 ≤ 1500 ∧ v 1 ≤ 90 ∧ e.flag rGovLock 0 = false) ∧
  (∃ (st : State) (q : QueueN) (c : FetchedCmd) (e : Dev),
   let d := st.dev
   d.sys.railsUp = true ∧
   let v := (c.params [.num 2, .num 2]).at
   Accepted d q 0xA04 [.num 2, .num 2] c e ∧ 300 ≤ v 0 ∧ v 0 ≤ 700 ∧ 1000 ≤ v 1 ∧ v 1 ≤ 5000 ∧ e.flag rGovLock 0 =
     false) ∧
  (∃ (st : State) (q : QueueN) (c : FetchedCmd) (e : Dev),
   let d := st.dev
   d.sys.railsUp = true ∧
   let v := (c.params [.num 1]).at 0
   Accepted d q 0xA05 [.num 1] c e ∧ 85 ≤ v ∧ v ≤ 105 ∧ e.flag rGovLock 0 = false) ∧
  (∃ st : State,
   let d := st.dev
   d.sys.railsUp = true ∧ d.governorUp = true ∧ ∃ x : ThermSource, d.sys.throttled.contains (thermCode x) = false) ∧
  (∃ st : State,
   let d := st.dev
   d.sys.railsUp = true ∧ d.brakeRuns = true ∧ d.braked = false ∧ d.sys.chatterHeld = false) ∧
  (∃ st : State,
   let d := st.dev
   d.sys.railsUp = true ∧ d.braked = true ∧ d.sys.chatterHeld = false) ∧
  (∃ st : State,
   let d := st.dev
   d.sys.railsUp = true ∧ d.braked = true ∧ d.sys.chatterHeld = true) ∧
  (∃ st : State,
   let d := st.dev
   d.sys.railsUp = true ∧ ∃ mv : BitVec 16, 42000 ≤ mv.toNat ∧ (mv.toNat < 46000 ∨ 58000 < mv.toNat) ∧ mv.toNat ≤
     60000) ∧
  (∃ st : State,
   let d := st.dev
   d.sys.railsUp = true ∧ ∃ mv : BitVec 16, 46000 ≤ mv.toNat ∧ mv.toNat ≤ 58000) ∧
  (∃ st : State,
   let d := st.dev
   d.sys.railsUp = true ∧ d.sys.stages.contains 2 = true) :=
  ⟨⟨on (got ({ idleDev with sys := { idleDev.sys with ended := [6], stages := [2, 8] } }) (command 0xA01 0xFF 0 [(2,
    700)])), 2, command 0xA01 0xFF 0 [(2, 700)], went
    ({ idleDev with sys := { idleDev.sys with ended := [6], stages := [2, 8] } }) (command 0xA01 0xFF 0 [(2, 700)]), by
    decide +kernel, accepted_plain (by decide +kernel), by decide +kernel⟩,
    ⟨on (got ({ idleDev with sys := { idleDev.sys with ended := [6], stages := [2, 8] } }) (command 0xA02 0xFF 0 [(2,
      1200)])), 2, command 0xA02 0xFF 0 [(2, 1200)], went
      ({ idleDev with sys := { idleDev.sys with ended := [6], stages := [2, 8] } }) (command 0xA02 0xFF 0 [(2, 1200)]),
      by decide +kernel, accepted_plain (by decide +kernel), by decide +kernel⟩,
    ⟨on (got ({ idleDev with sys := { idleDev.sys with ended := [6], stages := [2, 8] } }) (command 0xA03 0xFF 0 [(2,
      1500), (1, 90)])), 2, command 0xA03 0xFF 0 [(2, 1500), (1, 90)], went
      ({ idleDev with sys := { idleDev.sys with ended := [6], stages := [2, 8] } }) (command 0xA03 0xFF 0 [(2, 1500),
      (1, 90)]), by decide +kernel, accepted_plain (by decide +kernel), by decide +kernel⟩,
    ⟨on (got ({ idleDev with sys := { idleDev.sys with ended := [6], stages := [2, 8] } }) (command 0xA04 0xFF 0 [(2,
      700), (2, 5000)])), 2, command 0xA04 0xFF 0 [(2, 700), (2, 5000)], went
      ({ idleDev with sys := { idleDev.sys with ended := [6], stages := [2, 8] } }) (command 0xA04 0xFF 0 [(2, 700), (2,
      5000)]), by decide +kernel, accepted_plain (by decide +kernel), by decide +kernel⟩,
    ⟨on (got ({ idleDev with sys := { idleDev.sys with ended := [6], stages := [2, 8] } }) (command 0xA05 0xFF 0 [(1,
      105)])), 2, command 0xA05 0xFF 0 [(1, 105)], went
      ({ idleDev with sys := { idleDev.sys with ended := [6], stages := [2, 8] } }) (command 0xA05 0xFF 0 [(1, 105)]),
      by decide +kernel, accepted_plain (by decide +kernel), by decide +kernel⟩,
    ⟨on (got ({ idleDev with sys := { idleDev.sys with ended := [6], stages := [2, 8] } }) (command 0xA01 0xFF 0 [(2,
      700)])), by decide +kernel, by decide +kernel, .stack 7, by decide +kernel⟩,
    ⟨on (got ({ idleDev.setReg rHqDevstat (2 ^ 31) with sys := { idleDev.sys with ended := [6] } }) (command 0xA01
      0xFF 0 [(2, 700)])), by decide +kernel, by decide +kernel⟩,
    ⟨on (got ({ idleDev.setReg rGovStatus (2 ^ 31) with sys := { idleDev.sys with ended := [6] } }) (command 0xA01
      0xFF 0 [(2, 700)])), by decide +kernel, by decide +kernel⟩,
    ⟨on (got
      ({ idleDev.setReg rGovStatus (2 ^ 31) with sys := { idleDev.sys with ended := [6], chatterHeld := true } })
      (command 0xA01 0xFF 0 [(2, 700)])), by decide +kernel, by decide +kernel⟩,
    ⟨on (got ({ idleDev with sys := { idleDev.sys with ended := [6], stages := [2, 8] } }) (command 0xA01 0xFF 0 [(2,
      700)])), by decide +kernel, 60000, by decide +kernel⟩,
    ⟨on (got ({ idleDev with sys := { idleDev.sys with ended := [6], inputBad := true } }) (command 0xA01 0xFF 0 [(2,
      700)])), by decide +kernel, 58000, by decide +kernel⟩,
    ⟨on (got ({ idleDev with sys := { idleDev.sys with ended := [6], stages := [2, 8] } }) (command 0xA01 0xFF 0 [(2,
      700)])), by decide +kernel, by decide +kernel⟩⟩

theorem test_meets_ClocksAndTimeBase :
  (∃ st : State, st.dev.sys.railsUp = true ∧
   let d := st.dev
   d.flag (rClkRef 0) 31 = false) ∧
  (∃ st : State, st.dev.sys.railsUp = true ∧
   let d := st.dev
   ∃ (r : Fin 4) (n : Nat), r ≠ 0 ∧ d.flag (rClkRef 0) 31 = true ∧
   let good := ((n : Int) - refNominal r.val).natAbs * 1000000 ≤ 300 * refNominal r.val
   good ∧ d.flag (rClkRef r.val) 31 = false) ∧
  (∃ st : State, st.dev.sys.railsUp = true ∧
   let d := st.dev
   ∃ (r : Fin 4) (n : Nat), r ≠ 0 ∧ d.flag (rClkRef 0) 31 = true ∧
   let good := ((n : Int) - refNominal r.val).natAbs * 1000000 ≤ 300 * refNominal r.val
   (¬ good) ∧ d.flag (rClkRef r.val) 31 = true) ∧
  (∃ st : State, st.dev.sys.railsUp = true ∧
   let d := st.dev
   ∃ (k : Fin 13) (n : Nat),
   let m := k.val
   d.flag (rClkRef 0) 31 = true ∧ d.flag (rClkRef (pllRef m)) 31 = true ∧ d.flag (rClkPll m) 31 = false ∧
   let want := if m < 2 then 600 else d.pllTarget m
   (25 * (n : Int) - 4096 * want).natAbs * 1000 ≤ 5 * 4096 * want) ∧
  (∃ st : State, st.dev.sys.railsUp = true ∧
   let d := st.dev
   ∃ k : Fin 13,
   let m := k.val
   d.flag (rClkPll m) 31 = true ∧ d.flag (rClkRef (pllRef m)) 31 = true) ∧
  (∃ st : State, st.dev.sys.railsUp = true ∧
   let d := st.dev
   ∃ k : Fin 13,
   let m := k.val
   d.sys.relocks.get m ≠ 0) ∧
  (∃ (st : State) (q : QueueN) (c : FetchedCmd) (e : Dev), st.dev.sys.railsUp = true ∧
   let d := st.dev
   let spec := [PKind.list [1], .num 1]
   let gs := (c.params spec).lst 0
   let v := (c.params spec).at 0
   Accepted d q 0xA06 spec c e ∧ (∀ x ∈ gs, x.getD 0 0 ≤ 99) ∧ v ≤ 1) ∧
  (∃ (st : State) (q : QueueN) (c : FetchedCmd) (e : Dev), st.dev.sys.railsUp = true ∧
   let d := st.dev
   let v := (c.params [.num 1, .num 2]).at
   Accepted d q 0xA07 [.num 1, .num 2] c e ∧ v 0 ≤ 1 ∧ fmaxOk (v 1) = true ∧ e.flag rClkLock 0 = false) ∧
  (∃ st : State, st.dev.sys.railsUp = true ∧
   let d := st.dev
   d.ptpOn = false ∧ d.stepBusy = true) ∧
  (∃ st : State, st.dev.sys.railsUp = true ∧
   let d := st.dev
   ∃ v : BitVec 32, d.ptpOn = false ∧ d.stepBusy = false ∧ (0 : Int) ≤ v.toInt) ∧
  (∃ st : State, st.dev.sys.railsUp = true ∧
   let d := st.dev
   ∃ v : BitVec 32, d.ptpOn = false ∧ d.stepBusy = false ∧ v.toInt < (0 : Int)) ∧
  (∃ st : State, st.dev.sys.railsUp = true ∧
   let d := st.dev
   ∃ v : BitVec 32, d.ptpOn = false ∧ v.toInt.natAbs ≤ 1099511627) ∧
  (∃ st : State, st.dev.sys.railsUp = true ∧
   let d := st.dev
   d.ptpOn = true ∧ d.linkUp (d.fld rClkPtpStat 61 56) = true) ∧
  (∃ (st : State) (q : QueueN) (c : FetchedCmd) (e : Dev), st.dev.sys.railsUp = true ∧
   let d := st.dev
   let spec := [PKind.num 1, .num 1, .num 1, .num 1, .num 4, .num 4]
   let v := (c.params spec).at
   Accepted d q 0xA08 spec c e ∧ v 0 = 1 ∧ v 1 ≤ 47 ∧ (v 2 ≤ 47 ∨ v 2 = 0xFF) ∧ v 3 ≤ 127) ∧
  (∃ (st : State) (q : QueueN) (c : FetchedCmd) (e : Dev), st.dev.sys.railsUp = true ∧
   let d := st.dev
   let spec := [PKind.num 1, .num 1, .num 1, .num 1, .num 4, .num 4]
   let v := (c.params spec).at
   Accepted d q 0xA08 spec c e ∧ v 0 = 0 ∧ v 4 < 2 ^ 32 ∧ v 5 < 2 ^ 32 ∧ adjOk (toSigned 32 (v 4)) = true) :=
  ⟨⟨on (got idleDev (command 0xA06 0xFF 0 [])), by decide +kernel, by decide +kernel⟩,
    ⟨on (got (sysDev (idleDev.setReg (rClkRef 0) (2 ^ 31)) fun s => { s with refWindows := [(1, 1)] }) (command 0xA06
      0xFF 0 [])), by decide +kernel, 1, 100030, by decide +kernel, by decide +kernel, by decide +kernel, by
      decide +kernel⟩,
    ⟨on (got ((idleDev.setReg (rClkRef 0) (2 ^ 31)).setReg (rClkRef 1) (2 ^ 31)) (command 0xA06 0xFF 0 [])), by
      decide +kernel, 1, 100031, by decide +kernel, by decide +kernel, by decide +kernel, by decide +kernel⟩,
    ⟨on (got (sysDev (idleDev.setReg (rClkRef 0) (2 ^ 31)) fun s => { s with pllWindows := [(0, 1)] }) (command 0xA06
      0xFF 0 [])), by decide +kernel, 0, 98304, by decide +kernel, by decide +kernel, by decide +kernel, by
      decide +kernel⟩,
    ⟨on (got ((idleDev.setReg (rClkRef 0) (2 ^ 31)).setReg (rClkPll 2) (2 ^ 31)) (command 0xA06 0xFF 0 [])), by
      decide +kernel, 2, by decide +kernel, by decide +kernel⟩,
    ⟨on (got (sysDev idleDev fun s => { s with relocks := [(12, 2)] }) (command 0xA06 0xFF 0 [])), by decide +kernel,
      12, by decide +kernel⟩,
    ⟨on (got idleDev (command 0xA06 0xFF 0 [(1, 0)] (lay [(4, 2)] ++ [0, 99]))), 2, command 0xA06 0xFF 0 [(1, 0)] (lay
      [(4, 2)] ++ [0, 99]), went idleDev (command 0xA06 0xFF 0 [(1, 0)] (lay [(4, 2)] ++ [0, 99])), by decide +kernel,
      accepted_plain (by decide +kernel), by decide +kernel⟩,
    ⟨on (got idleDev (command 0xA07 0xFF 0 [(1, 1), (2, 700)])), 2, command 0xA07 0xFF 0 [(1, 1), (2, 700)], went
      idleDev (command 0xA07 0xFF 0 [(1, 1), (2, 700)]), by decide +kernel, accepted_plain (by decide +kernel), by
      decide +kernel⟩,
    ⟨on (got (idleDev.setReg rClkTbStat (2 ^ 31)) (command 0xA06 0xFF 0 [])), by decide +kernel, by decide +kernel, by
      decide +kernel⟩,
    ⟨on (got idleDev (command 0xA06 0xFF 0 [])), by decide +kernel, 5, by decide +kernel⟩,
    ⟨on (got idleDev (command 0xA06 0xFF 0 [])), by decide +kernel, 0xFFFFFFFB, by decide +kernel⟩,
    ⟨on (got idleDev (command 0xA06 0xFF 0 [])), by decide +kernel, 1099511627, by decide +kernel⟩,
    ⟨on (got (((idleDev.setReg rClkPtpCfg (2 ^ 31 + 47 * 2 ^ 24)).setReg rClkPtpStat (47 * 2 ^ 56)).setReg
      (rPortStatus 47) (2 ^ 31)) (command 0xA06 0xFF 0 [])), by decide +kernel, by decide +kernel, by decide +kernel⟩,
    ⟨on (got idleDev (command 0xA08 0xFF 0 [(1, 1), (1, 47), (1, 0xFF), (1, 127), (4, 0), (4, 0)])), 2, command 0xA08
      0xFF 0 [(1, 1), (1, 47), (1, 0xFF), (1, 127), (4, 0), (4, 0)], went idleDev (command 0xA08 0xFF 0 [(1, 1), (1,
      47), (1, 0xFF), (1, 127), (4, 0), (4, 0)]), by decide +kernel, accepted_plain (by decide +kernel), by
      decide +kernel⟩,
    ⟨on (got idleDev (command 0xA08 0xFF 0 [(1, 0), (1, 0), (1, 0), (1, 0), (4, 2 ^ 32 - 5), (4, 77)])), 2, command
      0xA08 0xFF 0 [(1, 0), (1, 0), (1, 0), (1, 0), (4, 2 ^ 32 - 5), (4, 77)], went idleDev (command 0xA08 0xFF 0 [(1,
      0), (1, 0), (1, 0), (1, 0), (4, 2 ^ 32 - 5), (4, 77)]), by decide +kernel, accepted_plain (by decide +kernel), by
      decide +kernel⟩⟩

theorem test_meets_ResetsAndBoot :
  (∃ st : State,
   let d := st.dev
   d.sys.railsUp = true ∧ d.pastStage6 = true ∧ d.sys.perstHigh = true ∧ d.sys.ended.contains 10 = true ∧
     d.sys.warmPending = none) ∧
  (∃ st : State,
   let d := st.dev
   d.sys.railsUp = true ∧ ∃ v : BitVec 32, d.hostUp = true ∧ d.sys.warmPending = none ∧ v.toNat / 2 ^ 8 % 2 ^ 8 = 0xA5
     ∧ v.getLsbD 0 = true) ∧
  (∃ st : State,
   let d := st.dev
   d.sys.railsUp = true ∧ ∃ v : BitVec 32, d.hostUp = true ∧ d.sys.warmPending = none ∧ v.toNat / 2 ^ 8 % 2 ^ 8 ≠
     0xA5) ∧
  (∃ st : State,
   let d := st.dev
   d.sys.railsUp = true ∧ ∃ k, d.sys.warmPending = some k) ∧
  (∃ st : State,
   let d := st.dev
   d.sys.railsUp = true ∧ ∃ x : StageEnd,
   let s := x.stage.toNat
   d.sys.stages.contains s = true ∧ d.bootFailed = false ∧ (s = 1 ∨ s = 2) ∧ x.code = 0 ∧ d.sys.ended.contains 9 =
     false ∧ (∀ k < 5, (d.bank k).next = false) ∧ d.sys.stages = [s]) ∧
  (∃ st : State,
   let d := st.dev
   d.sys.railsUp = true ∧ ∃ x : StageEnd,
   let s := x.stage.toNat
   d.sys.stages.contains s = true ∧ d.bootFailed = false ∧ s = 6 ∧ x.code = 0 ∧ d.sys.ended.contains 9 = false ∧ (∀ k
     < 5, (d.bank k).next = false) ∧ d.sys.stages = [6]) ∧
  (∃ st : State,
   let d := st.dev
   d.sys.railsUp = true ∧ ∃ x : StageEnd,
   let s := x.stage.toNat
   d.sys.stages.contains s = true ∧ d.bootFailed = false ∧ s = 10 ∧ x.code = 0 ∧ (∀ k < 5, (d.bank k).next = false) ∧
     d.sys.ended.contains 9 = true ∧ d.fld rBootCfg 1 0 = 0 ∧ d.sys.stages = [10]) ∧
  (∃ st : State,
   let d := st.dev
   d.sys.railsUp = true ∧ ∃ x : StageEnd,
   let s := x.stage.toNat
   d.sys.stages.contains s = true ∧ d.bootFailed = false ∧ x.code ≠ 0 ∧ stageCodeOk s x.code.toNat = true) ∧
  (∃ st : State,
   let d := st.dev
   d.sys.railsUp = true ∧ d.hostUp = false ∧ d.sys.perstHigh = true ∧ d.sys.stages ≠ []) ∧
  (∃ st : State,
   let d := st.dev
   d.sys.railsUp = true ∧ ∃ x : Fin 8, d.sys.testing.get x.val ≠ 0 ∧ d.sys.testing.get x.val ≤ 2 ^ 32) ∧
  (∃ st : State,
   let d := st.dev
   d.sys.railsUp = true ∧ ∃ v : BitVec 32, d.hostUp = true ∧
   let k := v.toNat / 2 ^ 24 % 8
   let len := v.toNat % 2 ^ 17
   v.getLsbD 31 = true ∧ k ≤ 4 ∧ 1 ≤ len ∧ len ≤ bankKib k ∧ d.flag rBootRcvCtl 30 = false ∧ d.flag rBootStatus 50 =
     true) ∧
  (∃ st : State,
   let d := st.dev
   d.sys.railsUp = true ∧ d.flag rBootRcvCtl 30 = true) ∧
  (∃ st : State,
   let d := st.dev
   d.sys.railsUp = true ∧ ∃ v : BitVec 32, d.hostUp = true ∧ v.toNat % 4 ≠ 3) :=
  ⟨⟨on (sysDev idleDev fun s => { s with ended := [1, 6, 10], stages := [9], perstHigh := true }), by decide +kernel,
    by decide +kernel⟩,
    ⟨on ((idleDev.setReg rHqDevstat (2 ^ 31))), by decide +kernel, 0xA501, by decide +kernel⟩,
    ⟨on ((idleDev.setReg rHqDevstat (2 ^ 31))), by decide +kernel, 0x5A01, by decide +kernel⟩,
    ⟨on ((sysDev (idleDev.setReg rHqDevstat (2 ^ 31)) fun s => { s with warmPending := some 3 }).setReg (rCusSlot 5)
      (2 ^ 63)), by decide +kernel, 3, by decide +kernel⟩,
    ⟨on (sysDev idleDev fun s => { s with stages := [2] }), by decide +kernel, ⟨2, 0, 0, 0, 0, [], 0, 0⟩, by
      decide +kernel, by decide +kernel⟩,
    ⟨on (sysDev idleDev fun s => { s with stages := [6], perstHigh := true }), by decide +kernel, ⟨6, 0, 0, 0, 1, [],
      0, 0⟩, by decide +kernel, by decide +kernel⟩,
    ⟨on (sysDev idleDev fun s => { s with stages := [10], ended := [6, 7, 8, 9], perstHigh := true }), by
      decide +kernel, ⟨10, 0, 0, 0, 0, [], 0x155, 0⟩, by decide +kernel, by decide +kernel⟩,
    ⟨on (sysDev idleDev fun s => { s with stages := [7, 8], ended := [6] }), by decide +kernel, ⟨8, 7, 0, 0, 0, [], 0,
      0⟩, by decide +kernel, by decide +kernel⟩,
    ⟨on (sysDev idleDev fun s => { s with perstHigh := true }), by decide +kernel, by decide +kernel⟩,
    ⟨on (sysDev idleDev fun s => { s with testing := [(7, 2 ^ 32)] }), by decide +kernel, 7, by decide +kernel⟩,
    ⟨on ((idleDev.setReg rHqDevstat (2 ^ 31)).setReg rBootStatus (2 ^ 50)), by decide +kernel, 0x84001000, by
      decide +kernel, by decide +kernel, by decide +kernel⟩,
    ⟨on (idleDev.setReg rBootRcvCtl (2 ^ 30 + 4 * 2 ^ 24 + 1)), by decide +kernel, by decide +kernel⟩,
    ⟨on ((idleDev.setReg rHqDevstat (2 ^ 31))), by decide +kernel, 0xFFFFFFFE, by decide +kernel⟩⟩

theorem test_meets_LockedFieldsAreRefused :
  (∃ (st : State) (q : QueueN) (c : FetchedCmd) (e : Dev), st.dev.sys.railsUp = true ∧
   let v := (c.params [.num 1]).at 0
   Accepted st.dev q 0xB03 [.num 1] c e ∧ 4 ≤ v ∧ v ≤ 16 ∧ e.flag rMemLock 0 = true) ∧
  (∃ (st : State) (q : QueueN) (c : FetchedCmd) (e : Dev), st.dev.sys.railsUp = true ∧
   let spec := [PKind.num 1, .num 1, .num 1, .num 1, .num 1]
   let v := (c.params spec).at
   Accepted st.dev q 0x003 spec c e ∧ (∀ k < 4, 1 ≤ v k ∧ v k ≤ 15) ∧ 1 ≤ v 4 ∧ v 4 ≤ 4 ∧ e.flag rHqLock 0 = true) ∧
  (∃ (st : State) (q : QueueN) (c : FetchedCmd) (e : Dev), st.dev.sys.railsUp = true ∧
   let v := (c.params [.num 2, .num 1]).at
   Accepted st.dev q 0xA03 [.num 2, .num 1] c e ∧ 25 ≤ v 0 ∧ v 0 ≤ 1500 ∧ v 1 ≤ 90 ∧ e.flag rGovLock 0 = true) ∧
  (∃ (st : State) (q : QueueN) (c : FetchedCmd) (e : Dev), st.dev.sys.railsUp = true ∧
   let v := (c.params [.num 2, .num 2]).at
   Accepted st.dev q 0xA04 [.num 2, .num 2] c e ∧ 300 ≤ v 0 ∧ v 0 ≤ 700 ∧ 1000 ≤ v 1 ∧ v 1 ≤ 5000 ∧ e.flag rGovLock 0
     = true) ∧
  (∃ (st : State) (q : QueueN) (c : FetchedCmd) (e : Dev), st.dev.sys.railsUp = true ∧
   let v := (c.params [.num 1]).at 0
   Accepted st.dev q 0xA05 [.num 1] c e ∧ 85 ≤ v ∧ v ≤ 105 ∧ e.flag rGovLock 0 = true) ∧
  (∃ (st : State) (q : QueueN) (c : FetchedCmd) (e : Dev), st.dev.sys.railsUp = true ∧
   let v := (c.params [.num 1, .num 2]).at
   Accepted st.dev q 0xA07 [.num 1, .num 2] c e ∧ v 0 ≤ 1 ∧ fmaxOk (v 1) = true ∧ e.flag rClkLock 0 = true) ∧
  (∃ (st : State) (q : QueueN) (c : FetchedCmd) (e : Dev), st.dev.sys.railsUp = true ∧
   let spec := [PKind.num 2, .num 1, .num 1, .num 1, .num 1, .num 8, .num 1, .num 1, .num 1, .num 4]
   let v := (c.params spec).at
   let x := creationOf c.part (c.params spec)
   Accepted st.dev q 0x701 spec c e ∧ 1 ≤ v 0 ∧ (v 1 ≤ 7 ∨ v 1 = 0xF) ∧ v 2 ≤ 3 ∧ v 5 < 2 ^ 48 ∧ v 8 ≤ 3 ∧ 2000 ≤ v 9
     ∧ v 9 ≤ 1000000 ∧ c.part < 16 ∧ e.partValid c.part = false ∧ e.createParam x = none ∧ e.createBusy x = false ∧
     e.groupMembers x = [] ∧ ∃ h < 2, sectorsOn (v 0) h ≠ 0 ∧ e.flag (rSeqLock h) 0 = true ∧ (h = 1 → sectorsOn (v 0) 0
     = 0 ∨ e.flag (rSeqLock 0) 0 = false)) :=
  ⟨⟨on (got (idleDev.setReg rMemLock 1) (command 0xB03 0xFF 0 [(1, 16)])), 2, command 0xB03 0xFF 0 [(1, 16)], went
    (idleDev.setReg rMemLock 1) (command 0xB03 0xFF 0 [(1, 16)]), by decide +kernel, accepted_plain (by decide +kernel),
    by decide +kernel⟩,
    ⟨on (got (idleDev.setReg rHqLock 1) (command 0x003 0xFF 0 [(1, 15), (1, 1), (1, 1), (1, 1), (1, 4)])), 2, command
      0x003 0xFF 0 [(1, 15), (1, 1), (1, 1), (1, 1), (1, 4)], went (idleDev.setReg rHqLock 1) (command 0x003 0xFF 0 [(1,
      15), (1, 1), (1, 1), (1, 1), (1, 4)]), by decide +kernel, accepted_plain (by decide +kernel), by decide +kernel⟩,
    ⟨on (got (idleDev.setReg rGovLock 1) (command 0xA03 0xFF 0 [(2, 1500), (1, 90)])), 2, command 0xA03 0xFF 0 [(2,
      1500), (1, 90)], went (idleDev.setReg rGovLock 1) (command 0xA03 0xFF 0 [(2, 1500), (1, 90)]), by decide +kernel,
      accepted_plain (by decide +kernel), by decide +kernel⟩,
    ⟨on (got (idleDev.setReg rGovLock 1) (command 0xA04 0xFF 0 [(2, 700), (2, 5000)])), 2, command 0xA04 0xFF 0 [(2,
      700), (2, 5000)], went (idleDev.setReg rGovLock 1) (command 0xA04 0xFF 0 [(2, 700), (2, 5000)]), by
      decide +kernel, accepted_plain (by decide +kernel), by decide +kernel⟩,
    ⟨on (got (idleDev.setReg rGovLock 1) (command 0xA05 0xFF 0 [(1, 105)])), 2, command 0xA05 0xFF 0 [(1, 105)], went
      (idleDev.setReg rGovLock 1) (command 0xA05 0xFF 0 [(1, 105)]), by decide +kernel, accepted_plain (by
      decide +kernel), by decide +kernel⟩,
    ⟨on (got (idleDev.setReg rClkLock 1) (command 0xA07 0xFF 0 [(1, 1), (2, 700)])), 2, command 0xA07 0xFF 0 [(1, 1),
      (2, 700)], went (idleDev.setReg rClkLock 1) (command 0xA07 0xFF 0 [(1, 1), (2, 700)]), by decide +kernel,
      accepted_plain (by decide +kernel), by decide +kernel⟩,
    ⟨on (got ((forN 8 (fun k d => d.setReg (rMemStk k) (2 ^ 32 - 1)) partDev).setReg (rSeqLock 1) 1) (command 0x701 3
      0 [(2, 0x8000), (1, 0xF), (1, 3), (1, 0), (1, 190), (8, 2 ^ 47), (1, 0), (1, 1), (1, 2), (4, 1000000)])), 2,
      command 0x701 3 0 [(2, 0x8000), (1, 0xF), (1, 3), (1, 0), (1, 190), (8, 2 ^ 47), (1, 0), (1, 1), (1, 2), (4,
      1000000)], went ((forN 8 (fun k d => d.setReg (rMemStk k) (2 ^ 32 - 1)) partDev).setReg (rSeqLock 1) 1) (command
      0x701 3 0 [(2, 0x8000), (1, 0xF), (1, 3), (1, 0), (1, 190), (8, 2 ^ 47), (1, 0), (1, 1), (1, 2), (4, 1000000)]),
      by decide +kernel, accepted_plain (by decide +kernel), more4 (by decide +kernel) (more4 (by decide +kernel) ⟨by
      decide +kernel, by decide +kernel, by decide +kernel, by decide +kernel, 1, by decide +kernel⟩)⟩⟩

/-- The two front commands of a queue of a machine whose rails are down. -/
def queueDev : State := ⟨{ Dev.reset with sys := { Dev.reset.sys with railsUp := false } }, [.coldReset, .rtHang]⟩

/-- A machine whose kill fuse and root 3 are blown, about to be reset. -/
def fuseState : State := ⟨{ Dev.reset with cus := { Dev.reset.cus with killFuse := true, revoked := 8, svnMin := 64 } }, [.coldReset]⟩

theorem test_meets_StepRunsTheFrontCommand :
    (∃ (s : State) (c : Instr) (cs : List Instr), s.pending = c :: cs) ∧
      ∃ s : State, s.pending = [] ∧ s.dev.sys.railsUp = false :=
  ⟨⟨queueDev, .coldReset, [.rtHang], rfl⟩, ⟨{ queueDev with pending := [] }, rfl, rfl⟩⟩

theorem test_meets_CommandsRunInOrder :
    (∃ s t : State, queueOk s = true ∧ step s = .next t) ∧ ∃ (n : Nat) (s : State), n ≤ s.pending.length ∧ queueOk s = true :=
  ⟨⟨queueDev, _, by decide +kernel, rfl⟩, ⟨2, queueDev, by decide, by decide +kernel⟩⟩

theorem test_meets_FusesNeverReturn :
    (∃ (s t : State) (i : Nat), s.dev.cus.svnMin ≤ 64 ∧ step s = .next t ∧ s.dev.cus.killFuse = true ∧
      bit s.dev.cus.revoked i = true) ∧
      ∃ (n : Nat) (s t : State), s.dev.cus.svnMin ≤ 64 ∧ runs n s t ∧ s.dev.cus.killFuse = true :=
  ⟨⟨fuseState, _, 3, by decide, rfl, rfl, by decide⟩, ⟨1, fuseState, _, by decide, ⟨_, rfl, rfl⟩, rfl⟩⟩

/-! ## Ill-formed commands, which the checks of WellFormed.lean refuse -/

theorem test_wf_doorbell_sizes : (Instr.sqTail 0 ⟨0, 9, 0⟩).wf = false ∧ (Instr.cqHead 0 ⟨0, 0, 0⟩).wf = false ∧
    (Instr.sqTail 0 ⟨0, 4, 0⟩).wf = true := by decide +kernel

theorem test_wf_bar4_write_without_its_bytes : (Instr.bar4Access ⟨true, 0, 4, [1, 2]⟩).wf = false ∧
    (Instr.bar4Access ⟨false, 0, 4, [1]⟩).wf = false ∧ (Instr.bar4Access ⟨true, 0, 2, [1, 2]⟩).wf = true := by decide +kernel

theorem test_wf_symbol_errors : (Instr.rimRead 0 [(42, 1)]).wf = false ∧ (Instr.rimRead 0 [(3, 1), (3, 2)]).wf = false ∧
    (Instr.scrubRead 0 0 [(3, 0)]).wf = false ∧ (Instr.scrubRead 0 0 [(41, 1), (0, 2)]).wf = true := by decide +kernel

theorem test_wf_granules : (Instr.rimRead 63 []).wf = false ∧ (Instr.rimRead 0xC000000000 []).wf = false ∧
    (Instr.rimPartialWrite 60 [1, 2, 3, 4, 5] []).wf = false ∧ (Instr.rimPartialWrite 60 [1, 2, 3, 4] []).wf = true := by
  decide +kernel

theorem test_wf_delay_measurement : (Instr.linkUp 0 ⟨List.replicate 65 900, 0, 0⟩).wf = false ∧
    (Instr.distMeasure 0 [⟨List.replicate 65 900, 0, 0⟩]).wf = false := by decide +kernel

theorem test_wf_command_entry : (Instr.commandFetch (List.replicate 127 0) []).wf = false ∧
    (Instr.commandFetch (List.replicate 128 0) []).wf = true := by decide +kernel

theorem test_wf_receive_buffer : (Instr.pfcPause 0 0 (.occupancy 1025)).wf = false ∧ (Instr.pfcPause 0 0 (.occupancy 1024)).wf = true := by
  decide +kernel

theorem test_wf_barrov_payload_length : (Instr.data ⟨0, 0, 0, ⟨1, 0, 0, 0, 0, 0, 0, 0, 0, 0, 4, 0⟩, [1, 2, 3], 0⟩).wf = false := by
  decide +kernel

theorem test_wf_repeated_objects : (Instr.partnerPhaseDone 0 [7, 8, 7]).wf = false := by decide +kernel

theorem test_wf_governor_targets :
    (Instr.governorTick ⟨900, 900, 900, 60, 61, 62, List.replicate 8 50, 1525, 1500, 0, 0, true, true, false, false⟩).wf = false ∧
    (Instr.governorTick ⟨900, 900, 900, 60, 61, 62, [50], 1500, 1500, 0, 0, true, true, false, false⟩).wf = false := by
  decide +kernel

theorem test_wf_boot_stages : (Instr.bootStageEnd ⟨0, 0, 0, 0, 0, [], 0, 0⟩).wf = false ∧
    (Instr.bootStageEnd ⟨11, 0, 0, 0, 0, [], 0, 0⟩).wf = false := by decide +kernel

theorem test_wf_register_writes : (Instr.registerWrite (.host 0 0x3FFFFFC) 8 0).wf = false ∧
    (Instr.registerWrite (.host 0 0x20000) 3 0).wf = false ∧ (Instr.registerWrite (.host 0 0x3FFFFFC) 4 0).wf = true ∧
    (Instr.registerWrite (.debug (.reg 0x3FFFFFC)) 8 0).wf = false ∧
    (Instr.registerWrite (.debug (.store 3 0x1FFFFC)) 8 0).wf = false := by decide +kernel

theorem test_wf_pldm_numbers : (Instr.pldmRequest (.pldm ⟨64, 0, 0, []⟩)).wf = false ∧
    (Instr.pldmRequest (.pldm ⟨5, 256, 0, []⟩)).wf = false ∧ (Instr.pldmRequest (.eepromRead 2047 2)).wf = false := by
  decide +kernel

/-! ## The spec's worked values -/

/-- 05_number_formats.md, R100: E4M3 0x7E is 14 * 2^5, INT8 0x80 is −128. -/
theorem test_read_elements : (readElem 3 0x7E).1 = Elem.fin false 14 5 ∧ (readElem 8 0x80).1 = Elem.fin true 128 0 := by
  decide +kernel

/-- 05_number_formats.md, R109: CVT of 100.0 to E8M0 gives 0x85. -/
theorem test_cvt_e8m0 : (cvtEl 0 0 0xB .even false 0x42C80000).1 = 0x85 := by decide +kernel

/-- Table 06-1: 4096², 1² and 2^−40 of BF16 make a chunk of 0x4B800000, and so does the total from −0. -/
theorem test_chunk_of_table_06_1 :
    let el (c : Nat) : Elem := (readElem 1 c).1
    let ps := [0x4580, 0x3F80, 0x3580, 0, 0].map fun c => (el c, some (el c))
    (chunkResult ps).code = 0x4B800000 ∧ (totalUpdate 0x80000000 (chunkResult ps).code).code = 0x4B800000 := by decide +kernel

/-- Table 06-2: 448² scaled by 2^127 overflows and the NaN of K = 32 decides the chunk; INV is not raised. -/
theorem test_chunk_of_table_06_2 :
    let el (c s : Nat) : Elem := scaleElem s (readElem 3 c).1
    let r := chunkResult ([(el 0x7E 0xFE, some (el 0x7E 0x7F)), (el 0 0xFE, some (el 0 0x7F)), (el 0x7F 0x7F, some (el 0x38 0x7F)),
      (el 0x38 0x7F, some (el 0x38 0x7F))])
    r.code = 0x7FC00000 ∧ r.ev = { ovf := 1, nan := 1 } := by decide +kernel

/-- Table 07-2: with metadata 0xD and 0x4, columns 0 and 1 read back 0, 1.5, 0, −2.0 and 0.5, +0, pruned, pruned. -/
theorem test_sparse_group_of_table_07_2 :
    let vals := [0x3C, 0x30] ++ List.replicate 126 0 ++ [0xC0, 0]
    ((List.range 4).map fun i => sparseAt vals [0xD, 0x4] 0 i) = [none, some 0x3C, none, some 0xC0] ∧
      ((List.range 4).map fun i => sparseAt vals [0xD, 0x4] 1 i) = [some 0x30, some 0, none, none] := by decide +kernel

/-- 10_barrov_network.md, R205: the inverse of 0x0010 is 0x7703, and its product with 2 is 0xEE06. -/
theorem test_parity_field : gfInv 0x10 = 0x7703 ∧ gfMul 2 0x7703 = 0xEE06 := by decide +kernel

/-- 01_hemispheres.md: local address 0x012345 is in bank 13. -/
theorem test_bank_of_a_local_address : bankOf (0x12345 / 64) = 13 := by decide

/-- 09_memory_tiers.md, R168: where global address 0x009123456A40 stands, the way back, and its staging set (R176). -/
theorem test_rim_map_example : rimMap 0x9123456A40 = ⟨6, 12, 0x48D159⟩ ∧ gDie 0x48D159 = 1 ∧ gBank 0x48D159 = 5 ∧
    gRow 0x48D159 = 2330 ∧ gGran 0x48D159 = 9 ∧ rimAddr 6 12 0x48D159 = 0x9123456A40 ∧ stageSet 0x9123456A40 = 0x1E7 := by
  decide +kernel

/-- 02_scangathen_bundle.md: the lane op of slot 5 is bits [2367:2240] of a bundle. -/
theorem test_lane_field_of_slot_5 : slotBase 5 + 96 = 2240 ∧ opWidth 1 = 128 := by decide

/-- 11_ingest.md: JPEG with a median of 2.1 ms gets 16.8 ms, HEVC with 7.5 ms the cap of 50 ms. -/
theorem test_unit_budgets :
    let d (ns : Nat) : Dev := { idleDev with ing := { idleDev.ing with times := [(1, List.replicate 31 ns)] } }
    (d 2100000).unitBudget 0 1 = 16800000 ∧ (d 7500000).unitBudget 0 1 = 50000000 := by decide +kernel

/-- 11_ingest.md, Table 11-3: a PNG that claims 16,000 by 16,000 pixels of 30,000 bytes is rejected with EXPANSION. -/
theorem test_png_expansion :
    let desc := leBytes 1 2 ++ List.replicate 255 0
    headerReason desc (List.replicate 30000 0) ⟨0, 0, true, 16000, 16000, 8, 3, 1, 1, 0, 0, 0⟩ = some 0xB := by decide +kernel

/-- The published first vector of Philox-4x32-10, which R128 names: counter 0 and key 0. -/
theorem test_philox : philox 0 0 = [0x6627E8D5, 0xE169C58D, 0xBC57AC4C, 0x9B00DBD8] := by decide +kernel

/-! ## Commands on a small machine -/

/-- The device that a command leaves. -/
def after (o : Host.Outcome State Fault Refusal) : Dev :=
  match o with
  | .next t => t.dev
  | _ => Dev.reset

/-- Table 04-3: padding of a closed hinge with T = 48 after a branch of 20 issues; 28 issues later ICOUNT is 1,112 before
JOIN's, and the context goes to bundle 260. -/
theorem test_closed_hinge_pad :
    let e : HingeEntry := { hent with inbr := false, len := 48, elapsed := 20, join := 260 }
    let d := ctxDev fun x => { x with phase := .padClosed, icount := 1084, hinges := [e] }
    let x := (after (exec (.closedHingePad c0) (on d))).ctx 0 0
    x.icount = 1112 ∧ x.bidx = 260 := by decide +kernel

/-- Tables 03-9 and 03-10: an ADD of FP32 1.0 and 2.0 in lane 0 is on its way to v3 as 3.0. -/
theorem test_add :
    let d := { runDev with vregs := [(vIdx 3 10 1 0, 0x3F800000), (vIdx 3 10 2 0, 0x40000000)] }
    (((after (exec (.add site lop) (on d))).ctx 0 0).inflight.any fun x => match x.eff with
      | .lane _ _ _ vs _ => vs.contains (3 * 512, 0x40400000)
      | _ => false) = true := by decide +kernel

/-- The queue is the model's (log 4): a step takes the command that was waiting longest. -/
theorem test_step_takes_the_front : (match step queueDev with | .next t => t.pending | _ => []) = [.rtHang] := by decide +kernel

/-- Table 20-2: stage 0x3 follows stage 0x2. -/
theorem test_boot_stage :
    let d := after (exec (.bootStageEnd ⟨2, 0, 0, 0, 0, [], 0, 0⟩) (on (sysDev Dev.reset fun s => { s with stages := [2] })))
    d.sys.stages = [3] ∧ d.fld rBootStatus 63 60 = 3 := by decide +kernel

/-- R336: a TPLL at 600 MHz with TARGET 610 steps to 610, not to 625. -/
theorem test_tpll_step :
    let d := (Dev.reset.setReg (rClkPll 0) (2 ^ 31 + 600)).setFld (rClkTpll 0) 10 0 610
    (after (exec (.tpllStep 0) (on d))).fld (rClkPll 0) 15 0 = 610 := by decide +kernel

/-- R334: a forward step of the time base by 5 ns acts at once. -/
theorem test_tb_step : (after (exec (.clkTbStep 5) (on Dev.reset))).now = (Dev.reset.now + 5) % 2 ^ 64 := by decide +kernel

end Sys2Proof.Tests
end

/-! PROOFS (00_scope.md): a command answers a next state that differs in the device alone, so steps take exactly the front of
the queue; and a command that meets a lock bit ends with LOCKED and touches no register but those of its queue. -/

namespace Sys2Proof.Machine

/-! ## A command acts on the device alone -/

/-- The input controller's range test is a change of the device, so an act after it leaves the queue too (R372). -/
theorem State.rangeTest_act_next (s : State) (bad : Bool) (f : Dev → Dev) :
    ∃ d, (s.rangeTest bad).act f = .next { s with dev := d } := by
  unfold State.rangeTest
  split <;> exact ⟨_, rfl⟩

theorem execInputRange_next (mv : BitVec 16) (s : State) : ∃ d, execInputRange mv s = .next { s with dev := d } := by
  unfold execInputRange
  dsimp only
  split
  · exact s.rangeTest_act_next true _
  · exact s.act_next _

theorem execInputRangeExit_next (mv : BitVec 16) (s : State) :
    ∃ d, execInputRangeExit mv s = .next { s with dev := d } := by
  unfold execInputRangeExit
  split
  · exact s.rangeTest_act_next false _
  · exact s.act_next _

theorem execPldmRequest_next (r : MgmtReq) (s : State) : ∃ d, execPldmRequest r s = .next { s with dev := d } := by
  cases r with
  | pldm r => exact ⟨_, rfl⟩
  | eepromRead off len => exact ⟨_, rfl⟩
  | eepromWrite off bytes => exact ⟨_, rfl⟩

/-- Every row's meaning is a next state written with another device alone, which `rfl` reads off its arm; the two input ranges
first run the input controller's test, and a management request is one of three kinds. -/
theorem exec_next (i : Instr) (s : State) : ∃ d, exec i s = .next { s with dev := d } := by
  cases i with
  | inputRange mv => exact execInputRange_next mv s
  | inputRangeExit mv => exact execInputRangeExit_next mv s
  | pldmRequest r => exact execPldmRequest_next r s
  | _ => exact ⟨_, rfl⟩

/-! ## A step takes the front of the queue -/

theorem step_cons {s : State} {c : Instr} {cs : List Instr} (h : s.pending = c :: cs) :
    step s = exec c { s with pending := cs } := by
  simp [step, h]

theorem step_nil {s : State} (h : s.pending = []) : step s = .next { s with dev := s.dev.idle } := by
  simp [step, h]

theorem Dev.idle_down {d : Dev} (h : d.sys.railsUp = false) : d.idle = d := by
  simp [Dev.idle, h]

/-- What a step does to the queue, whatever the command: its front leaves, and nothing joins. -/
theorem step_next (s : State) : ∃ d, step s = .next { dev := d, pending := s.pending.tail } := by
  cases h : s.pending with
  | nil => exact ⟨s.dev.idle, by rw [step_nil h, h]; rfl⟩
  | cons c cs => rw [step_cons h]; exact exec_next c _

theorem step_pending {s t : State} (h : step s = .next t) : t.pending = s.pending.tail := by
  obtain ⟨d, hd⟩ := step_next s
  obtain rfl := Host.Outcome.next.inj (hd.symm.trans h)
  rfl

end Sys2Proof.Machine

namespace Sys2Proof

open Machine

theorem answers_step (s : State) : answers (step s) := by
  obtain ⟨d, hd⟩ := step_next s
  exact ⟨_, hd⟩

theorem queueOk_step {s t : State} (hs : queueOk s = true) (h : step s = .next t) : queueOk t = true := by
  simp only [queueOk, List.all_eq_true] at hs ⊢
  intro i hi
  rw [step_pending h] at hi
  exact hs i (List.mem_of_mem_tail hi)

/-! ## Runs -/

/-- What every step keeps, every run keeps. -/
theorem runs_keeps (P : State → Prop) (hstep : ∀ s t, P s → step s = .next t → P t) :
    ∀ {n : Nat} {s t : State}, runs n s t → P s → P t
  | 0, _, _, rfl, hs => hs
  | _ + 1, s, _, ⟨u, hu, hr⟩, hs => runs_keeps P hstep hr (hstep s u hs hu)

/-- A run of a given length ends in one state only. -/
theorem runs_unique : ∀ {n : Nat} {s t u : State}, runs n s t → runs n s u → u = t
  | 0, _, _, _, rfl, rfl => rfl
  | _ + 1, _, _, _, ⟨v, hv, ht⟩, ⟨w, hw, hu⟩ => by
    obtain rfl := Host.Outcome.next.inj (hv.symm.trans hw)
    exact runs_unique ht hu

theorem runs_pending : ∀ {n : Nat} {s t : State}, runs n s t → t.pending = s.pending.drop n
  | 0, _, _, rfl => rfl
  | n + 1, s, t, ⟨u, hu, hr⟩ => by
    rw [runs_pending hr, step_pending hu, List.drop_tail]

theorem exists_runs (n : Nat) (s : State) : ∃ t, runs n s t := by
  induction n generalizing s with
  | zero => exact ⟨s, rfl⟩
  | succ n ih =>
    obtain ⟨u, hu⟩ := answers_step s
    obtain ⟨t, ht⟩ := ih u
    exact ⟨t, u, hu, ht⟩

/-- Settles O59: a step takes the front of the queue and adds nothing, so a run of n steps drops n commands. -/
theorem commandsRunInOrder : Obligations.CommandsRunInOrder := by
  refine ⟨fun s t => queueOk_step, answers_step, fun n s _ => ?_⟩
  obtain ⟨t, ht⟩ := exists_runs n s
  have hok : queueOk s = true → queueOk t = true := runs_keeps (fun s => queueOk s = true) (fun _ _ => queueOk_step) ht
  exact ⟨t, ht, runs_pending ht, hok, fun u => runs_unique ht⟩

/-- Settles O56: every row is one act on the device. -/
theorem stepRunsTheFrontCommand : Obligations.StepRunsTheFrontCommand := by
  refine ⟨fun s c cs => step_cons, exec_next, fun s h => ⟨_, step_nil h, h⟩, fun s h hr => ?_⟩
  rw [step_nil h, Dev.idle_down hr]

end Sys2Proof

namespace Sys2Proof.Machine

/-! ## A completion touches the registers of its queue alone -/

theorem Dev.reg_of_regs {d e : Dev} (h : e.regs = d.regs) (o : Nat) : e.reg o = d.reg o := by
  simp [Dev.reg, h]

@[simp] theorem Dev.addBytes_regs (d : Dev) (n rx tx : Nat) : (d.addBytes n rx tx).regs = d.regs := by
  unfold Dev.addBytes
  split <;> rfl

@[simp] theorem Dev.signal_regs (d : Dev) (q : Nat) : (d.signal q).regs = d.regs := by
  unfold Dev.signal
  dsimp only
  split
  · simp
  · rfl

@[simp] theorem Dev.writeCqe_regs (d : Dev) (q : Nat) (e : List Byte) (u : Bool) : (d.writeCqe q e u).regs = d.regs := by
  simp only [Dev.writeCqe, apply_ite Dev.regs, Dev.signal_regs, Dev.setQueue_regs, Dev.addBytes_regs, ite_self]

@[simp] theorem Dev.pushCqe_regs (d : Dev) (q : Nat) (e : List Byte) (u : Bool) : (d.pushCqe q e u).regs = d.regs := by
  unfold Dev.pushCqe
  split
  · rfl
  · split <;> simp

@[simp] theorem Dev.postFinal_regs (d : Dev) (c : FetchedCmd) (k : Option Nat) (cause res : Nat) :
    (d.postFinal c k cause res).regs = d.regs := by
  unfold Dev.postFinal
  dsimp only
  split
  · rfl
  · simp

/-- Every register reads as before but HQ_Q_q_SQ, HQ_Q_q_CQ and HQ_Q_q_VEC. -/
def Dev.KeepsBesideQueue (q : Nat) (d e : Dev) : Prop :=
  ∀ o, o ≠ rHqSq q → o ≠ rHqCq q → o ≠ rHqVec q → e.reg o = d.reg o

theorem Dev.KeepsBesideQueue.trans {q : Nat} {d e g : Dev} (a : Dev.KeepsBesideQueue q d e)
    (b : Dev.KeepsBesideQueue q e g) : Dev.KeepsBesideQueue q d g :=
  fun o h1 h2 h3 => (b o h1 h2 h3).trans (a o h1 h2 h3)

theorem Dev.KeepsBesideQueue.of_regs {q : Nat} {d e : Dev} (h : e.regs = d.regs) : Dev.KeepsBesideQueue q d e :=
  fun o _ _ _ => Dev.reg_of_regs h o

theorem Dev.KeepsBesideQueue.refl (q : Nat) (d : Dev) : Dev.KeepsBesideQueue q d d := .of_regs rfl

theorem Dev.keepsBesideQueue_setReg (q : Nat) (d : Dev) (off v : Nat) (h : off = rHqSq q ∨ off = rHqCq q ∨ off = rHqVec q) :
    Dev.KeepsBesideQueue q d (d.setReg off v) := fun o h1 h2 h3 => by
  refine d.reg_setReg_other off v o ?_
  rcases h with rfl | rfl | rfl <;> assumption

theorem Dev.keepsBesideQueue_setQueue (q : Nat) {d e : Dev} (n : Nat) (x : QueueSt) (h : Dev.KeepsBesideQueue q d e) :
    Dev.KeepsBesideQueue q d (e.setQueue n x) := h.trans (.of_regs (e.setQueue_regs ..))

theorem Dev.KeepsBesideQueue.ite {q : Nat} {d e g : Dev} (b : Bool) (he : Dev.KeepsBesideQueue q d e)
    (hg : Dev.KeepsBesideQueue q d g) : Dev.KeepsBesideQueue q d (if b then e else g) := by
  cases b
  · exact hg
  · exact he

theorem Dev.keepsBesideQueue_writeSq (d : Dev) (q v : Nat) : Dev.KeepsBesideQueue q d (d.writeSq q v) := by
  have key w := d.keepsBesideQueue_setReg q (rHqSq q) w (.inl rfl)
  unfold Dev.writeSq
  exact .ite _ (keepsBesideQueue_setQueue q _ _ (key _)) (key _)

theorem Dev.keepsBesideQueue_writeCq (d : Dev) (q v : Nat) : Dev.KeepsBesideQueue q d (d.writeCq q v) :=
  .ite _ (.refl q d) (d.keepsBesideQueue_setReg q (rHqCq q) _ (.inr (.inl rfl)))

theorem Dev.keepsBesideQueue_writeVec (d : Dev) (q v : Nat) : Dev.KeepsBesideQueue q d (d.writeVec q v) := by
  have key w := d.keepsBesideQueue_setReg q (rHqVec q) w (.inr (.inr rfl))
  have started w x := keepsBesideQueue_setQueue q q x (key w)
  unfold Dev.writeVec
  exact .ite _ (started _ _) (.ite _ (started _ _) (key _))

theorem Dev.keepsBesideQueue_applyQueueWrites (d : Dev) (q : Nat) (l : List (Nat × Nat × Nat)) :
    Dev.KeepsBesideQueue q d (d.applyQueueWrites q l) := by
  unfold Dev.applyQueueWrites
  refine forL_keeps (Dev.KeepsBesideQueue q d) l _ d (.refl q d) fun w _ e he => he.trans ?_
  split
  · exact e.keepsBesideQueue_writeSq q _
  · split
    · exact e.keepsBesideQueue_writeCq q _
    · exact e.keepsBesideQueue_writeVec q _

/-- The CQ is disabled as the queue's deletion ends (R277). -/
theorem Dev.keepsBesideQueue_cqOff (d : Dev) (q : Nat) (x : QueueSt) :
    Dev.KeepsBesideQueue q d ((d.setFlag (rHqVec q) 20 false).setQueue q x) :=
  keepsBesideQueue_setQueue q _ _ (d.keepsBesideQueue_setReg q (rHqVec q) _ (.inr (.inr rfl)))

theorem Dev.keepsBesideQueue_postFinal (d : Dev) (q : Nat) (c : FetchedCmd) (k : Option Nat) (cause res : Nat) :
    Dev.KeepsBesideQueue q d (d.postFinal c k cause res) := .of_regs (d.postFinal_regs ..)

theorem Dev.keepsBesideQueue_tryClose (d : Dev) (q : Nat) : Dev.KeepsBesideQueue q d (d.tryClose q) := by
  have off x := d.keepsBesideQueue_cqOff q x
  have posted (c : FetchedCmd) := d.keepsBesideQueue_postFinal q c none 0 0
  unfold Dev.tryClose
  dsimp only
  split
  · exact .refl q d
  · split
    · exact .refl q d
    · split
      · exact (off _).trans (Dev.keepsBesideQueue_applyQueueWrites _ _ _)
      · split
        · split
          · exact posted _
          · exact ((posted _).trans (Dev.keepsBesideQueue_cqOff _ _ _)).trans (Dev.keepsBesideQueue_applyQueueWrites _ _ _)
        · exact ((off _).trans (Dev.keepsBesideQueue_postFinal _ _ _ _ _ _)).trans
            (Dev.keepsBesideQueue_applyQueueWrites _ _ _)

/-- The end of a command writes no register but those of its queue (R267, R277). -/
theorem Dev.keepsBesideQueue_finish (d : Dev) (c : FetchedCmd) (k : Option Nat) (cause res : Nat) :
    Dev.KeepsBesideQueue c.q d (d.finish c k cause res) :=
  (d.keepsBesideQueue_postFinal c.q c k cause res).trans (Dev.keepsBesideQueue_tryClose _ _)

/-- Outside the queues' windows of the host-queue block every register is kept. -/
theorem Dev.KeepsBesideQueue.reg_outside {q : Nat} {d e : Dev} (h : Dev.KeepsBesideQueue q d e) (hq : q < 16384) (o : Nat)
    (ho : o < 0x90000 ∨ 0x100000 ≤ o) : e.reg o = d.reg o := by
  apply h o <;> simp only [rHqSq, rHqCq, rHqVec] <;> omega

/-! ## Range checks and the queue of a command -/

/-- No parameter is out of range where none of the checks answers. -/
theorem firstBad_eq_none {l : List (Bool × Nat)} : firstBad l = none ↔ ∀ x ∈ l, x.1 = false := by
  simp [firstBad]

theorem Dev.startable_q {d : Dev} {q : Nat} {c : FetchedCmd} (h : d.startable q = some c) : c.q = q := by
  unfold Dev.startable at h
  split at h
  · cases h
  · next x hx =>
    have hq : x.q = q := by
      have := List.find?_some hx
      simp only [Bool.and_eq_true, beq_iff_eq] at this
      exact this.1
    split at h
    · cases h
    · cases h; exact hq

end Sys2Proof.Machine

namespace Sys2Proof

open Machine

/-! ## Commands that meet a lock bit (R10) -/

@[simp] theorem began_q (c : FetchedCmd) : (began c).q = c.q := rfl

@[simp] theorem began_part (c : FetchedCmd) : (began c).part = c.part := rfl

/-- The row ends with a request-ended completion of cause LOCKED that names register `off`, and every register outside the
host-queue block keeps its value. -/
def EndsLocked (o : Host.Outcome State Fault Refusal) (st : State) (c : FetchedCmd) (e : Dev) (off : Nat) : Prop :=
  let t := withDev st (e.fail (began c) 0x3 (detail 0 0 0 0 off))
  o = .next t ∧ ∀ o, (o < 0x80000 ∨ 0x100000 ≤ o) → t.dev.reg o = e.reg o

section

variable {st : State} {q : QueueN} {opc : Nat} {spec : List PKind} {c : FetchedCmd} {e : Dev}

/-- Below the queues' windows a failed command of queue q keeps every register. -/
theorem Accepted.fail_reg (h : Accepted st.dev q opc spec c e) (cause det o : Nat) (ho : o < 0x90000 ∨ 0x100000 ≤ o) :
    (e.fail (began c) cause det).reg o = e.reg o := by
  have hq : (began c).q = q.val := (began_q c).trans (Dev.startable_q h.head)
  exact (e.keepsBesideQueue_finish (began c) _ cause det).reg_outside (hq ▸ q.isLt) o ho

/-- An accepted command in range whose effect on the device is the refusal of a locked register. -/
theorem Accepted.endsLocked (h : Accepted st.dev q opc spec c e) (hr : st.dev.sys.railsUp = true)
    {bad : Params → Option Nat} {act : FetchedCmd → Params → Dev → Dev} {off : Nat} (hb : bad (c.params spec) = none)
    (ha : act (began c) (c.params spec) e = e.locked (began c) off) :
    EndsLocked (st.act fun d => d.cmd q opc spec bad act) st c e off := by
  refine ⟨?_, fun o ho => h.fail_reg _ _ o (by omega)⟩
  rw [h.act_eq hr bad act hb, ha]
  rfl

end

section

variable {st : State} {q : QueueN} {c : FetchedCmd} {e : Dev}

theorem flfCarve_endsLocked (hr : st.dev.sys.railsUp = true) (h : Accepted st.dev q 0xB03 [.num 1] c e)
    (lo : 4 ≤ (c.params [.num 1]).at 0) (hi : (c.params [.num 1]).at 0 ≤ 16) (hl : e.flag rMemLock 0 = true) :
    EndsLocked (exec (.flfCarve q) st) st c e rMemCfg :=
  h.endsLocked hr (firstBad_eq_none.2 (by simp [lo, hi])) (if_pos hl)

/-- The parameters of QUEUE_ARB: the weights of the four classes and BURST (R272). -/
def arbSpec : List PKind := [.num 1, .num 1, .num 1, .num 1, .num 1]

theorem queueArb_endsLocked (hr : st.dev.sys.railsUp = true) (h : Accepted st.dev q 0x003 arbSpec c e)
    (hw : ∀ k < 4, 1 ≤ (c.params arbSpec).at k ∧ (c.params arbSpec).at k ≤ 15) (lo : 1 ≤ (c.params arbSpec).at 4)
    (hi : (c.params arbSpec).at 4 ≤ 4) (hl : e.flag rHqLock 0 = true) :
    EndsLocked (exec (.queueArb q) st) st c e rHqArb := by
  refine h.endsLocked hr (firstBad_eq_none.2 fun x hx => ?_) (if_pos hl)
  rcases List.mem_append.1 hx with hx | hx
  · obtain ⟨k, hk, rfl⟩ := List.mem_map.1 hx
    obtain ⟨hk1, hk15⟩ := hw k (List.mem_range.1 hk)
    simp [Nat.ne_of_gt hk1, hk15]
  · obtain rfl := List.mem_singleton.1 hx
    simp [Nat.ne_of_gt lo, hi]

theorem govRampCfg_endsLocked (hr : st.dev.sys.railsUp = true) (h : Accepted st.dev q 0xA03 [.num 2, .num 1] c e)
    (lo : 25 ≤ (c.params [.num 2, .num 1]).at 0) (hi : (c.params [.num 2, .num 1]).at 0 ≤ 1500)
    (hf : (c.params [.num 2, .num 1]).at 1 ≤ 90) (hl : e.flag rGovLock 0 = true) :
    EndsLocked (exec (.govRampCfg q) st) st c e rGovRamp :=
  h.endsLocked hr (firstBad_eq_none.2 (by simp [lo, hi, hf])) (if_pos hl)

theorem govBrakeCfg_endsLocked (hr : st.dev.sys.railsUp = true) (h : Accepted st.dev q 0xA04 [.num 2, .num 2] c e)
    (hlev : 300 ≤ (c.params [.num 2, .num 2]).at 0 ∧ (c.params [.num 2, .num 2]).at 0 ≤ 700)
    (hramp : 1000 ≤ (c.params [.num 2, .num 2]).at 1 ∧ (c.params [.num 2, .num 2]).at 1 ≤ 5000)
    (hl : e.flag rGovLock 0 = true) : EndsLocked (exec (.govBrakeCfg q) st) st c e rGovBrake :=
  h.endsLocked hr (firstBad_eq_none.2 (by simp [hlev, hramp])) (if_pos hl)

theorem govThermCfg_endsLocked (hr : st.dev.sys.railsUp = true) (h : Accepted st.dev q 0xA05 [.num 1] c e)
    (lo : 85 ≤ (c.params [.num 1]).at 0) (hi : (c.params [.num 1]).at 0 ≤ 105) (hl : e.flag rGovLock 0 = true) :
    EndsLocked (exec (.govThermCfg q) st) st c e rGovTherm :=
  h.endsLocked hr (firstBad_eq_none.2 (by simp [lo, hi])) (if_pos hl)

theorem tclkLimit_endsLocked (hr : st.dev.sys.railsUp = true) (h : Accepted st.dev q 0xA07 [.num 1, .num 2] c e)
    (hh : (c.params [.num 1, .num 2]).at 0 ≤ 1) (hf : fmaxOk ((c.params [.num 1, .num 2]).at 1) = true)
    (hl : e.flag rClkLock 0 = true) :
    EndsLocked (exec (.tclkLimit q) st) st c e (rClkTpll ((c.params [.num 1, .num 2]).at 0)) :=
  h.endsLocked hr (firstBad_eq_none.2 (by simp [hh, hf])) (if_pos hl)

/-- The parameters of PARTITION_CREATE (R279). -/
def createSpec : List PKind := [.num 2, .num 1, .num 1, .num 1, .num 1, .num 8, .num 1, .num 1, .num 1, .num 4]

/-- The parameters of PARTITION_CREATE are within their ranges (Table 14-1). -/
def CreateInRange (v : Nat → Nat) : Prop :=
  1 ≤ v 0 ∧ (v 1 ≤ 7 ∨ v 1 = 0xF) ∧ v 2 ≤ 3 ∧ v 5 < 2 ^ 48 ∧ v 8 ≤ 3 ∧ 2000 ≤ v 9 ∧ v 9 ≤ 1000000

/-- The hemisphere that PARTITION_CREATE finds locked: the lower of those it takes sectors of. -/
theorem find_lockedHemi (e : Dev) (m h : Nat) (h2 : h < 2) (hs : sectorsOn m h ≠ 0) (hl : e.flag (rSeqLock h) 0 = true)
    (low : h = 1 → sectorsOn m 0 = 0 ∨ e.flag (rSeqLock 0) 0 = false) :
    [0, 1].find? (fun h => sectorsOn m h != 0 && e.flag (rSeqLock h) 0) = some h := by
  obtain rfl | rfl : h = 0 ∨ h = 1 := by omega
  · simp [hs, hl]
  · have h0 : (sectorsOn m 0 != 0 && e.flag (rSeqLock 0) 0) = false := by
      rcases low rfl with h | h <;> simp [h]
    simp [h0, hs, hl]

theorem partitionCreate_endsLocked (hr : st.dev.sys.railsUp = true) (h : Accepted st.dev q 0x701 createSpec c e)
    (hin : CreateInRange (c.params createSpec).at) (hp : c.part < 16) (hv : e.partValid c.part = false)
    (hpar : e.createParam (creationOf c.part (c.params createSpec)) = none)
    (hbusy : e.createBusy (creationOf c.part (c.params createSpec)) = false)
    (hms : e.groupMembers (creationOf c.part (c.params createSpec)) = []) (n : Nat) (hn : n < 2)
    (hs : sectorsOn ((c.params createSpec).at 0) n ≠ 0) (hl : e.flag (rSeqLock n) 0 = true)
    (low : n = 1 → sectorsOn ((c.params createSpec).at 0) 0 = 0 ∨ e.flag (rSeqLock 0) 0 = false) :
    EndsLocked (exec (.partitionCreate q) st) st c e (rSeqIsbank n) := by
  obtain ⟨hsec, hgrp, hmem, hports, hbox, lo, hi⟩ := hin
  refine h.endsLocked hr (firstBad_eq_none.2 (by simp; omega)) ?_
  have hfind := find_lockedHemi e (creationOf c.part (c.params createSpec)).sectors n hn hs hl low
  have hpart : ¬ (16 ≤ c.part ∨ e.partValid c.part = true) := by simp [hp, hv]
  dsimp only
  rw [began_part, if_neg hpart, hpar, hbusy, hms]
  simp only [List.isEmpty_nil, Bool.false_eq_true, if_true, if_false]
  rw [hfind]

end

/-- Settles O55: each of the seven commands, accepted and in range, ends as a refusal of the locked register. -/
theorem lockedFieldsAreRefused : Obligations.LockedFieldsAreRefused := by
  intro st q c e hr
  refine ⟨flfCarve_endsLocked hr, fun h hw lo hi hl => ⟨queueArb_endsLocked hr h hw lo hi hl, ?_⟩, govRampCfg_endsLocked hr,
    fun h l0 h0 l1 h1 => govBrakeCfg_endsLocked hr h ⟨l0, h0⟩ ⟨l1, h1⟩, govThermCfg_endsLocked hr,
    tclkLimit_endsLocked hr, fun h hsec hgrp hmem hports hbox lo hi =>
      partitionCreate_endsLocked hr h ⟨hsec, hgrp, hmem, hports, hbox, lo, hi⟩⟩
  exact h.fail_reg _ _ _ (.inl (by decide))

end Sys2Proof

/-! PROOFS (01_hemispheres.md, family of the hemispheres): the one effect a context has on its way lands, whether the context
idles up to it or is about to issue in its cycle; and two refutations, each from a state that the model evaluates. -/

namespace Sys2Proof.Machine

/-! ## A context that stands still -/

/-- From d to e nothing lands for context n of hemisphere h and none of its cycles passes: local store, accumulators and wedge
cells are kept, and the context stands in its cycle with the same effects on their way. -/
structure Dev.Still (h n : Nat) (d e : Dev) : Prop where
  ls : e.ls = d.ls
  accs : e.accs = d.accs
  cells : e.cells = d.cells
  cyc : (e.ctx h n).cyc = (d.ctx h n).cyc
  inflight : (e.ctx h n).inflight = (d.ctx h n).inflight

theorem Dev.Still.refl (h n : Nat) (d : Dev) : d.Still h n d := ⟨rfl, rfl, rfl, rfl, rfl⟩

theorem Dev.Still.trans {h n : Nat} {d e g : Dev} (a : d.Still h n e) (b : e.Still h n g) : d.Still h n g :=
  ⟨b.ls.trans a.ls, b.accs.trans a.accs, b.cells.trans a.cells, b.cyc.trans a.cyc, b.inflight.trans a.inflight⟩

theorem Dev.Still.of_noted {d e : Dev} (hn : d.Noted e) (h n : Nat) : d.Still h n e := by
  obtain ⟨s, hs⟩ := (hn.ctx h n).rest
  refine ⟨?_, ?_, ?_, by rw [hs], by rw [hs]⟩ <;> rw [hn.rest] <;> rfl

/-- Any context may be changed in what is neither its cycle nor on its way. -/
theorem Dev.still_setCtx (h n : Nat) (d : Dev) (h' n' : Nat) (y : Ctx) (hc : y.cyc = (d.ctx h' n').cyc)
    (hi : y.inflight = (d.ctx h' n').inflight) : d.Still h n (d.setCtx h' n' y) := by
  have key : ((d.setCtx h' n' y).ctx h n).cyc = (d.ctx h n).cyc ∧
      ((d.setCtx h' n' y).ctx h n).inflight = (d.ctx h n).inflight := by
    by_cases he : h * 8 + n = h' * 8 + n'
    · rw [Dev.ctx_key _ h' n' h n he, Dev.ctx_setCtx_same, Dev.ctx_key d h' n' h n he]
      exact ⟨hc, hi⟩
    · rw [Dev.ctx_setCtx_other d h' n' h n y he]
      exact ⟨rfl, rfl⟩
  exact ⟨rfl, rfl, rfl, key.1, key.2⟩

theorem Dev.still_passTime (h n : Nat) (d : Dev) (h' k : Nat) : d.Still h n (d.passTime h' k) := by
  unfold Dev.passTime
  refine forN_keeps (fun e => d.Still h n e) 8 _ d (Dev.Still.refl h n d) fun m e he => he.trans ?_
  dsimp only
  split
  · exact Dev.Still.refl h n e
  · exact e.still_setCtx h n h' m _ rfl rfl

theorem Dev.still_claims (h n : Nat) (d : Dev) (m : List (Nat × List Nat)) : d.Still h n { d with claims := m } :=
  ⟨rfl, rfl, rfl, rfl, rfl⟩

theorem Dev.still_setHemi (h n : Nat) (d : Dev) (h' : Nat) (x : HemiSt) : d.Still h n (d.setHemi h' x) :=
  ⟨rfl, rfl, rfl, rfl, rfl⟩

theorem Dev.still_aregs (h n : Nat) (d : Dev) (m : NatMap) : d.Still h n { d with aregs := m } := ⟨rfl, rfl, rfl, rfl, rfl⟩

theorem Dev.still_collide (h n : Nat) (d : Dev) (i : Issue) (bs : List BankAcc) : d.Still h n (d.collide i bs) := by
  unfold Dev.collide
  dsimp only
  have hc := forL_keeps (fun e => d.Still h n e) (accFacets bs)
    (fun f d => { d with claims := alPut d.claims f ((List.range (facetDepth bs f)).map fun t => claimMask bs f t) })
    d (.refl h n d) fun _ _ e he => he.trans (e.still_claims h n _)
  split
  · exact hc
  · refine Dev.Still.trans ?_ (.of_noted (Dev.noted_tfault _ _ _ _ _ _ _) h n)
    refine Dev.Still.trans ?_ (.of_noted (Dev.noted_countStall _ _ _ _) h n)
    refine Dev.Still.trans ?_ (.of_noted (Dev.noted_bump _ _ _) h n)
    exact (hc.trans (Dev.still_setHemi h n _ _ _)).trans (Dev.still_passTime h n _ _ _)

/-- The end of a cycle lands nothing. -/
theorem Work.still_close (h n : Nat) (w : Work) (i : Issue) (qs qb : Nat) : w.1.Still h n (w.close i qs qb) := by
  unfold Work.close
  dsimp only
  refine Dev.Still.trans ?_ (.of_noted (Dev.noted_forL _ _ _ fun r e => e.noted_record r) h n)
  refine Dev.Still.trans ?_ (.of_noted (Dev.noted_raise _ _ _) h n)
  refine Dev.Still.trans ?_ (Dev.still_setCtx h n _ _ _ _ rfl rfl)
  refine Dev.Still.trans ?_ (Dev.still_aregs h n _ _)
  refine Dev.Still.trans ?_ (.of_noted (Dev.noted_countBanks _ _) h n)
  exact (Dev.Still.of_noted (Dev.noted_quietFault _ _ _ _ _) h n).trans (Dev.still_collide h n _ _ _)

theorem Dev.still_hingeTime (h n : Nat) (d : Dev) (h' n' k : Nat) (adv : Bool) : d.Still h n (d.hingeTime h' n' k adv) := by
  unfold Dev.hingeTime
  dsimp only
  exact (Dev.Still.of_noted (d.noted_forL _ _ fun _ e => e.noted_tfault _ _ _ _ _ _) h n).trans
    (Dev.still_setCtx h n _ _ _ _ rfl rfl)

/-! ## The one effect of a context comes about -/

/-- The device with context n of hemisphere h in cycle `cyc`, with `l` on its way. -/
def Dev.place (d : Dev) (h n cyc : Nat) (l : List Delayed) : Dev := d.modCtx h n fun x => { x with cyc, inflight := l }

@[simp] theorem Dev.place_ls (d : Dev) (h n cyc : Nat) (l : List Delayed) : (d.place h n cyc l).ls = d.ls := rfl
@[simp] theorem Dev.place_accs (d : Dev) (h n cyc : Nat) (l : List Delayed) : (d.place h n cyc l).accs = d.accs := rfl
@[simp] theorem Dev.place_cells (d : Dev) (h n cyc : Nat) (l : List Delayed) : (d.place h n cyc l).cells = d.cells := rfl
@[simp] theorem Dev.place_ctx (d : Dev) (h n cyc : Nat) (l : List Delayed) :
    (d.place h n cyc l).ctx h n = { d.ctx h n with cyc, inflight := l } := Dev.ctx_setCtx_same ..

/-- A device that has kept the memories of d, with the context where it is placed. -/
theorem Dev.Still.of_place {h n : Nat} {d e : Dev} {cyc : Nat} {l : List Delayed} (hl : e.ls = d.ls) (ha : e.accs = d.accs)
    (hc : e.cells = d.cells) (hy : (e.ctx h n).cyc = cyc) (hi : (e.ctx h n).inflight = l) :
    (d.place h n cyc l).Still h n e :=
  ⟨hl, ha, hc, by simpa using hy, by simpa using hi⟩

/-- Effect `e`, due in cycle `due`, is all that lands between d and t, and the context's cycle then is `after`. -/
def Dev.Lands (h n due after : Nat) (e : Effect) (d t : Dev) : Prop :=
  ∃ (i : Issue) (u : Dev), i.h = h ∧ i.n = n ∧ (d.place h n after []).Still h n u ∧
    (landEffect i due e (u, {})).1.Still h n t

theorem Dev.Lands.still {h n due after : Nat} {e : Effect} {d t t' : Dev} (a : d.Lands h n due after e t)
    (b : t.Still h n t') : d.Lands h n due after e t' := by
  obtain ⟨i, u, hh, hn, hu, ht⟩ := a
  exact ⟨i, u, hh, hn, hu, ht.trans b⟩

/-- What `e` puts on its way as it lands is due later than it was. -/
def Effect.Clears (h n due : Nat) (e : Effect) : Prop :=
  ∀ (i : Issue) (u : Dev), i.h = h → i.n = n → (u.ctx h n).inflight = [] →
    ∀ x ∈ ((landEffect i due e (u, {})).1.ctx h n).inflight, due < x.due

theorem Dev.Lands.later {h n due after : Nat} {e : Effect} {d t : Dev} (a : d.Lands h n due after e t)
    (he : e.Clears h n due) : ∀ x ∈ (t.ctx h n).inflight, due < x.due := by
  obtain ⟨i, u, hh, hn, hu, ht⟩ := a
  rw [ht.inflight]
  exact he i u hh hn (by simpa using hu.inflight)

/-- The effects of one rank that are due in cycle c come about. -/
def landTurn (i : Issue) (c k : Nat) (w : Work) : Work :=
  forL (w.1.takeDue i.h i.n c k).1 (fun e w => landEffect i c e w) ((w.1.takeDue i.h i.n c k).2, w.2)

theorem landRanks_turns (i : Issue) (c lo hi : Nat) (w : Work) :
    landRanks i c lo hi w = forL ((List.range (hi + 1)).filter fun k => decide (lo ≤ k)) (landTurn i c) w := rfl

theorem Dev.takeDue_none {d : Dev} {h n c k : Nat} (hd : ∀ x ∈ (d.ctx h n).inflight, x.due = c → x.eff.rank ≠ k) :
    (d.takeDue h n c k).1 = [] ∧ d.Still h n (d.takeDue h n c k).2 := by
  have hp : ∀ x ∈ (d.ctx h n).inflight, (x.due == c && x.eff.rank == k) = false := fun x hx => by
    by_cases hc : x.due = c
    · simp [hc, hd x hx hc]
    · simp [hc]
  unfold Dev.takeDue
  refine ⟨?_, d.still_setCtx h n h n _ rfl ?_⟩
  · exact List.map_eq_nil_iff.2 (List.filter_eq_nil_iff.2 fun x hx => by rw [hp x hx]; decide)
  · exact List.filter_eq_self.2 fun x hx => by simp [hp x hx]

theorem landTurn_none {i : Issue} {c k : Nat} {w : Work}
    (hd : ∀ x ∈ (w.1.ctx i.h i.n).inflight, x.due = c → x.eff.rank ≠ k) :
    w.1.Still i.h i.n (landTurn i c k w).1 ∧ (landTurn i c k w).2 = w.2 := by
  obtain ⟨h1, h2⟩ := Dev.takeDue_none hd
  unfold landTurn
  rw [h1]
  exact ⟨h2, rfl⟩

theorem landTurns_none {i : Issue} {c : Nat} (l : List Nat) (w : Work)
    (hd : ∀ x ∈ (w.1.ctx i.h i.n).inflight, x.due = c → x.eff.rank ∉ l) :
    w.1.Still i.h i.n (forL l (landTurn i c) w).1 ∧ (forL l (landTurn i c) w).2 = w.2 := by
  refine forL_keeps (fun x : Work => w.1.Still i.h i.n x.1 ∧ x.2 = w.2) l _ w ⟨.refl _ _ _, rfl⟩ ?_
  rintro k hk x ⟨hx, hx2⟩
  have := landTurn_none (i := i) (c := c) (k := k) (w := x) fun y hy hc hr =>
    hd y (hx.inflight ▸ hy) hc (hr ▸ hk)
  exact ⟨hx.trans this.1, this.2.trans hx2⟩

theorem landTurn_sole {i : Issue} {c : Nat} {w : Work} {e : Effect} (hi : (w.1.ctx i.h i.n).inflight = [⟨c, e⟩]) :
    ∃ u, (w.1.place i.h i.n (w.1.ctx i.h i.n).cyc []).Still i.h i.n u ∧
      landTurn i c e.rank w = landEffect i c e (u, w.2) := by
  refine ⟨w.1.setCtx i.h i.n { w.1.ctx i.h i.n with inflight := [] }, .of_place rfl rfl rfl ?_ ?_, ?_⟩
  · rw [Dev.ctx_setCtx_same]
  · rw [Dev.ctx_setCtx_same]
  · simp [landTurn, Dev.takeDue, hi, forL]

theorem landRanks_sole {i : Issue} {c hi : Nat} {w : Work} {e : Effect} (hl : (w.1.ctx i.h i.n).inflight = [⟨c, e⟩])
    (hr : e.rank ≤ hi) (he : e.Clears i.h i.n c) (hw : w.2 = {}) :
    w.1.Lands i.h i.n c (w.1.ctx i.h i.n).cyc e (landRanks i c 0 hi w).1 := by
  have hsplit : (List.range (hi + 1)).filter (fun k => decide (0 ≤ k)) =
      List.range e.rank ++ e.rank :: (List.range (hi - e.rank)).map (e.rank + 1 + ·) := by
    rw [List.filter_eq_self.2 (by simp), show hi + 1 = e.rank + 1 + (hi - e.rank) by omega, List.range_add,
      List.range_succ, List.append_assoc]
    rfl
  rw [landRanks_turns, hsplit]
  unfold forL
  rw [List.foldl_append, List.foldl_cons]
  obtain ⟨h1, h2⟩ := landTurns_none (i := i) (c := c) (List.range e.rank) w (by simp [hl])
  unfold forL at h1 h2
  generalize (List.range e.rank).foldl (fun a b => landTurn i c b a) w = w1 at h1 h2 ⊢
  obtain ⟨u, hu, hturn⟩ := landTurn_sole (w := w1) (h1.inflight.trans hl)
  rw [hturn, h2, hw]
  have hlater := he i u rfl rfl (by simpa using hu.inflight)
  refine ⟨i, u, rfl, rfl, ?_, (landTurns_none _ _ fun x hx hc => absurd (hlater x hx) (by omega)).1⟩
  refine Dev.Still.trans ?_ hu
  exact .of_place h1.ls h1.accs h1.cells (by simpa using h1.cyc) (by simp)

/-! ## What is due before a cycle -/

theorem Ctx.nextDue_none {x : Ctx} {c : Nat} (hx : ∀ e ∈ x.inflight, c ≤ e.due) : x.nextDue c = none := by
  unfold Ctx.nextDue
  generalize x.inflight = l at hx
  induction l with
  | nil => rfl
  | cons e l ih =>
    rw [List.foldl_cons, if_pos (hx e List.mem_cons_self)]
    exact ih fun y hy => hx y (List.mem_cons_of_mem _ hy)

theorem Dev.settleN_none {d : Dev} {h n c : Nat} (hx : ∀ e ∈ (d.ctx h n).inflight, c ≤ e.due) (k : Nat) :
    Dev.settleN h n c k d = d := by
  cases k with
  | zero => rfl
  | succ k => rw [Dev.settleN, Ctx.nextDue_none hx]

theorem Dev.settle_none {d : Dev} {h n c : Nat} (hx : ∀ e ∈ (d.ctx h n).inflight, c ≤ e.due) : d.settle h n c = d :=
  Dev.settleN_none hx _

/-! ## Cycles in which a context idles -/

theorem Dev.Lands.of_still {h n due after cyc : Nat} {l : List Delayed} {e : Effect} {d d' t : Dev}
    (hd : (d.place h n cyc l).Still h n d') (a : d'.Lands h n due after e t) : d.Lands h n due after e t := by
  obtain ⟨i, u, hh, hn, hu, ht⟩ := a
  have hp : (d.place h n after []).Still h n (d'.place h n after []) :=
    .of_place hd.ls hd.accs hd.cells (by simp) (by simp)
  exact ⟨i, u, hh, hn, hp.trans hu, ht⟩

section

variable {d : Dev} {h n due : Nat} {e : Effect} (hl : (d.ctx h n).inflight = [⟨due, e⟩]) (hr : e.rank ≤ 4)
  (he : e.Clears h n due)

include hl hr he

theorem Dev.landCycle_sole : d.Lands h n due (d.ctx h n).cyc e (d.landCycle h n due) := by
  have key (i : Issue) (hh : i.h = h) (hn : i.n = n) :
      d.Lands h n due (d.ctx h n).cyc e (Work.close i 0 0 (landRanks i due 0 4 (d, {}))) := by
    subst hh hn
    exact (landRanks_sole (w := (d, {})) hl hr he rfl).still (Work.still_close _ _ _ _ _ _)
  exact key _ rfl rfl

theorem Dev.settle_sole : d.Lands h n due (d.ctx h n).cyc e (d.settle h n (due + 1)) := by
  have hland := Dev.landCycle_sole hl hr he
  have hnext : (d.ctx h n).nextDue (due + 1) = some due := by simp [Ctx.nextDue, hl]
  have hset : d.settle h n (due + 1) = d.landCycle h n due := by
    unfold Dev.settle
    rw [hl, List.length_singleton, Dev.settleN, hnext]
    exact Dev.settleN_none (hland.later he) _
  rw [hset]
  exact hland

/-- The cycles of a wait on a fill bit or a deadline fence, up to the one after the effect. -/
theorem Dev.waitCycles_sole {k : Nat} (hk : (d.ctx h n).cyc + k = due + 1) :
    d.Lands h n due (due + 1) e (d.waitCycles h n k) := by
  have hcounted (why : Nat → Bool) :
      d.Still h n (((d.hingeTime h n k false).dropClaims (d.ctx h n).part h).countCtx h n 3 why k) :=
    ((d.still_hingeTime h n h n k false).trans (Dev.still_claims h n _ _)).trans
      (.of_noted (Dev.noted_countCtx _ _ _ _ _ _) h n)
  unfold Dev.waitCycles
  dsimp only
  generalize hg : Dev.countCtx _ h n 3 _ k = g
  have hs : d.Still h n g := hg ▸ hcounted _
  generalize hm : g.modCtx h n _ = m
  have hmc : m.ctx h n = { g.ctx h n with
      cyc := (g.ctx h n).cyc + k,
      tclk := (g.ctx h n).tclk + if g.countsRun (d.ctx h n).part then k else 0 } := by
    rw [← hm]
    exact Dev.ctx_setCtx_same ..
  have hcyc : (m.ctx h n).cyc = due + 1 := by rw [hmc, ← hk, ← hs.cyc]
  have hinf : (m.ctx h n).inflight = [⟨due, e⟩] := by rw [hmc, ← hl, ← hs.inflight]
  have hplace : (d.place h n (due + 1) [⟨due, e⟩]).Still h n m := by
    subst hm
    exact .of_place hs.ls hs.accs hs.cells hcyc hinf
  have := Dev.settle_sole hinf hr he
  rw [hcyc] at this ⊢
  exact this.of_still hplace

theorem Dev.idleCycles_settle_sole {k : Nat} (hk : (d.ctx h n).cyc + k = due + 1) :
    d.Lands h n due (due + 1) e ((d.idleCycles h n k).settle h n (due + 1)) := by
  unfold Dev.idleCycles
  split
  case h_1 r hroom =>
    have hphase : (d.ctx h n).phase ≠ .fenceWait := fun hf => by simp [Ctx.idleRoom, hf] at hroom
    have hwait : d.Lands h n due (due + 1) e (d.waitOn h n k) := by
      unfold Dev.waitOn
      dsimp only
      rw [if_neg hphase]
      exact (Dev.waitCycles_sole hl hr he hk).still (Dev.still_setCtx h n _ h n _ rfl rfl)
    rwa [Dev.settle_none fun x hx => hwait.later he x hx]
  case h_2 =>
    have hcyc : ((d.modCtx h n fun x => x.run k).ctx h n).cyc = due + 1 := by
      rw [Dev.modCtx, Dev.ctx_setCtx_same]; exact hk
    have hinf : ((d.modCtx h n fun x => x.run k).ctx h n).inflight = [⟨due, e⟩] := by
      rw [Dev.modCtx, Dev.ctx_setCtx_same]; exact hl
    have hplace : (d.place h n (due + 1) [⟨due, e⟩]).Still h n (d.modCtx h n fun x => x.run k) :=
      .of_place rfl rfl rfl hcyc hinf
    have hland := Dev.settle_sole hinf hr he
    rw [hcyc] at hland
    exact hland.of_still hplace

end

/-- What the next effect of a kind does where it is the only one on its way. -/
theorem Dev.landNext_sole {d : Dev} {c : CtxId} {due : Nat} {e : Effect} {p : Effect → Bool} (hp : p e = true)
    (hl : (d.ctx c.h.val c.n.val).inflight = [⟨due, e⟩]) :
    d.landNext c p =
      (let x := d.ctx c.h.val c.n.val
       if x.idles then
         if x.idleRoom.any fun r => decide (r < due + 1 - x.cyc) then d
         else (d.idleCycles c.h.val c.n.val (due + 1 - x.cyc)).settle c.h.val c.n.val (due + 1)
       else if due ≤ x.cyc then
         let d := d.settle c.h.val c.n.val due
         (landRanks { d.issueOf c with cyc := due } due 0 0 (d, {})).close (d.issueOf c) 0 0
       else d) := by
  have hdue : ((d.ctx c.h.val c.n.val).inflight.filter fun e => p e.eff).map Delayed.due = [due] := by simp [hl, hp]
  unfold Dev.landNext
  dsimp only
  rw [hdue]
  rfl

/-- A context lets the cycles up to `due` pass, as far as its wait has room for them. -/
def Ctx.LetsPass (x : Ctx) (due after : Nat) : Prop :=
  x.idles = true ∧ after = due + 1 ∧ x.cyc ≤ due ∧ ∀ r, x.idleRoom = some r → due + 1 - x.cyc ≤ r

/-- A context is about to issue in cycle `due`. -/
def Ctx.IssuesIn (x : Ctx) (due after : Nat) : Prop := x.idles = false ∧ after = due ∧ x.cyc = due

/-- Where the context idles, the cycles up to the effect pass and it lands. -/
theorem Dev.landNext_letsPass {d : Dev} {c : CtxId} {due after : Nat} {e : Effect} {p : Effect → Bool} (hp : p e = true)
    (hl : (d.ctx c.h.val c.n.val).inflight = [⟨due, e⟩]) (hr : e.rank ≤ 4) (he : e.Clears c.h.val c.n.val due)
    (h : (d.ctx c.h.val c.n.val).LetsPass due after) : d.Lands c.h.val c.n.val due after e (d.landNext c p) := by
  obtain ⟨hidle, rfl, hc, hroom⟩ := h
  have hany : ((d.ctx c.h.val c.n.val).idleRoom.any fun r => decide (r < due + 1 - (d.ctx c.h.val c.n.val).cyc)) = false := by
    cases h : (d.ctx c.h.val c.n.val).idleRoom with
    | none => rfl
    | some r => simpa using hroom r h
  have := Dev.idleCycles_settle_sole hl hr he (k := due + 1 - (d.ctx c.h.val c.n.val).cyc) (by omega)
  rw [Dev.landNext_sole hp hl]
  dsimp only
  rwa [if_pos hidle, hany]

/-- Where the context is about to issue in the cycle of an effect that does not reach local store, it comes about there. -/
theorem Dev.landNext_issuesIn {d : Dev} {c : CtxId} {due after : Nat} {e : Effect} {p : Effect → Bool} (hp : p e = true)
    (hl : (d.ctx c.h.val c.n.val).inflight = [⟨due, e⟩]) (hr : e.rank = 0) (he : e.Clears c.h.val c.n.val due)
    (h : (d.ctx c.h.val c.n.val).IssuesIn due after) : d.Lands c.h.val c.n.val due after e (d.landNext c p) := by
  obtain ⟨hidle, hafter, hc⟩ := h
  rw [hafter]
  have hset : d.settle c.h.val c.n.val due = d := Dev.settle_none (by simp [hl])
  have hland := (landRanks_sole (i := { d.issueOf c with cyc := due }) (w := (d, {})) (hi := 0) hl (by omega) he rfl).still
    (Work.still_close _ _ _ (d.issueOf c) 0 0)
  have hcyc : (d.ctx (d.issueOf c).h (d.issueOf c).n).cyc = due := hc
  rw [Dev.landNext_sole hp hl]
  dsimp only
  rw [hidle, if_neg (by decide), hc, if_pos (Nat.le_refl due), hset]
  rw [hcyc] at hland
  exact hland

theorem Dev.landNext_lands {d : Dev} {c : CtxId} {due after : Nat} {e : Effect} {p : Effect → Bool} (hp : p e = true)
    (hl : (d.ctx c.h.val c.n.val).inflight = [⟨due, e⟩]) (hr : e.rank = 0) (he : e.Clears c.h.val c.n.val due)
    (h : (d.ctx c.h.val c.n.val).LetsPass due after ∨ (d.ctx c.h.val c.n.val).IssuesIn due after) :
    d.Lands c.h.val c.n.val due after e (d.landNext c p) :=
  h.elim (Dev.landNext_letsPass hp hl (by omega) he) (Dev.landNext_issuesIn hp hl hr he)

/-! ## The effects of the prism and the wedge -/

/-- An integer K-step counts as landed and adds its products (R116). -/
theorem AccSet.landStep_int (d : Dev) (a : AccSet) {s : KStep} (hs : intPair s.fa s.fb = true) (l : Nat) :
    AccSet.landStep d a s l = (d, { a with kcnt := a.kcnt + 1 }.addInt s, []) := by
  unfold AccSet.landStep
  exact if_pos hs

/-- The set after one integer K-step and the clear before it, if there is one (R114). -/
def AccSet.intLanded (a : AccSet) (clr : Bool) (k : KStep) : AccSet :=
  { (if clr then a.clear else a) with kcnt := (if clr then a.clear else a).kcnt + 1 }.addInt k

theorem landEffect_product (i : Issue) (due f : Nat) (set clr : Bool) {k : KStep} (hk : intPair k.fa k.fb = true) (l : Nat)
    (site : NevSite) (read : List NevHit) (u : Dev) :
    (landEffect i due (.product f set clr [k] l site read) (u, {})).1 =
      u.setAcc f set ((u.acc f set).intLanded clr k) := by
  simp only [landEffect, Work.hit_dev, Dev.landProduct, forL, List.foldl_cons, List.foldl_nil, AccSet.landStep_int _ _ hk]
  rfl

theorem Effect.product_clears (h n due f : Nat) (set clr : Bool) {k : KStep} (hk : intPair k.fa k.fb = true) (l : Nat)
    (site : NevSite) (read : List NevHit) : (Effect.product f set clr [k] l site read).Clears h n due := by
  intro i u _ _ hu x hx
  rw [landEffect_product i due f set clr hk] at hx
  rw [show ((u.setAcc f set _).ctx h n).inflight = [] from hu] at hx
  cases hx

/-- A loop that puts a value in front for each element and leaves its device alone. -/
theorem forL_collect {α β γ δ : Type} (f : α → γ) (step : α → β × List γ × δ → β × List γ × δ)
    (hstep : ∀ a x, (step a x).1 = x.1 ∧ (step a x).2.1 = f a :: x.2.1) (l : List α) (x : β × List γ × δ) :
    (forL l step x).1 = x.1 ∧ (forL l step x).2.1 = (l.map f).reverse ++ x.2.1 := by
  induction l generalizing x with
  | nil => exact ⟨rfl, rfl⟩
  | cons a l ih =>
    obtain ⟨h1, h2⟩ := ih (step a x)
    obtain ⟨s1, s2⟩ := hstep a x
    refine ⟨h1.trans s1, h2.trans ?_⟩
    rw [s2]
    simp

/-- The code of element (r, n) of a drain that draws nothing. -/
def DrainJob.code (j : DrainJob) (r n : Nat) : Nat :=
  (convert j.ofmt .even (bit j.flags 3) (readF32 (j.value r n).1).1).code

theorem Dev.drainRow_unsto (d : Dev) {j : DrainJob} (hj : bits j.flags 5 4 ≠ 1) (r : Nat) :
    (d.drainRow j r).1 = d ∧ (d.drainRow j r).2.1 = (List.range 128).map (j.code r) := by
  have hsto : (bits j.flags 5 4 == 1) = false := beq_eq_false_iff_ne.2 hj
  unfold Dev.drainRow
  dsimp only
  simp only [hsto, Bool.false_eq_true, if_false]
  generalize List.range 128 = l
  generalize hx : forL l _ _ = x
  obtain ⟨h1, h2⟩ : x.1 = d ∧ x.2.1 = (l.map (j.code r)).reverse ++ [] := by
    rw [← hx]
    refine forL_collect (j.code r) _ ?_ l (d, [], [])
    exact fun _ _ => ⟨rfl, rfl⟩
  exact ⟨h1, by rw [h2, List.append_nil, List.reverse_reverse]⟩

/-- The bytes of row r of a drain that draws nothing, at their addresses. -/
def DrainJob.rowBytesAt (j : DrainJob) (r : Nat) : List (Nat × Byte) :=
  placeBytes (j.rowAddr r) (packBytes (fmtBits j.ofmt) ((List.range 128).map (j.code r)))

/-- A row but the last leaves its bytes, and the next row due in the next cycle. -/
theorem landEffect_drainRow (i : Issue) (due : Nat) {j : DrainJob} (hj : bits j.flags 5 4 ≠ 1) {r : Nat} (hr : r < 127)
    (u : Dev) : ∃ seen, (landEffect i due (.drainRow j r) (u, {})).1 =
      ((u.lsWrite j.facet (j.rowBytesAt r)).countFacet j.facet 5 noSub 1).later i.h i.n (due + 1)
        (.drainRow { j with seen } (r + 1)) := by
  obtain ⟨h1, h2⟩ := u.drainRow_unsto hj r
  unfold landEffect landRow
  dsimp only
  rw [if_pos hr, h1, h2, Work.dev, Work.hit_dev, touch_dev]
  exact ⟨_, rfl⟩

theorem Dev.later_ctx (d : Dev) (h n due : Nat) (e : Effect) :
    (d.later h n due e).ctx h n = { d.ctx h n with inflight := (d.ctx h n).inflight ++ [⟨due, e⟩] } :=
  Dev.ctx_setCtx_same ..

theorem Dev.countFacet_inflight (d : Dev) (f evt : Nat) (sub : Nat → Bool) (k h n : Nat) :
    ((d.countFacet f evt sub k).ctx h n).inflight = (d.ctx h n).inflight :=
  (Dev.Still.of_noted (d.noted_countFacet f evt sub k) h n).inflight

theorem Effect.drainRow_clears (h n due : Nat) {j : DrainJob} (hj : bits j.flags 5 4 ≠ 1) {r : Nat} (hr : r < 127) :
    (Effect.drainRow j r).Clears h n due := by
  rintro i u rfl rfl hu x hx
  obtain ⟨seen, hland⟩ := landEffect_drainRow i due hj hr u
  rw [hland, Dev.later_ctx, Dev.countFacet_inflight, show ((u.lsWrite j.facet _).ctx i.h i.n).inflight = [] from hu] at hx
  obtain rfl := List.mem_singleton.1 hx
  exact Nat.lt_succ_self due

/-- The cell whose one tile has been finished with the codes `out`. -/
theorem Dev.wedgeReady_sole {d : Dev} {f : Nat} {w : WedgeTile} (ht : (d.cell f).tiles = [w]) (hw : w.out = []) :
    (d.wedgeReady f).1 = d.setCell f { d.cell f with tiles := [{ w with out := (d.wedgeOut f w).1 }] } := by
  simp [Dev.wedgeReady, ht, hw]

theorem landEffect_wedgeReady (i : Issue) (due f : Nat) (u : Dev) :
    (landEffect i due (.wedgeReady f) (u, {})).1 = (u.wedgeReady f).1 := rfl

theorem Dev.wedgeReady_ctx (d : Dev) (f h n : Nat) : (d.wedgeReady f).1.ctx h n = d.ctx h n := by
  unfold Dev.wedgeReady
  dsimp only
  split <;> rfl

theorem Effect.wedgeReady_clears (h n due f : Nat) : (Effect.wedgeReady f).Clears h n due := by
  rintro i u rfl rfl hu x hx
  rw [landEffect_wedgeReady, Dev.wedgeReady_ctx, hu] at hx
  cases hx

/-- The outputs of a tile are computed from local store alone. -/
theorem Dev.wedgeOut_of_ls {d e : Dev} (h : e.ls = d.ls) (f : Nat) (w : WedgeTile) : e.wedgeOut f w = d.wedgeOut f w := by
  have hb : e.lsByte = d.lsByte := by
    funext g a
    rw [Dev.lsByte, Dev.lsByte, h]
  have hv : e.wedgeVec = d.wedgeVec := by
    funext g v off b
    rw [Dev.wedgeVec, Dev.wedgeVec, hb]
  rw [Dev.wedgeOut, Dev.wedgeOut, hv]

/-- Where one context alone has the pass of facet f on its way, it finishes it. -/
theorem Dev.ctxOfFacet_sole {d : Dev} {f : FacetN} {c : CtxId} (hf : f.val / 128 = c.h.val)
    (honly : ∀ n, n < 8 → n ≠ c.n.val → (d.ctx c.h.val n).inflight = []) {due : Nat}
    (hl : (d.ctx c.h.val c.n.val).inflight = [⟨due, .wedgeReady f.val⟩]) : d.ctxOfFacet f.val = some c := by
  have hc : (⟨⟨f.val / 128 % 2, Nat.mod_lt _ (by decide)⟩, ⟨c.n.val % 8, Nat.mod_lt _ (by decide)⟩⟩ : CtxId) = c := by
    obtain ⟨⟨a, ha⟩, ⟨n, hn⟩⟩ := c
    simp only at hf
    simp only [hf, Nat.mod_eq_of_lt ha, Nat.mod_eq_of_lt hn]
  rw [← hf] at honly hl
  unfold Dev.ctxOfFacet
  cases hfind : List.findSome? _ _ with
  | none =>
    have := List.findSome?_eq_none_iff.1 hfind c.n.val (List.mem_range.2 c.n.isLt)
    simp [hl] at this
  | some b =>
    obtain ⟨n, hn, hb⟩ := List.exists_of_findSome?_eq_some hfind
    by_cases hne : n = c.n.val
    · subst hne
      rw [if_pos (by simp [hl])] at hb
      rw [← hb, hc]
    · simp [honly n (List.mem_range.1 hn) hne] at hb

end Sys2Proof.Machine

namespace Sys2Proof

open Machine

/-! ## Landings (R22, R68, R114, R116, R158) -/

section

variable {st : State} {c : CtxId} {due after : Nat}

theorem exec_productLand (hrail : st.dev.sys.railsUp = true) :
    exec (.productLand c) st = .next (withDev st (st.dev.landNext c Effect.isProduct)) :=
  st.act_eq (fun d => d.landNext c Effect.isProduct) hrail

theorem exec_drainRowWrite (hrail : st.dev.sys.railsUp = true) :
    exec (.drainRowWrite c) st = .next (withDev st (st.dev.landNext c Effect.isDrainRow)) :=
  st.act_eq (fun d => d.landNext c Effect.isDrainRow) hrail

theorem exec_wedgePassReady (hrail : st.dev.sys.railsUp = true) {f : FacetN} (hc : st.dev.ctxOfFacet f.val = some c) :
    exec (.wedgePassReady f) st = .next (withDev st (st.dev.landNext c fun e => e == .wedgeReady f.val)) := by
  change execWedgePassReady f st = _
  unfold execWedgePassReady
  rw [st.act_eq _ hrail, hc]
  rfl

theorem productLand_lands (hrail : st.dev.sys.railsUp = true) {f : Nat} {set clr : Bool} {k : KStep} {l : Nat}
    {site : NevSite} {hs : List NevHit} (hk : intPair k.fa k.fb = true)
    (hl : (st.dev.ctx c.h.val c.n.val).inflight = [⟨due, .product f set clr [k] l site hs⟩])
    (h : (st.dev.ctx c.h.val c.n.val).LetsPass due after ∨ (st.dev.ctx c.h.val c.n.val).IssuesIn due after) :
    ∃ t, exec (.productLand c) st = .next t ∧ t.pending = st.pending ∧ cycleOf t.dev c = after ∧
      (t.dev.ctx c.h.val c.n.val).inflight = [] ∧
      t.dev.accs = alSet AccSet.zero st.dev.accs (f * 2 + b2n set) ((st.dev.acc f set).intLanded clr k) := by
  obtain ⟨i, u, -, -, hu, ht⟩ := Dev.landNext_lands (p := Effect.isProduct) rfl hl rfl
    (Effect.product_clears _ _ _ _ _ _ hk _ _ _) h
  rw [landEffect_product _ _ _ _ _ hk] at ht
  have hacc : u.acc f set = st.dev.acc f set := by rw [Dev.acc, hu.accs]; rfl
  refine ⟨_, exec_productLand hrail, rfl, ?_, ?_, ?_⟩
  · exact (ht.cyc.trans hu.cyc).trans (by simp)
  · exact (ht.inflight.trans hu.inflight).trans (by simp)
  · refine ht.accs.trans ?_
    rw [Dev.setAcc, hacc, hu.accs]
    rfl

theorem drainRowWrite_lands (hrail : st.dev.sys.railsUp = true) {j : DrainJob} {r : Nat} (hr : r < 127)
    (hj : bits j.flags 5 4 ≠ 1) (hl : (st.dev.ctx c.h.val c.n.val).inflight = [⟨due, .drainRow j r⟩])
    (h : (st.dev.ctx c.h.val c.n.val).LetsPass due after) :
    ∃ t, exec (.drainRowWrite c) st = .next t ∧ t.pending = st.pending ∧ cycleOf t.dev c = after ∧
      (∃ seen, onItsWay t.dev c (due + 1) (.drainRow { j with seen } (r + 1))) ∧
      t.dev.ls = (st.dev.lsWrite j.facet (j.rowBytesAt r)).ls := by
  obtain ⟨i, u, hh, hn, hu, ht⟩ := Dev.landNext_letsPass (p := Effect.isDrainRow) rfl hl (by decide : (2 : Nat) ≤ 4)
    (Effect.drainRow_clears _ _ _ hj hr) h
  obtain ⟨seen, hland⟩ := landEffect_drainRow i due hj hr u
  rw [hland, hh, hn] at ht
  have hnoted := (u.lsWrite j.facet (j.rowBytesAt r)).noted_countFacet j.facet 5 noSub 1
  have hw := Dev.Still.of_noted hnoted c.h.val c.n.val
  refine ⟨_, exec_drainRowWrite hrail, rfl, ?_, ⟨seen, ?_⟩, ?_⟩
  · refine ht.cyc.trans ?_
    rw [Dev.later_ctx]
    exact (hw.cyc.trans hu.cyc).trans (by simp)
  · change _ ∈ ((st.dev.landNext c Effect.isDrainRow).ctx c.h.val c.n.val).inflight
    rw [ht.inflight, Dev.later_ctx]
    exact List.mem_append_right _ (List.mem_singleton_self _)
  · refine ht.ls.trans (hw.ls.trans ?_)
    rw [Dev.lsWrite, hu.ls]
    rfl

theorem wedgePassReady_lands (hrail : st.dev.sys.railsUp = true) {f : FacetN} {w : WedgeTile} (hf : f.val / 128 = c.h.val)
    (honly : ∀ n, n < 8 → n ≠ c.n.val → (st.dev.ctx c.h.val n).inflight = [])
    (hl : (st.dev.ctx c.h.val c.n.val).inflight = [⟨due, .wedgeReady f.val⟩])
    (h : (st.dev.ctx c.h.val c.n.val).LetsPass due after ∨ (st.dev.ctx c.h.val c.n.val).IssuesIn due after)
    (ht : (st.dev.cell f.val).tiles = [w]) (hw : w.out = []) :
    ∃ t, exec (.wedgePassReady f) st = .next t ∧ t.pending = st.pending ∧ cycleOf t.dev c = after ∧
      (t.dev.cell f.val).tiles = [{ w with out := (st.dev.wedgeOut f.val w).1 }] := by
  obtain ⟨i, u, hh, hn, hu, hland⟩ := Dev.landNext_lands (p := fun e => e == .wedgeReady f.val) (by simp) hl rfl
    (Effect.wedgeReady_clears _ _ _ _) h
  have hcell : u.cell f.val = st.dev.cell f.val := by rw [Dev.cell, hu.cells]; rfl
  rw [landEffect_wedgeReady] at hland
  refine ⟨_, exec_wedgePassReady hrail (Dev.ctxOfFacet_sole hf honly hl), rfl, ?_, ?_⟩
  · refine hland.cyc.trans ?_
    rw [Dev.wedgeReady_ctx]
    exact hu.cyc.trans (by simp)
  · change (alGet WedgeCell.idle (st.dev.landNext c _).cells f.val).tiles = _
    rw [hland.cells, Dev.wedgeReady_sole (hcell ▸ ht) hw, Dev.setCell, alGet_alSet_same,
      Dev.wedgeOut_of_ls (d := st.dev) hu.ls]

end

/-- Settles O13: the effect is the only one on its way, so the cycles that pass land it and nothing else. -/
theorem landingsOfThePrismAndTheWedge : Obligations.LandingsOfThePrismAndTheWedge := by
  intro st c due after hrail
  refine ⟨fun f set clr k l site hs hk hl h => productLand_lands hrail hk hl h, fun j r hr hj hl h =>
    drainRowWrite_lands hrail hr hj hl h, ?_⟩
  rintro f w cell hf honly hl h rfl ht hw
  exact wedgePassReady_lands hrail hf honly hl h ht hw

/-! ## A partition number beyond 15 (R27)

PRT_CFG of a partition p stands at 0x110000 + 0x100 p, which for p = 0x7001 is the place of MEM_CE of stack 0, channel 0. The
16 partitions never reach it; a number that nothing bounds does. -/

/-- A write of byte 1 of rim memory that has been read and is in the span queue. -/
def mergeRequest : Request where
  id := 0
  tag := 0
  kind := .copy
  pieces := [{ src := lsView 0, dsts := [1], len := 1, rd := 1, got := [(0, 7)], span := true }]
  cut := true
  allocate := false
  failed := false
  bidx := 0
  list := none

/-- The token of number 0x7001 that goes with that write. -/
def strayToken : SpanToken where
  src := ⟨1, 0⟩
  part := 0x7001
  tsid := 3
  bidx := 0
  sent := 0

/-- A device whose granule 0 has one symbol to correct, with the write and the token under way to hemisphere 0. -/
def strayDev : Dev :=
  (((Dev.reset.setReg (rPrtCfg 0x7001) 1).setErrs 0 [(5, 1)]).setCtx 0 0
    { Ctx.absent with part := 0x7001, requests := [mergeRequest] }).setSpanTo 0
      [{ tokens := [strayToken], data := [(0, lsView 0)] }]

/-- The write merges into granule 0 and corrects it, which counts in MEM_CE: number 0x7001 now holds sector 1 in place of
sector 0, and its token finds no context. -/
theorem strayDev_holds_no_token :
    ∃ t, exec (.spanTokenArrive 0) ⟨strayDev, []⟩ = .next t ∧ (t.dev.ctx 0 0).tokens = [] :=
  ⟨_, rfl, by decide +kernel⟩

/-- Refutes O17: its clause on a token below the 16th bounds no partition number, and data that arrives before the token can
change the register in which a number beyond 15 finds its sectors. -/
theorem not_spanTokensAndFences : ¬ Obligations.SpanTokensAndFences := by
  intro h
  obtain ⟨harrive, -⟩ := h ⟨strayDev, []⟩ ⟨0, 0⟩ rfl
  obtain ⟨t, ht, -, -, hheld, -⟩ := harrive _ [] strayToken rfl rfl (by decide +kernel) rfl
  obtain ⟨t', ht', hnone⟩ := strayDev_holds_no_token
  obtain rfl := Host.Outcome.next.inj (ht.symm.trans ht')
  have hone : (t.dev.ctx 0 0).tokens = NatMap.set (strayDev.ctx 0 0).tokens 3 1 := (hheld (by decide +kernel)).1
  exact absurd (hnone.symm.trans hone) (by decide +kernel)

/-! ## What comes about before a stall of the prism's order (R21, R23) -/

/-- A device whose context stands in cycle 100 before a DRAIN of set A (bit 65) in facet 3 (bit 451), whose product is due in
that cycle; two stores to bank 0 of the facet, due in cycle 99, have not come about. -/
def collidingDev : Dev :=
  { ((Dev.reset.setReg (rPrtCfg 0) (2 ^ 63 + 1)).setReg (rPrtState 0) (2 ^ 27)).setCtx 0 0
      { Ctx.absent with
        state := .running
        phase := .issuing
        cyc := 100
        inflight := [⟨99, .store 3 4 0 0 1 []⟩, ⟨99, .store 3 4 0 (48 * 64) 1 []⟩,
          ⟨100, .product 3 false false [] 0 ⟨0, 3, 0, 0, 0, 0⟩ []⟩] }
    with istore := [(0, 2 ^ 451 + 2 ^ 65)] }

/-- The order leaves one cycle to wait, in facet 3. -/
theorem collidingDev_holds :
    let d := collidingDev.settle 0 0 100
    d.prismHolds ⟨0, 0⟩ (d.issueOf ⟨0, 0⟩) (d.bundle 0 0) = [(3, 1)] ∧ d.countsRun 0 = true := by decide +kernel

/-- The stores collide as they come about: a stall cycle of R21 passes beside the one of the order. -/
theorem collidingDev_tclk : ∃ t, exec (.prismOrderStall ⟨0, 0⟩ 3) ⟨collidingDev, []⟩ = .next t ∧ (t.dev.ctx 0 0).tclk = 2 :=
  ⟨_, rfl, by decide +kernel⟩

/-- Refutes O18: the count of R28 after a stall of the prism's order also holds the stall cycles of what came about before it,
which the clause on PRISM_ORDER_STALL leaves out. -/
theorem not_lateFencesAndFills : ¬ Obligations.LateFencesAndFills := by
  intro h
  obtain ⟨-, -, -, hstall⟩ := h ⟨collidingDev, []⟩ ⟨0, 0⟩ rfl (by decide +kernel)
  obtain ⟨hholds, hrun⟩ := collidingDev_holds
  obtain ⟨t, ht, -, -, -, -, htclk, -⟩ := hstall 3 1 (.inl rfl) (hholds ▸ List.mem_singleton_self _)
  obtain ⟨t', ht', h2⟩ := collidingDev_tclk
  obtain rfl := Host.Outcome.next.inj (ht.symm.trans ht')
  exact absurd (h2.symm.trans (htclk hrun)) (by decide +kernel)

end Sys2Proof

/-! PROOFS (02_scangathen_bundle.md, family of the bundles): loading and starting programs. -/

namespace Sys2Proof.Machine

/-! ## What commands on programs do to a partition that holds its facets (R52, R54) -/

theorem Dev.onPart_valid {d : Dev} {c : FetchedCmd} (hp : c.part < 16) (hv : d.partValid c.part = true) (f : Dev → Dev) :
    d.onPart c f = f d := by
  simp [Dev.onPart, hp, hv]

theorem Dev.withImage_live {d : Dev} {p : Nat} (hl : d.live p = true) (f : Dev → Dev) : d.withImage p f = f d := by
  simp [Dev.withImage, hl]

/-- The device with images in place of the programs of p. -/
def Dev.putImages (d : Dev) (p : Nat) (images : List (List Byte)) : Dev :=
  let d := forL ((d.ctxsOf p).zip images) (fun x (d : Dev) => d.writeImage x.1.1 x.1.2 (parseImage x.2)) d
  d.setPsv p { d.psvOf p with programs := images.map Config.sha256 }

theorem Dev.load_passes {d : Dev} {c : FetchedCmd} {images : List (List Byte)} (hl : d.live c.part = true)
    (hb : d.busyCtx c.part = none) (hc : d.checkImages c.part images = none) (next : Dev → Dev) :
    d.load c images next = next (d.putImages c.part images) := by
  unfold Dev.load
  dsimp only
  rw [hb, hc]
  dsimp only
  rw [Dev.withImage_live hl]
  rfl

theorem Dev.load_invalid {d : Dev} {c : FetchedCmd} {images : List (List Byte)} {n reason bidx place : Nat}
    (hb : d.busyCtx c.part = none) (hc : d.checkImages c.part images = some (n, reason, bidx, place)) (next : Dev → Dev) :
    d.load c images next = d.fail c 0x5 (detail place bidx n 0 reason) := by
  unfold Dev.load
  dsimp only
  rw [hb, hc]

/-- The programs of p started, with what their command waits for. -/
def Dev.startPrograms (d : Dev) (w : ProgramWait) : Dev :=
  let d := forL (d.ctxsOf w.p) (fun x (d : Dev) => d.startCtx x.1 x.2) d
  ({ d with hq := { d.hq with programs := d.hq.programs ++ [w] } } : Dev).claimFacets w.p

theorem Dev.startProgram_quiet {d : Dev} {c : FetchedCmd} (hl : d.live c.part = true) (hq : d.quiet c.part = true)
    (leaves : List (Nat × Byte)) (counters : List (Nat × Nat)) :
    d.startProgram c leaves counters = d.startPrograms { seq := c.seq, p := c.part, leaves, counters } := by
  unfold Dev.startProgram
  dsimp only
  rw [hq, Bool.not_true, if_neg Bool.false_ne_true, Dev.withImage_live hl]
  rfl

/-- What KERNEL_RUN does with what its profile builds (R276). -/
def kernelActs (c : FetchedCmd) (d : Dev) : Built → Dev
  | .error i => d.param c i
  | .ok k =>
    if bit (leAt c.entry 0x20 1) 0 then
      ({ d with hostMem := d.hostMem.write (leAt c.entry 0x28 8) (Config.kernelImages k.steps (d.sectors c.part)).flatten } : Dev).done c
    else
      ({ d with fresh := d.fresh + k.leaves.length } : Dev).load c (Config.kernelImages k.steps (d.sectors c.part))
        fun d => d.startProgram c k.leaves k.counters

/-- With bit 0 of byte 0x20 the images go to the host. -/
theorem kernelActs_sends {c : FetchedCmd} {d : Dev} {k : Kernel} (hbit : bit (leAt c.entry 0x20 1) 0 = true) :
    kernelActs c d (.ok k) =
      ({ d with hostMem := d.hostMem.write (leAt c.entry 0x28 8) (Config.kernelImages k.steps (d.sectors c.part)).flatten } : Dev).done c :=
  if_pos hbit

theorem kernelActs_loads {c : FetchedCmd} {d : Dev} {k : Kernel} (hbit : bit (leAt c.entry 0x20 1) 0 = false) :
    kernelActs c d (.ok k) = ({ d with fresh := d.fresh + k.leaves.length } : Dev).load c
      (Config.kernelImages k.steps (d.sectors c.part)) fun d => d.startProgram c k.leaves k.counters :=
  if_neg (by simp [hbit])

end Sys2Proof.Machine

namespace Sys2Proof

open Machine

section

variable {st : State} {q : QueueN} {c : FetchedCmd} {e : Dev} (hr : st.dev.sys.railsUp = true)

include hr

theorem exec_clearTfault (h : Accepted st.dev q 0x103 [.num 1] c e) (hh : (c.params [.num 1]).at 0 < 2) :
    exec (.clearTfault q) st = .next (withDev st ((((e.setFlag (rSeqTfaultCap ((c.params [.num 1]).at 0)) 63 false).setFlag
      (rSeqTfault ((c.params [.num 1]).at 0)) 31 false).setFlag (rSeqCollide ((c.params [.num 1]).at 0)) 31 false).done
      (began c))) := by
  refine h.act_eq hr _ _ (firstBad_eq_none.2 ?_)
  simp only [List.mem_singleton, forall_eq, decide_eq_false_iff_not]
  omega

variable (hp : c.part < 16) (hv : e.partValid c.part = true)

include hp hv

theorem exec_loadProgram {images : List (List Byte)} (hl : e.live c.part = true) (h : Accepted st.dev q 0x101 [.list [8]] c e)
    (hn : ((c.params [.list [8]]).lst 0).length = (e.ctxsOf c.part).length) (hi : images.length = (e.ctxsOf c.part).length)
    (hb : e.busyCtx c.part = none) (hc : e.checkImages c.part images = none) :
    exec (.loadProgram q images) st = .next (withDev st ((e.putImages c.part images).done (began c))) := by
  refine (h.act_eq hr noBad _ rfl).trans ?_
  rw [Dev.onPart_valid (c := began c) hp hv, began_part, if_neg (by simp [hn, hi]),
    Dev.load_passes (c := began c) hl hb hc, began_part]

theorem exec_startProgram (hl : e.live c.part = true) (h : Accepted st.dev q 0x102 [] c e) (hq : e.quiet c.part = true) :
    exec (.startProgram q) st = .next (withDev st (e.startPrograms { seq := c.seq, p := c.part, leaves := [], counters := [] })) := by
  refine (h.act_eq hr noBad _ rfl).trans ?_
  rw [Dev.onPart_valid (c := began c) hp hv, Dev.startProgram_quiet (c := began c) hl hq]
  rfl

theorem exec_kernelRun (h : Accepted st.dev q 0x104 [] c e) (h0 : c.profile ≠ 0) (h1 : c.profile ≤ 0x11) :
    exec (.kernelRun q) st = .next (withDev st (kernelActs (began c) e (e.buildKernel c.part c.profile c.buf))) := by
  refine (h.act_eq hr noBad _ rfl).trans ?_
  have hprof : ¬ ((began c).profile = 0 ∨ 0x11 < (began c).profile) := by
    change ¬ (c.profile = 0 ∨ 0x11 < c.profile)
    omega
  rw [if_neg hprof, Dev.onPart_valid (c := began c) hp hv]
  change _ = Host.Outcome.next (withDev st (kernelActs (began c) e (e.buildKernel (began c).part (began c).profile (began c).buf)))
  cases e.buildKernel (began c).part (began c).profile (began c).buf <;> rfl

end

/-- Settles O32: the partition holds its facets, so its commands act on the device itself, and each takes the branch that its
checks leave. -/
theorem programsLoadAndStart : Obligations.ProgramsLoadAndStart := by
  intro st q c e images hr p put run
  refine ⟨fun hp hv hl => ⟨fun h hn hi hb hc => exec_loadProgram hr hp hv hl h hn hi hb hc,
    fun h hq => exec_startProgram hr hp hv hl h hq, fun h h0 h1 => ?_⟩, fun h hh => exec_clearTfault hr h hh⟩
  rw [exec_kernelRun hr hp hv h h0 h1]
  split
  case h_1 i hk => rw [hk]; rfl
  case h_2 k hk =>
    rw [hk]
    intro m b
    refine ⟨fun hbit => ?_, fun hbit hb => ?_⟩
    · rw [kernelActs_sends (c := began c) hbit]
      rfl
    · rw [kernelActs_loads (c := began c) hbit]
      split
      case h_1 n reason bidx place hc => exact congrArg _ (congrArg _ (Dev.load_invalid (d := b) (c := began c) hb hc _))
      case h_2 hc =>
        intro hq hl'
        refine congrArg _ (congrArg _ ((Dev.load_passes (d := b) (c := began c) hl hb hc _).trans ?_))
        exact Dev.startProgram_quiet (c := began c) hl' hq k.leaves k.counters

end Sys2Proof

/-! PROOFS (02_scangathen_bundle.md, family of the bundles): the debug port and START. -/

namespace Sys2Proof.Machine

/-! ## The contexts of a partition -/

theorem Dev.ctxNum_lt {d : Dev} {p h n : Nat} (hn : d.ctxNum p h = some n) : n < 8 :=
  List.mem_range.1 (List.mem_of_find?_eq_some hn)

theorem Dev.mem_ctxsOf {d : Dev} {p h n : Nat} (hh : h < 2) (hn : d.ctxNum p h = some n) : (h, n) ∈ d.ctxsOf p :=
  List.mem_filterMap.2 ⟨h, by simp; omega, by simp [hn]⟩

/-- The place of a context in the device. -/
def ctxKey (y : Nat × Nat) : Nat := y.1 * 8 + y.2

/-- A partition has at most one context on each hemisphere. -/
theorem Dev.ctxsOf_keys_nodup (d : Dev) (p : Nat) : ((d.ctxsOf p).map ctxKey).Nodup := by
  cases h0 : d.ctxNum p 0 with
  | none => cases h1 : d.ctxNum p 1 <;> simp [Dev.ctxsOf, h0, h1]
  | some n =>
    have hn := Dev.ctxNum_lt h0
    cases h1 : d.ctxNum p 1 with
    | none => simp [Dev.ctxsOf, h0, h1]
    | some m => simp [Dev.ctxsOf, h0, h1, ctxKey]; omega

theorem Dev.ctx_modCtx_same (d : Dev) (h n : Nat) (f : Ctx → Ctx) : (d.modCtx h n f).ctx h n = f (d.ctx h n) :=
  d.ctx_setCtx_same h n _

/-- The same change of every context of a list. -/
def Dev.modCtxs (d : Dev) (l : List (Nat × Nat)) (f : Ctx → Ctx) : Dev := forL l (fun y d => d.modCtx y.1 y.2 f) d

theorem Dev.modCtxs_regs (d : Dev) (l : List (Nat × Nat)) (f : Ctx → Ctx) : (d.modCtxs l f).regs = d.regs :=
  forL_keeps (fun e : Dev => e.regs = d.regs) l _ d rfl fun _ _ _ he => he

theorem Dev.modCtxs_aregs (d : Dev) (l : List (Nat × Nat)) (f : Ctx → Ctx) : (d.modCtxs l f).aregs = d.aregs :=
  forL_keeps (fun e : Dev => e.aregs = d.aregs) l _ d rfl fun _ _ _ he => he

theorem Dev.modCtxs_other {d : Dev} {l : List (Nat × Nat)} {h n : Nat} (hl : h * 8 + n ∉ l.map ctxKey) (f : Ctx → Ctx) :
    (d.modCtxs l f).ctx h n = d.ctx h n := by
  refine forL_keeps (fun e : Dev => e.ctx h n = d.ctx h n) l _ d rfl fun y hy e he => ?_
  refine (e.ctx_setCtx_other y.1 y.2 h n _ fun hk => hl ?_).trans he
  exact List.mem_map.2 ⟨y, hy, hk.symm⟩

theorem Dev.modCtxs_mem {d : Dev} {l : List (Nat × Nat)} {h n : Nat} (hl : (l.map ctxKey).Nodup) (hm : (h, n) ∈ l)
    (f : Ctx → Ctx) : (d.modCtxs l f).ctx h n = f (d.ctx h n) := by
  induction l generalizing d with
  | nil => cases hm
  | cons y l ih =>
    obtain ⟨hy, hl⟩ := List.nodup_cons.1 hl
    change ((d.modCtx y.1 y.2 f).modCtxs l f).ctx h n = _
    rcases List.mem_cons.1 hm with rfl | hm
    · rw [Dev.modCtxs_other hy, Dev.ctx_modCtx_same]
    · rw [ih hl hm]
      refine congrArg f (d.ctx_setCtx_other y.1 y.2 h n _ fun hk => hy ?_)
      exact List.mem_map.2 ⟨(h, n), hm, hk⟩

/-- The context of p on hemisphere h is changed once as all contexts of p are. -/
theorem Dev.modCtxs_ctxsOf {d : Dev} {p h n : Nat} (hh : h < 2) (hn : d.ctxNum p h = some n) (f : Ctx → Ctx) :
    (d.modCtxs (d.ctxsOf p) f).ctx h n = f (d.ctx h n) :=
  Dev.modCtxs_mem (d.ctxsOf_keys_nodup p) (Dev.mem_ctxsOf hh hn) f

/-! ## Debug halts (R57) -/

theorem Dev.moves_running {d : Dev} {c : CtxId} (hm : d.moves c = true) : (d.ctx c.h.val c.n.val).state = .running := by
  simp only [Dev.moves, Dev.streams, Bool.and_eq_true, beq_iff_eq] at hm
  exact hm.1.1.1.1

theorem Dev.atBreakpoint_boundary {d : Dev} {h n : Nat} (hb : d.atBreakpoint h n = true) :
    (d.ctx h n).phase = .boundary := by
  simp only [Dev.atBreakpoint, Bool.and_eq_true, beq_iff_eq] at hb
  exact hb.1.1.1.1.1.2

/-- A running context at its boundary halts at once. -/
theorem Dev.debugHalt_boundary {d : Dev} {h n : Nat} (hh : h < 2) (hn : d.ctxNum (d.ctx h n).part h = some n)
    (hs : (d.ctx h n).state = .running) (hp : (d.ctx h n).phase = .boundary) :
    (d.debugHalt h n).ctx h n = { d.ctx h n with state := .debugHalted, dhalt := false, stepping := false } := by
  refine (Dev.modCtxs_ctxsOf hh hn _).trans ?_
  rw [if_neg (by simp [hs]), if_neg (by simp [hp])]

theorem Dev.resumeCtxs_halted {d : Dev} {h n : Nat} (hh : h < 2) (hn : d.ctxNum (d.ctx h n).part h = some n)
    (hs : (d.ctx h n).state = .debugHalted) : (d.resumeCtxs (d.ctx h n).part).ctx h n =
      { d.ctx h n with state := .running, dhalt := false, stepping := false, pastBrk := true } :=
  (Dev.modCtxs_ctxsOf hh hn _).trans (if_pos hs)

theorem Dev.stepCtx_halted {d : Dev} {c : CtxId} (ho : d.debugOpen = true) (hs : (d.ctx c.h.val c.n.val).state = .debugHalted) :
    d.stepCtx c = Dev.stepCycles c 65540 (d.setCtx c.h.val c.n.val
      { d.ctx c.h.val c.n.val with state := .running, dhalt := true, stepping := true, pastBrk := true }) := by
  unfold Dev.stepCtx
  dsimp only
  rw [if_neg (by simp [ho, hs])]

/-! ## The address registers at START (R45) -/

theorem alGet_alClear {α : Type} (d : α) (m : List (Nat × α)) (lo hi k : Nat) :
    alGet d (alClear m lo hi) k = if lo ≤ k ∧ k < hi then d else alGet d m k := by
  induction m with
  | nil => simp [alClear, alGet]
  | cons e m ih =>
    obtain ⟨j, x⟩ := e
    unfold alClear at ih ⊢
    by_cases hk : j < lo ∨ hi ≤ j
    · rw [List.filter_cons_of_pos (by simpa using hk), alGet, alGet, ih]
      split
      · rw [if_neg (by omega)]
      · rfl
    · rw [List.filter_cons_of_neg (by simpa using hk), ih, alGet]
      split
      · rfl
      · rw [if_neg (by omega)]

/-- The address registers of facet f are as START sets them. -/
def Dev.AregsStarted (d : Dev) (f : Nat) : Prop :=
  d.areg f 30 = f % 16 ∧ d.areg f 31 = f ∧ ∀ a, a < 30 → d.areg f a = 0

theorem Dev.AregsStarted.of_aregs {d e : Dev} {f : Nat} (hd : d.AregsStarted f) (he : e.aregs = d.aregs) :
    e.AregsStarted f := by
  unfold Dev.AregsStarted Dev.areg at *
  rwa [he]

theorem Dev.startAregs_areg (d : Dev) (f g a : Nat) (ha : a < 32) : (d.startAregs f).areg g a =
    if g = f then (if a = 30 then f % 16 else if a = 31 then f else 0) else d.areg g a := by
  unfold Dev.startAregs Dev.areg
  dsimp only
  by_cases hg : g = f
  · subst hg
    rw [if_pos rfl]
    by_cases h31 : a = 31
    · subst h31
      exact alGet_alSet_same 0 _ _ _
    · rw [NatMap.get_set_other _ _ _ _ (by omega)]
      by_cases h30 : a = 30
      · subst h30
        exact alGet_alSet_same 0 _ _ _
      · rw [NatMap.get_set_other _ _ _ _ (by omega), if_neg h30, if_neg h31, NatMap.get, alGet_alClear, if_pos (by omega)]
  · rw [if_neg hg, NatMap.get_set_other _ _ _ _ (by omega), NatMap.get_set_other _ _ _ _ (by omega), NatMap.get,
      alGet_alClear, if_neg (by omega)]
    rfl

theorem Dev.startAregs_started (d : Dev) (f : Nat) : (d.startAregs f).AregsStarted f := by
  refine ⟨?_, ?_, fun a ha => ?_⟩ <;> rw [Dev.startAregs_areg _ _ _ _ (by omega), if_pos rfl]
  · rfl
  · rfl
  · rw [if_neg (by omega), if_neg (by omega)]

theorem Dev.AregsStarted.startAregs {d : Dev} {g : Nat} (hd : d.AregsStarted g) (f : Nat) :
    (d.startAregs f).AregsStarted g := by
  by_cases hg : g = f
  · subst hg
    exact d.startAregs_started g
  · obtain ⟨h30, h31, h0⟩ := hd
    refine ⟨?_, ?_, fun a ha => ?_⟩ <;> rw [Dev.startAregs_areg _ _ _ _ (by omega), if_neg hg]
    · exact h30
    · exact h31
    · exact h0 a ha

/-- Facets of a list with their address registers as START sets them. -/
def Dev.startFacets (d : Dev) (l : List Nat) : Dev := forL l (fun f d => d.startAregs f) d

theorem Dev.startFacets_rest (d : Dev) (l : List Nat) : (d.startFacets l).regs = d.regs ∧ (d.startFacets l).ctxs = d.ctxs :=
  forL_keeps (fun e : Dev => e.regs = d.regs ∧ e.ctxs = d.ctxs) l _ d ⟨rfl, rfl⟩ fun _ _ _ he => he

theorem Dev.startFacets_started {d : Dev} {l : List Nat} (hl : l.Nodup) : ∀ f ∈ l, (d.startFacets l).AregsStarted f :=
  forL_each l hl _ d (fun _ _ => True) (fun f e => e.AregsStarted f) (fun _ _ => trivial)
    (fun f e _ => e.startAregs_started f) (fun _ _ _ _ _ => trivial) fun f _ _ he => he.startAregs f

theorem Dev.facetsOf_nodup (d : Dev) (p : Nat) : (d.facetsOf p).Nodup := List.nodup_range.filter _

/-! ## START (R45, R50, R54) -/

/-- A context as START leaves it, with its first bundle at `entry`. -/
def Ctx.started (x : Ctx) (entry : Nat) : Ctx :=
  { x with state := .running, phase := .boundary, bidx := entry, rptLeft := 0, icount := 0, loops := [], hinges := [],
           conds := [], tokens := [], fence := none, waited := 0, late := false, spanDone := false, fenceDone := false,
           dhalt := false, stepping := false, pastBrk := false, spanFull := false, saveStop := false, joining := none }

theorem Dev.startCtx_eq {d : Dev} {h n : Nat} (hs : (d.ctx h n).state = .idle ∨ (d.ctx h n).state = .halted) (hh : h < 2)
    (hn : d.ctxNum (d.ctx h n).part h = some n) :
    (d.startCtx h n).ctx h n = (d.ctx h n).started (d.reg (rCtxEntry h n)) ∧
      ∀ f ∈ d.facetsOf (d.ctx h n).part, (d.startCtx h n).AregsStarted f := by
  have hrest := d.startFacets_rest (d.facetsOf (d.ctx h n).part)
  have hstarted := Dev.startFacets_started (d := d) (d.facetsOf_nodup (d.ctx h n).part)
  generalize hd1 : d.startFacets (d.facetsOf (d.ctx h n).part) = d1 at hrest hstarted
  obtain ⟨hregs, hctxs⟩ := hrest
  have hctx : d1.ctx h n = d.ctx h n := by rw [Dev.ctx, Dev.ctx, hctxs]
  have hnum (k : Nat) : d1.ctxNum (d.ctx h n).part k = d.ctxNum (d.ctx h n).part k := by
    unfold Dev.ctxNum Dev.holds Dev.sectors Dev.fld Dev.reg
    rw [hregs]
  generalize hd2 : d1.modCtxs (d1.ctxsOf (d.ctx h n).part) (fun c => { c with tokens := [] }) = d2
  have htok : d2.ctx h n = { d.ctx h n with tokens := [] } := by
    rw [← hd2, Dev.modCtxs_ctxsOf hh ((hnum h).trans hn), hctx]
  have hentry : d2.reg (rCtxEntry h n) = d.reg (rCtxEntry h n) := by
    rw [Dev.reg, Dev.reg, ← hd2, Dev.modCtxs_regs, hregs]
  have heq : d.startCtx h n = d2.modCtx h n fun x => { x.started (d2.reg (rCtxEntry h n)) with tokens := x.tokens } := by
    have hlive : ¬ ((d.ctx h n).state ≠ .idle ∧ (d.ctx h n).state ≠ .halted) := by
      rcases hs with hs | hs <;> simp [hs]
    unfold Dev.startCtx
    dsimp only
    rw [if_neg hlive, ← hd2, ← hd1]
    rfl
  rw [heq]
  refine ⟨?_, fun f hf => (hstarted f hf).of_aregs ?_⟩
  · rw [Dev.ctx_modCtx_same, htok, hentry]
    rfl
  · rw [Dev.modCtx_aregs, ← hd2, Dev.modCtxs_aregs]

end Sys2Proof.Machine

namespace Sys2Proof

open Machine

/-! ## The rows of the debug port and START -/

section

variable {st : State} {c : CtxId} (hr : st.dev.sys.railsUp = true)

include hr

theorem act_of_eq {f : Dev → Dev} {d : Dev} (hf : f st.dev = d) : st.act f = .next (withDev st d) :=
  hf ▸ State.act_eq st f hr

theorem exec_dhaltReq (ho : st.dev.debugOpen = true) :
    exec (.dhaltReq c) st = .next (withDev st (st.dev.debugHalt c.h.val c.n.val)) :=
  act_of_eq hr (if_pos ho)

theorem exec_breakpointHit (hm : st.dev.moves c = true) (hb : st.dev.atBreakpoint c.h.val c.n.val = true) :
    exec (.breakpointHit c) st = .next (withDev st (st.dev.debugHalt c.h.val c.n.val)) :=
  act_of_eq hr (if_pos (by rw [hm, hb]; rfl))

theorem exec_stepBundle : exec (.stepBundle c) st = .next (withDev st (st.dev.stepCtx c)) :=
  State.act_eq st (fun d => d.stepCtx c) hr

theorem exec_resume (ho : st.dev.debugOpen = true) :
    exec (.resume c) st = .next (withDev st (st.dev.resumeCtxs (st.dev.ctx c.h.val c.n.val).part)) :=
  act_of_eq hr (if_pos ho)

theorem exec_start : exec (.start c) st = .next (withDev st (st.dev.startCtx c.h.val c.n.val)) :=
  State.act_eq st (fun d => d.startCtx c.h.val c.n.val) hr

end

/-- Settles O19: the context named is the one of its partition on its hemisphere, so what a request does to every context of the
partition it does to this one once. -/
theorem debugPortAndStart : Obligations.DebugPortAndStart := by
  intro st c hr h n x hn
  have hh : h < 2 := c.h.isLt
  refine ⟨fun ho hs hp => ⟨_, exec_dhaltReq hr ho, rfl, Dev.debugHalt_boundary hh hn hs hp⟩,
    fun hm hb => ⟨_, exec_breakpointHit hr hm hb, rfl, ?_⟩, fun ho hs => ?_,
    fun ho hs => ⟨_, exec_resume hr ho, rfl, Dev.resumeCtxs_halted hh hn hs⟩, fun hs => ⟨_, exec_start hr, rfl, ?_⟩⟩
  · exact Dev.debugHalt_boundary hh hn (Dev.moves_running hm) (Dev.atBreakpoint_boundary hb)
  · rw [exec_stepBundle hr, Dev.stepCtx_halted ho hs]
  · obtain ⟨hctx, hareg⟩ := Dev.startCtx_eq hs hh hn
    dsimp only [withDev]
    rw [hctx]
    exact ⟨rfl, rfl, rfl, rfl, rfl, rfl, rfl, rfl, hareg⟩

end Sys2Proof

/-! PROOFS (02_scangathen_bundle.md, family of the bundles): program stream-in. -/

namespace Sys2Proof.Machine

/-! ## What leaves the instruction store and its fill bits alone -/

/-- e holds the bundles of d, with their fill bits. -/
structure Dev.SameStore (d e : Dev) : Prop where
  istore : e.istore = d.istore
  fill : e.fill = d.fill

theorem Dev.SameStore.refl (d : Dev) : d.SameStore d := ⟨rfl, rfl⟩

theorem Dev.SameStore.trans {d e g : Dev} (a : d.SameStore e) (b : e.SameStore g) : d.SameStore g :=
  ⟨b.istore.trans a.istore, b.fill.trans a.fill⟩

theorem Dev.SameStore.of_noted {d e : Dev} (hn : d.Noted e) : d.SameStore e :=
  ⟨hn.istore, by rw [hn.rest]; rfl⟩

theorem Dev.sameStore_forL {β : Type} (l : List β) (f : β → Dev → Dev) (d : Dev)
    (hf : ∀ (b : β) (e : Dev), e.SameStore (f b e)) : d.SameStore (forL l f d) :=
  forL_keeps (fun e => d.SameStore e) l f d (.refl d) fun b _ e he => he.trans (hf b e)

theorem Dev.sameStore_passTime (d : Dev) (h k : Nat) : d.SameStore (d.passTime h k) := by
  unfold Dev.passTime
  refine forN_keeps (fun e => d.SameStore e) 8 _ d (.refl d) fun n e he => he.trans ?_
  dsimp only
  split
  · exact .refl e
  · exact ⟨rfl, rfl⟩

theorem Dev.sameStore_collide (d : Dev) (i : Issue) (bs : List BankAcc) : d.SameStore (d.collide i bs) := by
  unfold Dev.collide
  dsimp only
  generalize hc : forL (accFacets bs) _ d = claimed
  have hclaimed : d.SameStore claimed := hc ▸ d.sameStore_forL _ _ fun _ _ => ⟨rfl, rfl⟩
  split
  · exact hclaimed
  · refine Dev.SameStore.trans ?_ (.of_noted (Dev.noted_tfault _ _ _ _ _ _ _))
    refine Dev.SameStore.trans ?_ (.of_noted (Dev.noted_countStall _ _ _ _))
    refine Dev.SameStore.trans ?_ (.of_noted (Dev.noted_bump _ _ _))
    refine Dev.SameStore.trans ?_ (Dev.sameStore_passTime _ _ _)
    exact hclaimed.trans ⟨rfl, rfl⟩

/-- The end of a cycle loads no bundle. -/
theorem Work.sameStore_close (w : Work) (i : Issue) (qs qb : Nat) : w.1.SameStore (w.close i qs qb) := by
  unfold Work.close
  dsimp only
  refine Dev.SameStore.trans ?_ (Dev.sameStore_forL _ _ _ fun r e => .of_noted (e.noted_record r))
  refine Dev.SameStore.trans ?_ (.of_noted (Dev.noted_raise _ _ _))
  refine Dev.SameStore.trans ?_ (e := Dev.countBanks _ _) ⟨rfl, rfl⟩
  refine Dev.SameStore.trans ?_ (.of_noted (Dev.noted_countBanks _ _))
  exact (Dev.SameStore.of_noted (Dev.noted_quietFault _ _ _ _ _)).trans (Dev.sameStore_collide _ _ _)

theorem Dev.sameStore_freeScales (d : Dev) (a : AccSet) (steps : List KStep) : d.SameStore (d.freeScales a steps).1 := by
  unfold Dev.freeScales
  refine forL_keeps (fun (x : Dev × AccSet) => d.SameStore x.1) _ _ (d, a) (.refl d) fun b _ x hx => ?_
  dsimp only
  split
  · exact hx
  · exact hx.trans ⟨rfl, rfl⟩

theorem AccSet.sameStore_landStep (d : Dev) (a : AccSet) (st : KStep) (l : Nat) :
    d.SameStore (AccSet.landStep d a st l).1 := by
  unfold AccSet.landStep
  dsimp only
  split
  · exact .refl d
  · split
    · exact d.sameStore_freeScales _ _
    · exact .refl d

theorem Dev.sameStore_setAcc (d : Dev) (f : Nat) (b : Bool) (a : AccSet) : d.SameStore (d.setAcc f b a) := ⟨rfl, rfl⟩

theorem Dev.sameStore_landProduct (d : Dev) (f : Nat) (set clr : Bool) (steps : List KStep) (l : Nat) (site : NevSite) :
    d.SameStore (d.landProduct f set clr steps l site).1 := by
  unfold Dev.landProduct
  dsimp only
  refine Dev.SameStore.trans ?_ (Dev.sameStore_setAcc _ _ _ _)
  refine forL_keeps (fun (x : Dev × AccSet × List NevHit) => d.SameStore x.1) _ _ _ (.refl d) ?_
  intro k _ x hx
  exact hx.trans (AccSet.sameStore_landStep _ _ _ _)

theorem Dev.sameStore_rng (d : Dev) (m : NatMap) : d.SameStore { d with rng := m } := ⟨rfl, rfl⟩

theorem Dev.sameStore_evalRng (d : Dev) (f l : Nat) : d.SameStore (d.evalRng f l).2 := by
  rw [Dev.evalRng_dev]
  exact (d.sameStore_rng _).trans (.of_noted (Dev.noted_countFacet _ _ _ _ _))

theorem Dev.sameStore_drainRow (d : Dev) (j : DrainJob) (r : Nat) : d.SameStore (d.drainRow j r).1 := by
  unfold Dev.drainRow
  dsimp only
  refine forL_keeps (fun (x : Dev × List Nat × List (Ev × Nat × Nat)) => d.SameStore x.1) _ _ _ (.refl d) fun b _ x hx => ?_
  dsimp only
  refine hx.trans ?_
  split
  · exact x.1.sameStore_evalRng _ _
  · exact .refl _

theorem Dev.sameStore_wedgeReady (d : Dev) (f : Nat) : d.SameStore (d.wedgeReady f).1 := by
  unfold Dev.wedgeReady
  dsimp only
  split
  · exact .refl d
  · exact ⟨rfl, rfl⟩

theorem sameStore_landRow (i : Issue) (due : Nat) (j : DrainJob) (r : Nat) (w : Work) :
    w.1.SameStore (landRow i due j r w).1 := by
  have hwrite (d : Dev) (f : Nat) (bs : List (Nat × Byte)) : d.SameStore (d.lsWrite f bs) := ⟨rfl, rfl⟩
  have hrow (bs : List (Nat × Byte)) := ((w.1.sameStore_drainRow j r).trans (hwrite _ j.facet bs)).trans
    (.of_noted (Dev.noted_countFacet _ j.facet 5 noSub 1))
  unfold landRow
  dsimp only
  split
  · rw [Work.dev, Work.hit_dev, touch_dev]
    exact (hrow _).trans ⟨rfl, rfl⟩
  · rw [Work.hit_dev, Work.hit_dev, touch_dev]
    exact hrow _

theorem sameStore_landEffect (i : Issue) (due : Nat) (e : Effect) (w : Work) : w.1.SameStore (landEffect i due e w).1 := by
  cases e with
  | store f ord bidx a n bs =>
    unfold landEffect
    dsimp only
    rw [Work.dev, touch_dev]
    exact ⟨rfl, rfl⟩
  | product f set clr steps l site read => exact w.1.sameStore_landProduct _ _ _ _ _ _
  | drainRow j r => exact sameStore_landRow i due j r w
  | wedgeReady f => exact w.1.sameStore_wedgeReady _
  | _ => exact ⟨rfl, rfl⟩

/-- Nothing that lands in a cycle is a bundle. -/
theorem sameStore_landRanks (i : Issue) (c lo hi : Nat) (w : Work) : w.1.SameStore (landRanks i c lo hi w).1 := by
  unfold landRanks
  refine forL_keeps (fun (x : Work) => w.1.SameStore x.1) _ _ w (.refl _) fun r _ x hx => ?_
  dsimp only
  refine forL_keeps (fun (y : Work) => w.1.SameStore y.1) _ _ _ (hx.trans ⟨rfl, rfl⟩) fun e _ y hy => ?_
  exact hy.trans (sameStore_landEffect i c e y)

theorem Dev.sameStore_landCycle (d : Dev) (h n c : Nat) : d.SameStore (d.landCycle h n c) := by
  unfold Dev.landCycle
  exact (sameStore_landRanks _ c 0 4 (d, {})).trans (Work.sameStore_close _ _ _ _)

theorem Dev.sameStore_settle (d : Dev) (h n c : Nat) : d.SameStore (d.settle h n c) := by
  unfold Dev.settle
  generalize 130 * (d.ctx h n).inflight.length = k
  induction k generalizing d with
  | zero => exact .refl d
  | succ k ih =>
    unfold Dev.settleN
    split
    · exact .refl d
    · exact (d.sameStore_landCycle h n _).trans (ih _)

/-! ## Reads of rim memory -/

theorem Dev.sameStore_mem (d : Dev) (m : Mem) : d.SameStore { d with mem := m } := ⟨rfl, rfl⟩

theorem Dev.sameStore_rim (d : Dev) (m : Memory) : d.SameStore { d with rim := m } := ⟨rfl, rfl⟩

theorem Dev.sameStore_setErrs (d : Dev) (a : Nat) (e : SymErrs) : d.SameStore (d.setErrs a e) := ⟨rfl, rfl⟩

theorem Dev.sameStore_ueCount (d : Dev) (a src : Nat) (addr : Bool) : d.SameStore (d.ueCount a src addr) := by
  have hcount (p : Option Nat) := (d.noted_bump (rMemUe (rimMap a).stack (rimMap a).pc) 1).trans
    (Dev.noted_countMem _ (rimMap a).stack (rimMap a).pc 8 p 1)
  unfold Dev.ueCount
  dsimp only
  exact .of_noted (Dev.noted_ite _ (hcount _) ((hcount _).trans (Dev.noted_setReg _ _ _)))

theorem Dev.sameStore_trackRow (d : Dev) (a : Nat) : d.SameStore (d.trackRow a) := by
  unfold Dev.trackRow
  dsimp only
  split
  · exact (d.sameStore_mem _).trans (.of_noted (Dev.noted_record _ _))
  · exact d.sameStore_mem _

theorem Dev.sameStore_readGranule (d : Dev) (a src : Nat) (errs : SymErrs) : d.SameStore (d.readGranule a src errs).1 := by
  have hite {d e : Dev} (b : Bool) (he : d.Noted e) : d.SameStore (if b then e else d) := by
    cases b
    · exact .refl d
    · exact .of_noted he
  unfold Dev.readGranule
  dsimp only
  generalize (if src = 0 then d.memPart a else none) = p
  generalize hd1 : d.countMem (rimMap a).stack (rimMap a).pc 2 p 1 = d1
  generalize hd2 : (if d1.inCarve a then d1.countMem (rimMap a).stack (rimMap a).pc 9 p 1 else d1) = d2
  have hcounted : d.SameStore d2 :=
    hd2 ▸ (Dev.SameStore.of_noted (hd1 ▸ d.noted_countMem _ _ _ _ _)).trans (hite _ (Dev.noted_countMem _ _ _ _ _ _))
  refine hcounted.trans ?_
  split
  · dsimp only
    split
    · exact .refl _
    · exact Dev.sameStore_setErrs _ _ _
  · split
    · exact (Dev.sameStore_setErrs _ _ _).trans (Dev.sameStore_ueCount _ _ _ _)
    · exact (Dev.sameStore_setErrs _ _ _).trans (Dev.sameStore_rim _ _)
    · refine Dev.SameStore.trans ?_ (Dev.sameStore_trackRow _ _)
      refine Dev.SameStore.trans ?_ (hite _ (Dev.noted_bump _ _ _))
      refine Dev.SameStore.trans ?_ (.of_noted (Dev.noted_countMem _ _ _ _ _ _))
      exact ((Dev.sameStore_rim _ _).trans (Dev.sameStore_setErrs _ _ _)).trans (.of_noted (Dev.noted_bump _ _ _))

theorem Dev.sameStore_readRim (d : Dev) (src a len : Nat) : d.SameStore (d.readRim src a len).1 := by
  unfold Dev.readRim
  exact forL_keeps (fun (x : Dev × List (Nat × Bool)) => d.SameStore x.1) _ _ _ (.refl d) fun g _ x hx =>
    hx.trans (x.1.sameStore_readGranule _ _ _)

/-! ## STREAM (R49, R388) -/

/-- The fill bits have no part in what a partition may reach. -/
theorem Dev.firstBad_fill (d : Dev) (m : NatMap) (p a len : Nat) :
    ({ d with fill := m } : Dev).firstBad p a len = d.firstBad p a len := by
  have key (e n : Nat) : ∀ a, ({ d with fill := m } : Dev).firstBadN p e n a = d.firstBadN p e n a := by
    induction n with
    | zero => exact fun _ => rfl
    | succ n ih =>
      intro a
      have hgood : ({ d with fill := m } : Dev).goodEnd p a = d.goodEnd p a := rfl
      simp only [Dev.firstBadN, ih, hgood]
  exact key _ _ _

/-- STREAM to entries outside the running bundle, in a context outside loops. -/
theorem streamOp_eq {i : Issue} {o : StreamOp} {w : Work} (hlo : (w.1.isRange i.h i.n).1 ≤ o.tidx.toNat)
    (hhi : o.tidx.toNat + o.count.toNat ≤ (w.1.isRange i.h i.n).2)
    (hout : ¬ (o.tidx.toNat ≤ i.bidx ∧ i.bidx < o.tidx.toNat + o.count.toNat))
    (hloops : (w.1.ctx i.h i.n).loops = []) (hk : 0 < o.count.toNat) :
    (streamOp i o w).1.fill = alClear w.1.fill (isKey i.h o.tidx.toNat) (isKey i.h (o.tidx.toNat + o.count.toNat)) ∧
      (streamOp i o w).1.ctx i.h i.n = { w.1.ctx i.h i.n with
        streams := if w.1.firstBad i.p (w.1.gaAddr i.h i.n o.src) (512 * o.count.toNat) = none then
          (w.1.ctx i.h i.n).streams ++ [{ src := w.1.gaAddr i.h i.n o.src, next := o.tidx.toNat, left := o.count.toNat }]
          else (w.1.ctx i.h i.n).streams } := by
  have hfree : (decide (o.tidx.toNat < (w.1.isRange i.h i.n).1) ||
      decide ((w.1.isRange i.h i.n).2 < o.tidx.toNat + o.count.toNat) ||
      decide (o.tidx.toNat ≤ i.bidx ∧ i.bidx < o.tidx.toNat + o.count.toNat) ||
      ((w.1.ctx i.h i.n).loops.any fun e => (List.range o.count.toNat).any fun k => e.covers (o.tidx.toNat + k))) = false := by
    rw [decide_eq_false hout, hloops]
    simp [hlo, hhi]
  unfold streamOp
  dsimp only
  rw [hfree, if_neg Bool.false_ne_true]
  simp only [Work.dev, Dev.firstBad_fill]
  cases w.1.firstBad i.p (w.1.gaAddr i.h i.n o.src) (512 * o.count.toNat) with
  | some a => exact ⟨rfl, rfl⟩
  | none =>
    refine ⟨rfl, (Dev.ctx_setCtx_same _ _ _ _).trans ?_⟩
    rw [if_pos rfl]
    exact if_neg (c := o.count.toNat = 0) (by omega)

theorem Ctx.Flow.streams {x y : Ctx} (hf : Ctx.Flow x y) : y.streams = x.streams := by
  obtain ⟨_, _, _, _, _, rfl⟩ := hf
  rfl

theorem Ctx.Flow.loops {x y : Ctx} (hf : Ctx.Flow x y) : y.loops = x.loops := by
  obtain ⟨_, _, _, _, _, rfl⟩ := hf
  rfl

end Sys2Proof.Machine

namespace Sys2Proof

open Machine

/-- What comes about before an op acts loads no bundle and leaves the context at its place. -/
theorem atIssue_keeps (d : Dev) (c : CtxId) (k : Nat) : d.SameStore (atIssue d c k) ∧ d.Flow (atIssue d c k) :=
  ⟨(d.sameStore_settle _ _ _).trans (sameStore_landRanks _ _ _ _ (d.settle c.h.val c.n.val (d.issueOf c).cyc, {})),
    (d.flow_settle _ _ _).trans (flow_landRanks _ _ _ _ (d.settle c.h.val c.n.val (d.issueOf c).cyc, {}))⟩

/-- A shared-slot op of a running context: it acts on the device as the op finds it, and the rest of its cycle loads no
bundle and leaves the context at its place. -/
theorem Dev.ctxOp_rest {d : Dev} {c : CtxId} (hs : (d.ctx c.h.val c.n.val).state = .running) (f : Issue → Work → Work) :
    ∃ w : Work, w.1 = atIssue d c 4 ∧ (f (d.issueOf c) w).1.SameStore (d.ctxOp c f) ∧
      (f (d.issueOf c) w).1.Flow (d.ctxOp c f) := by
  have hok : d.ctxOk c = true := by simp [Dev.ctxOk, hs]
  refine ⟨landRanks (d.issueOf c) (d.issueOf c).cyc 0 4 (d.settle c.h.val c.n.val (d.issueOf c).cyc, {}), rfl, ?_⟩
  rw [Dev.ctxOp, if_pos hok]
  exact ⟨(sameStore_landRanks _ _ _ _ _).trans (Work.sameStore_close _ _ _ _),
    (flow_landRanks _ _ _ _ _).trans (Work.flow_close _ _ _ _)⟩

/-- STREAM of a running context: its entries lose their fill bits, and the stream-in is queued where the partition may read its
source. e is the device that the op finds. -/
theorem Dev.ctxOp_stream {d e : Dev} {c : CtxId} {o : StreamOp} (hs : (d.ctx c.h.val c.n.val).state = .running)
    (he : atIssue d c 4 = e) (hlo : (e.isRange c.h.val c.n.val).1 ≤ o.tidx.toNat)
    (hhi : o.tidx.toNat + o.count.toNat ≤ (e.isRange c.h.val c.n.val).2)
    (hout : ¬ (o.tidx.toNat ≤ (d.ctx c.h.val c.n.val).bidx ∧ (d.ctx c.h.val c.n.val).bidx < o.tidx.toNat + o.count.toNat))
    (hloops : (d.ctx c.h.val c.n.val).loops = []) (hk : 0 < o.count.toNat) :
    (d.ctxOp c fun i => streamOp i o).fill =
        alClear d.fill (isKey c.h.val o.tidx.toNat) (isKey c.h.val (o.tidx.toNat + o.count.toNat)) ∧
      ((d.ctxOp c fun i => streamOp i o).ctx c.h.val c.n.val).streams =
        if e.firstBad (d.ctx c.h.val c.n.val).part (e.gaAddr c.h.val c.n.val o.src) (512 * o.count.toNat) = none then
          (d.ctx c.h.val c.n.val).streams ++
            [{ src := e.gaAddr c.h.val c.n.val o.src, next := o.tidx.toNat, left := o.count.toNat }]
        else (d.ctx c.h.val c.n.val).streams := by
  obtain ⟨hstore, hflow⟩ := atIssue_keeps d c 4
  rw [he] at hstore hflow
  obtain ⟨hplace, hlive⟩ := hflow c.h.val c.n.val (by simp [hs])
  obtain ⟨w, hw, hrest, hrestFlow⟩ := Dev.ctxOp_rest hs fun i => streamOp i o
  obtain rfl : w.1 = e := hw.trans he
  obtain ⟨hfill, hctx⟩ := streamOp_eq (i := d.issueOf c) hlo hhi hout (hplace.loops.trans hloops) hk
  have hthere : ((streamOp (d.issueOf c) o w).1.ctx c.h.val c.n.val).state ≠ .absent :=
    fun ha => hlive ((congrArg Ctx.state hctx).symm.trans ha)
  refine ⟨hrest.fill.trans (hfill.trans (congrArg (alClear · _ _) hstore.fill)), ?_⟩
  refine (hrestFlow _ _ hthere).1.streams.trans ((congrArg Ctx.streams hctx).trans ?_)
  rw [← hplace.streams]
  rfl

/-! ## STREAM_BUNDLE_LAND (R49, R388) -/

theorem exec_streamBundleLand {st : State} (c : CtxId) (hr : st.dev.sys.railsUp = true) :
    exec (.streamBundleLand c) st = .next (withDev st (st.dev.landStreamed c.h.val c.n.val)) :=
  State.act_eq st (fun d => d.landStreamed c.h.val c.n.val) hr

section

variable {d : Dev} {h n : Nat} {j : StreamJob} {js : List StreamJob}

/-- A bundle that cannot be read ends its stream-in, and no fill bit is set (R174). -/
theorem Dev.landStreamed_unread (hx : (d.ctx h n).streams = j :: js) (hheld : d.chanHeld j.src 512 = false)
    {g : Nat × Bool} {gs : List (Nat × Bool)} (hread : (d.readRim 0 j.src 512).2 = g :: gs) :
    ((d.landStreamed h n).ctx h n).streams = js ∧ (d.landStreamed h n).fill = d.fill := by
  have hland : d.landStreamed h n =
      (((d.readRim 0 j.src 512).1.setCtx h n { d.ctx h n with streams := js }).countCtx h n 0xA noSub 1).record
        (ueRec (some (d.ctx h n).part) g.1 0 j.next n 0 g.2) := by
    simp only [Dev.landStreamed, hx, hheld, hread, Bool.false_eq_true, if_false]
  have hnoted (e : Dev) (r : ErrRec) := (e.noted_countCtx h n 0xA noSub 1).trans (Dev.noted_record _ r)
  have hstore := d.sameStore_readRim 0 j.src 512
  rw [hland]
  generalize (d.readRim 0 j.src 512).1 = e at hstore ⊢
  refine ⟨?_, (Dev.SameStore.of_noted (hnoted _ _)).fill.trans hstore.fill⟩
  refine (Ctx.Flow.of_same ((hnoted _ _).ctx h n)).streams.trans ?_
  rw [Dev.ctx_setCtx_same]

/-- A bundle that is read and that program validation does not reject lands in its entry. -/
theorem Dev.landStreamed_valid (hx : (d.ctx h n).streams = j :: js) (hheld : d.chanHeld j.src 512 = false)
    (hread : (d.readRim 0 j.src 512).2 = []) :
    let b := leNat ((d.readRim 0 j.src 512).1.gread (d.ctx h n).part j.src 512)
    let e : Dev := { (d.readRim 0 j.src 512).1 with istore := (d.readRim 0 j.src 512).1.istore.set (isKey h j.next) b }
    streamedReason (e.valCtx (d.ctx h n).part h n) b = none →
    d.landStreamed h n = ({ e with fill := e.fill.set (isKey h j.next) 1 } : Dev).setCtx h n { d.ctx h n with
      streams := if j.left ≤ 1 then js else { src := j.src + 512, next := j.next + 1, left := j.left - 1 } :: js } := by
  intro b e hok
  -- Validation is any function here, so that the kernel does not evaluate it.
  obtain ⟨valid, hvalid⟩ := exists_eq (a' := streamedReason)
  rw [← hvalid] at hok
  rw [Dev.landStreamed, ← hvalid]
  subst b e
  simp only [hx, hheld, hread, hok, Bool.false_eq_true, if_false]

end

/-- Settles O20: what comes about in the cycle of STREAM loads no bundle, so the fill bits and the stream-ins are those that the
op leaves; a landing takes the branch that its read and its validation name. -/
theorem streamInLandsBundles : Obligations.StreamInLandsBundles := by
  intro st c o hr h n x
  refine ⟨fun hs hlo hhi hout hloops hk => ?_, fun j js hx hheld => ⟨fun g gs hread => ?_, fun hread hok => ?_⟩⟩
  · exact ⟨_, State.act_eq st (fun d => d.ctxOp c fun i => streamOp i o) hr, rfl,
      Dev.ctxOp_stream hs rfl hlo hhi hout hloops hk⟩
  · exact ⟨_, exec_streamBundleLand c hr, rfl, Dev.landStreamed_unread hx hheld hread⟩
  · exact (exec_streamBundleLand c hr).trans
      (congrArg (fun e => Host.Outcome.next (withDev st e)) (Dev.landStreamed_valid hx hheld hread hok))

end Sys2Proof

/-! PROOFS (02_scangathen_bundle.md, family of the bundles): the successor of an issued bundle. -/

namespace Sys2Proof

open Machine

/-- A hit of no kind of R121: its counter would stand at the place of SEQ_ISBANK of hemisphere 0. -/
def strayHit : NevHit where
  site := ⟨5, 0, 0, 0, 0, 0⟩
  kind := (rSeqIsbank 0 - rNevCnt 0 0) / 8
  count := 1
  row := 0
  col := 0
  fin := 0
  mode := 0

/-- A device whose context 0 holds bank 0 of instruction store alone and is about to issue the last bundle of it, an empty one,
while a hit of no kind is due. -/
def strayHitDev : Dev :=
  (((Dev.reset.setReg (rPrtCfg 0) (2 ^ 63 + 1)).setReg (rPrtState 0) (2 ^ 27)).setReg (rSeqIsbank 0) 0xFFFFFFF0).setCtx 0 0
    { Ctx.absent with state := .running, phase := .issuing, bidx := 1023, inflight := [⟨0, .events [strayHit]⟩] }

/-- The hit counts in SEQ_ISBANK, and the bank is the context's no longer. -/
theorem strayHitDev_successor :
    ∃ t, exec (.bundleIssue ⟨0, 0⟩ false []) ⟨strayHitDev, []⟩ = .next t ∧ (t.dev.ctx 0 0).state = .running ∧
      (t.dev.ctx 0 0).bidx = 1024 :=
  ⟨_, rfl, by decide +kernel⟩

/-- Refutes O15: what lands in the issue may change the registers that the sequential successor is read from; a hit of no kind
of R121 counts at the place of SEQ_ISBANK, so the stream does not stand where that register stood it before. -/
theorem not_bundleIssueAdvances : ¬ Obligations.BundleIssueAdvances := by
  intro h
  obtain ⟨t, ht, -, -, -, -, hlast⟩ := h ⟨strayHitDev, []⟩ ⟨0, 0⟩ rfl (by decide +kernel) (.inl rfl) (by decide +kernel)
  obtain ⟨t', ht', hrun, hidx⟩ := strayHitDev_successor
  obtain rfl := Host.Outcome.next.inj (ht.symm.trans ht')
  obtain ⟨-, -, -, -, hseq⟩ := hlast (by decide +kernel) hrun (by decide +kernel) rfl
  exact absurd (hidx.symm.trans (hseq (by decide +kernel) rfl rfl).2) (by decide +kernel)

end Sys2Proof

/-! PROOFS (04_hinges.md, family of the hinges): HALT of a context whose programs complete. -/

namespace Sys2Proof

open Machine

/-- The last granule of sector 0, which lies in the Flifin carve-out at the top of the sector's range (R169). -/
def carveGranule : Nat := sectorBytes - 64

/-- A device whose partition 0 holds sector 0 with a share of 192 units: the sector's whole range, and so its carve-out too,
where R281 leaves 190. Its context has issued HALT with nothing outstanding, and the kernel that it ends leaves one byte in a
carve-out granule with five symbol errors, which is more than the check code corrects (R172). -/
def carveLeafDev : Dev :=
  let d := ((Dev.reset.setReg (rPrtCfg 0) (2 ^ 63 + 192 * 2 ^ 44 + 1)).setReg (rPrtState 0) (2 ^ 27)).setErrs carveGranule
    [(2, 1), (3, 1), (4, 1), (5, 1), (6, 1)]
  { d with hq := { d.hq with programs := [{ seq := 0, p := 0, leaves := [(carveGranule, 1)] }] } }.setCtx 0 0
    { Ctx.absent with state := .running, phase := .haltDue }

/-- The partial write of the kernel's byte reads the granule first, so that an error of runtime state stops every context
(R174, R269, R318). -/
theorem carveLeafDev_halt :
    ∃ t, exec (.halt ⟨0, 0⟩) ⟨carveLeafDev, []⟩ = .next t ∧ (t.dev.ctx 0 0).state = .stopped :=
  ⟨_, rfl, by decide +kernel⟩

/-- Refutes O16: its clause on HALT bounds no partition's share by the carve-out; where the kernel of the halted context leaves
bytes there, what it leaves may stop the device, and the context is stopped where the clause has it halted. -/
theorem not_hingesAndHalts : ¬ Obligations.HingesAndHalts := by
  intro h
  obtain ⟨hhalt, -⟩ := h.2 ⟨carveLeafDev, []⟩ ⟨0, 0⟩ rfl (by decide +kernel)
  obtain ⟨t, ht, -, hctx⟩ := hhalt rfl rfl rfl rfl
  obtain ⟨t', ht', hstopped⟩ := carveLeafDev_halt
  obtain rfl := Host.Outcome.next.inj (ht.symm.trans ht')
  exact absurd ((congrArg Ctx.state hctx).symm.trans hstopped) (by decide)

end Sys2Proof

/-! PROOFS (06_accumulation_rounding.md, family of the accumulation): numeric events and the generators. -/

namespace Sys2Proof.Machine

/-! ## The ring's configuration (R125) -/

theorem Dev.flag_setReg_other (d : Dev) (off v o i : Nat) (h : o ≠ off) : (d.setReg off v).flag o i = d.flag o i :=
  congrArg (bit · i) (d.reg_setReg_other off v o h)

theorem Dev.reg_setFlag_other (d : Dev) (off i : Nat) (b : Bool) (o : Nat) (h : o ≠ off) :
    (d.setFlag off i b).reg o = d.reg o := d.reg_setReg_other off _ o h

/-- RBASE of an idle ring takes an aligned address. -/
theorem Dev.writeNevBase_idle {d : Dev} {p a : Nat} (hoff : d.flag (rNevRcfg p) 31 = false) (ha : a < 2 ^ 48)
    (halign : a % 4096 = 0) : d.writeNevBase p a = d.setReg (rNevRbase p) a := by
  have hbits : bits a 47 12 * 4096 = a := by
    unfold bits
    omega
  rw [Dev.writeNevBase, hoff, hbits]
  rfl

/-- PRT_p_NEV_RCFG of a ring that is on, from KMASK, HINGE and LOG2N. -/
def nevRingOn (mask hinge log2n : Nat) : Nat := 2 ^ 31 + mask * 2 ^ 16 + hinge * 2 ^ 15 + log2n

/-- The fields of PRT_p_NEV_RCFG read back. -/
theorem nevRingOn_fields {mask hinge log2n : Nat} (hm : mask < 256) (hh : hinge < 2) (hl : log2n < 32) :
    bit (nevRingOn mask hinge log2n) 31 = true ∧ bits (nevRingOn mask hinge log2n) 23 16 = mask ∧
      bits (nevRingOn mask hinge log2n) 15 15 = hinge ∧ bits (nevRingOn mask hinge log2n) 4 0 = log2n := by
  simp only [nevRingOn, bit, bits, Nat.testBit_eq_decide_div_mod_eq, decide_eq_true_eq]
  omega

/-- EN of an idle ring goes to 1 with LOG2N 4 to 20. -/
theorem Dev.writeNevCfg_on {d : Dev} {p mask hinge log2n : Nat} (hoff : d.flag (rNevRcfg p) 31 = false) (hm : mask < 256)
    (hh : hinge < 2) (hlo : 4 ≤ log2n) (hhi : log2n ≤ 20) :
    d.writeNevCfg p (nevRingOn mask hinge log2n) = d.setReg (rNevRcfg p) (nevRingOn mask hinge log2n) := by
  obtain ⟨hen, hmask, hhinge, hlog⟩ := nevRingOn_fields hm hh (by omega : log2n < 32)
  have hold : bit (d.reg (rNevRcfg p)) 31 = false := hoff
  rw [Dev.writeNevCfg, hold, hen, hmask, hhinge, hlog]
  simp [nevRingOn, hlo, hhi, b2n]

/-! ## Captures and counters (R123) -/

/-- Whether p holds its facets is read off its sectors and the contexts. -/
theorem Dev.live_of_cfg {d e : Dev} {p : Nat} (hc : e.ctxs = d.ctxs) (hr : e.reg (rPrtCfg p) = d.reg (rPrtCfg p)) :
    e.live p = d.live p := by
  unfold Dev.live Dev.ctxsOf Dev.ctxNum Dev.holds Dev.sectors Dev.fld Dev.ctx
  rw [hc, hr]

/-- The captures of p are free, and the overflow bits of its counters clear. -/
def Dev.clearCaptures (d : Dev) (p : Nat) : Dev :=
  forN 6 (fun k d => (d.setFlag (rNevCap p k) 127 false).setFlag (rNevCnt p k) 63 false) d

/-- The partitions' own registers lie below those of numeric events. -/
theorem Dev.clearCaptures_live (d : Dev) {p : Nat} (hp : p < 16) : (d.clearCaptures p).live p = d.live p := by
  have hcleared : (d.clearCaptures p).ctxs = d.ctxs ∧ (d.clearCaptures p).reg (rPrtCfg p) = d.reg (rPrtCfg p) := by
    refine forN_keeps (fun e : Dev => e.ctxs = d.ctxs ∧ e.reg (rPrtCfg p) = d.reg (rPrtCfg p)) 6 _ d ⟨rfl, rfl⟩ ?_
    intro k e ⟨hc, hr⟩
    have hcap : rPrtCfg p ≠ rNevCap p k := by unfold rPrtCfg rNevCap; omega
    have hcnt : rPrtCfg p ≠ rNevCnt p k := by unfold rPrtCfg rNevCnt; omega
    rw [Dev.setFlag_ctxs, Dev.setFlag_ctxs, Dev.reg_setFlag_other _ _ _ _ _ hcnt, Dev.reg_setFlag_other _ _ _ _ _ hcap]
    exact ⟨hc, hr⟩
  exact Dev.live_of_cfg hcleared.1 hcleared.2

/-! ## Seeds of the generators (R130) -/

/-- Writing n consecutive indices of a sparse array. -/
theorem NatMap.get_forN_set (m : NatMap) (g : Nat → Nat) (lo n k : Nat) :
    (forN n (fun l (m : NatMap) => m.set (lo + l) (g (lo + l))) m).get k =
      if lo ≤ k ∧ k < lo + n then g k else m.get k := by
  induction n with
  | zero => exact (if_neg (by omega)).symm
  | succ n ih =>
    unfold forN at ih ⊢
    rw [List.range_succ, List.foldl_append, List.foldl_cons, List.foldl_nil]
    by_cases hk : k = lo + n
    · rw [hk, if_pos (by omega)]
      exact alGet_alSet_same 0 _ _ _
    · rw [NatMap.get_set_other _ _ _ _ hk, ih]
      exact ite_congr (propext (by omega)) (fun _ => rfl) fun _ => rfl

/-- The generators of the 512 lanes of facet f hold what g gives their places. -/
def Dev.seedFacet (g : Nat → Nat) (f : Nat) (d : Dev) : Dev :=
  { d with rng := forN 512 (fun l (m : NatMap) => m.set (f * 512 + l) (g (f * 512 + l))) d.rng }

theorem Dev.seedFacet_rng (g : Nat → Nat) (f : Nat) (d : Dev) (k : Nat) :
    (d.seedFacet g f).rng.get k = if k / 512 = f then g k else d.rng.get k := by
  unfold Dev.seedFacet
  rw [NatMap.get_forN_set]
  exact ite_congr (propext (by omega)) (fun _ => rfl) fun _ => rfl

/-- The generators of facets of a list are seeded, whatever their order. -/
theorem Dev.seedFacets_rng (g : Nat → Nat) (fs : List Nat) (d : Dev) (k : Nat) :
    (forL fs (Dev.seedFacet g) d).rng.get k = if k / 512 ∈ fs then g k else d.rng.get k := by
  induction fs generalizing d with
  | nil => rfl
  | cons f fs ih =>
    rw [forL, List.foldl_cons, ← forL, ih, Dev.seedFacet_rng]
    by_cases hfs : k / 512 ∈ fs
    · rw [if_pos hfs, if_pos (List.mem_cons_of_mem f hfs)]
    · rw [if_neg hfs]
      exact ite_congr (propext (by simp only [List.mem_cons, hfs, or_false])) (fun _ => rfl) fun _ => rfl

/-- The generator at place k (facet times 512 plus lane) as RNG_SEED leaves it: the seed as key, the stream and the place in
the counter. -/
def seededGen (seed stream k : Nat) : Nat := (stream * 2 ^ 96 + k * 2 ^ 64) * 2 ^ 64 + seed

end Sys2Proof.Machine

namespace Sys2Proof

open Machine

/-! ## The rows of numeric events -/

/-- The parameters of NEV_CONFIG (Table 06-9). -/
def nevSpec : List PKind := [.num 1, .num 1, .num 1, .num 8, .num 1]

section

variable {st : State} {q : QueueN} {c : FetchedCmd} {e : Dev} (hr : st.dev.sys.railsUp = true)

include hr

theorem exec_nevRingRecordLand (r : PartN) {b : List Byte} {bs : List (List Byte)}
    (h : alGet [] st.dev.nevRing r.val = b :: bs) :
    let d := st.dev
    let head := d.reg (rNevRhead r.val)
    let n := 2 ^ d.fld (rNevRcfg r.val) 4 0
    let rest : Dev := { d with nevRing := alSet [] d.nevRing r.val bs }
    exec (.nevRingRecordLand r) st = .next (withDev st (if diff32 head (d.reg (rNevRtail r.val)) = n then
      rest.bump (rNevRdrop r.val) else (rest.rimPut (placeBytes (d.reg (rNevRbase r.val) + head % n * 32) b)).setReg
        (rNevRhead r.val) ((head + 1) % 2 ^ 32))) := by
  intro d head n rest
  change execNevRingRecordLand r st = _
  rw [execNevRingRecordLand, State.act_eq _ _ hr]
  dsimp only
  rw [h]
  rfl

variable (hp : c.part < 16) (hv : e.partValid c.part = true)

include hp hv

theorem exec_nevConfig (h : Accepted st.dev q 0x201 nevSpec c e) (hon : (c.params nevSpec).at 0 = 1)
    (hm : (c.params nevSpec).at 1 < 256) (hh : (c.params nevSpec).at 2 < 2) (ha : (c.params nevSpec).at 3 < 2 ^ 48)
    (halign : (c.params nevSpec).at 3 % 4096 = 0) (hlo : 4 ≤ (c.params nevSpec).at 4) (hhi : (c.params nevSpec).at 4 ≤ 20)
    (hoff : e.flag (rNevRcfg c.part) 31 = false) :
    exec (.nevConfig q) st = .next (withDev st (((((e.setReg (rNevRbase c.part) ((c.params nevSpec).at 3)).setReg
      (rNevRhead c.part) 0).setReg (rNevRtail c.part) 0).setReg (rNevRcfg c.part)
        (nevRingOn ((c.params nevSpec).at 1) ((c.params nevSpec).at 2) ((c.params nevSpec).at 4))).done (began c))) := by
  refine (h.act_eq hr _ _ (firstBad_eq_none.2 (by simp; omega))).trans ?_
  have hbase : (e.setReg (rNevRbase c.part) ((c.params nevSpec).at 3)).flag (rNevRcfg c.part) 31 = false :=
    (e.flag_setReg_other _ _ _ _ (by unfold rNevRcfg rNevRbase; omega)).trans hoff
  have hcounts : (((e.setReg (rNevRbase c.part) ((c.params nevSpec).at 3)).setReg (rNevRhead c.part) 0).setReg
      (rNevRtail c.part) 0).flag (rNevRcfg c.part) 31 = false := by
    rw [Dev.flag_setReg_other _ _ _ _ _ (by unfold rNevRcfg rNevRtail; omega),
      Dev.flag_setReg_other _ _ _ _ _ (by unfold rNevRcfg rNevRhead; omega), hbase]
  rw [Dev.onPart_valid (c := began c) hp hv]
  dsimp only
  rw [began_part, Dev.writeNevBase_idle hoff ha halign, hbase, if_neg Bool.false_ne_true, hcounts, hon, halign,
    if_pos (by omega : (c.params nevSpec).at 4 < 32), ← Dev.writeNevCfg_on hcounts hm hh hlo hhi]
  simp [b2n, nevRingOn]

theorem exec_nevClear (hl : e.live c.part = true) (h : Accepted st.dev q 0x202 [] c e) :
    exec (.nevClear q) st = .next (withDev st ((forL ((e.clearCaptures c.part).facetsOf c.part)
      (fun f (d : Dev) => d.setFld (rFctNev f) 5 0 0) (e.clearCaptures c.part)).done (began c))) := by
  refine (h.act_eq hr noBad _ rfl).trans ?_
  rw [Dev.onPart_valid (c := began c) hp hv]
  have hlive := (e.clearCaptures_live hp).trans hl
  exact congrArg (fun d : Dev => Host.Outcome.next (withDev st (d.done (began c)))) (Dev.withImage_live hlive _)

theorem exec_rngSeed (hl : e.live c.part = true) (hq : e.quiet c.part = true)
    (h : Accepted st.dev q 0x203 [.num 8, .num 4] c e) :
    exec (.rngSeed q) st = .next (withDev st ((forL (e.facetsOf c.part) (Dev.seedFacet
      (seededGen ((c.params [.num 8, .num 4]).at 0) ((c.params [.num 8, .num 4]).at 1))) e).done (began c))) := by
  refine (h.act_eq hr noBad _ rfl).trans ?_
  rw [Dev.onPart_valid (c := began c) hp hv]
  dsimp only
  rw [began_part, hq, Bool.not_true, if_neg Bool.false_ne_true, Dev.withImage_live hl]
  rfl

end

/-- Settles O33: the ring is idle, so RBASE and LOG2N are taken; the partition holds its facets, so its flags and generators
are those of the device; and a record lands unless the ring is full. -/
theorem numericEventCommands : Obligations.NumericEventCommands := by
  intro st q c e r hr p
  refine ⟨fun hp hv => ⟨exec_nevConfig hr hp hv, exec_nevClear hr hp hv, fun hl hq h => ?_⟩, fun b bs h => ?_⟩
  · refine ⟨_, exec_rngSeed hr hp hv hl hq h, rfl, fun f l hf hlane => ?_⟩
    have hplace : (f * 512 + l) / 512 = f := by omega
    refine (congrArg (NatMap.get · (f * 512 + l)) (Dev.noted_done _ _ _).rng).trans ?_
    refine (Dev.seedFacets_rng _ _ _ _).trans ((if_pos (hplace.symm ▸ hf)).trans ?_)
    unfold seededGen
    omega
  · have hland := exec_nevRingRecordLand hr r h
    exact ⟨fun hroom => hland.trans (by rw [if_neg hroom]), fun hfull => hland.trans (by rw [if_pos hfull])⟩

end Sys2Proof

/-! PROOFS (08_vision_operators.md, family of the vision operators): what a cycle can add to what is on its way. -/

namespace Sys2Proof.Machine

/-! ## What comes about in a cycle adds nothing to that cycle -/

/-- From d to e the box units keep their jobs, and what is on its way in e was so in d or is due after cycle c. -/
structure Dev.Landed (c : Nat) (d e : Dev) : Prop where
  box : e.box = d.box
  inflight : ∀ h n, ∀ x ∈ (e.ctx h n).inflight, x ∈ (d.ctx h n).inflight ∨ c < x.due

theorem Dev.Landed.refl (c : Nat) (d : Dev) : d.Landed c d := ⟨rfl, fun _ _ _ hx => .inl hx⟩

theorem Dev.Landed.trans {c : Nat} {d e g : Dev} (a : d.Landed c e) (b : e.Landed c g) : d.Landed c g :=
  ⟨b.box.trans a.box, fun h n x hx => (b.inflight h n x hx).elim (a.inflight h n x) .inr⟩

theorem Dev.Landed.of_ctxs {c : Nat} {d e : Dev} (hb : e.box = d.box) (hc : e.ctxs = d.ctxs) : d.Landed c e := by
  refine ⟨hb, fun h n x hx => .inl ?_⟩
  rwa [Dev.ctx, ← hc]

theorem Dev.Landed.of_noted {c : Nat} {d e : Dev} (hn : d.Noted e) : d.Landed c e :=
  ⟨by rw [hn.rest]; rfl, fun h n _ hx => .inl ((Dev.Still.of_noted hn h n).inflight ▸ hx)⟩

/-- A context may be replaced by one that has nothing more on its way in cycle c. -/
theorem Dev.landed_setCtx (c : Nat) (d : Dev) (h n : Nat) (y : Ctx)
    (hy : ∀ x ∈ y.inflight, x ∈ (d.ctx h n).inflight ∨ c < x.due) : d.Landed c (d.setCtx h n y) := by
  refine ⟨rfl, fun h' n' x hx => ?_⟩
  by_cases he : h' * 8 + n' = h * 8 + n
  · rw [Dev.ctx_key _ h n h' n' he, Dev.ctx_setCtx_same] at hx
    rw [Dev.ctx_key d h n h' n' he]
    exact hy x hx
  · rw [Dev.ctx_setCtx_other d h n h' n' y he] at hx
    exact .inl hx

theorem Dev.landed_later {c due : Nat} (hc : c < due) (d : Dev) (h n : Nat) (e : Effect) :
    d.Landed c (d.later h n due e) := by
  refine d.landed_setCtx c h n _ fun x hx => (List.mem_append.1 hx).imp_right fun hx => ?_
  rw [List.mem_singleton.1 hx]
  exact hc

theorem Dev.landed_forL {β : Type} (c : Nat) (l : List β) (f : β → Dev → Dev) (d : Dev)
    (hf : ∀ (b : β) (e : Dev), e.Landed c (f b e)) : d.Landed c (forL l f d) :=
  forL_keeps (fun e => d.Landed c e) l f d (.refl c d) fun b _ e he => he.trans (hf b e)

theorem Dev.landed_passTime (c : Nat) (d : Dev) (h k : Nat) : d.Landed c (d.passTime h k) := by
  unfold Dev.passTime
  refine forN_keeps (fun e => d.Landed c e) 8 _ d (.refl c d) fun n e he => he.trans ?_
  dsimp only
  split
  · exact .refl c e
  · exact e.landed_setCtx c h n _ fun _ hx => .inl hx

theorem Dev.landed_collide (c : Nat) (d : Dev) (i : Issue) (bs : List BankAcc) : d.Landed c (d.collide i bs) := by
  unfold Dev.collide
  dsimp only
  generalize hc : forL (accFacets bs) _ d = claimed
  have hclaimed : d.Landed c claimed := hc ▸ d.landed_forL c _ _ fun _ _ => .of_ctxs rfl rfl
  split
  · exact hclaimed
  · have hhemi (x : HemiSt) : claimed.Landed c (claimed.setHemi i.h x) := .of_ctxs rfl rfl
    refine Dev.Landed.trans ?_ (.of_noted (Dev.noted_tfault _ _ _ _ _ _ _))
    refine Dev.Landed.trans ?_ (.of_noted (Dev.noted_countStall _ _ _ _))
    refine Dev.Landed.trans ?_ (.of_noted (Dev.noted_bump _ _ _))
    exact (hclaimed.trans (hhemi _)).trans (Dev.landed_passTime c _ _ _)

theorem Work.landed_close (c : Nat) (w : Work) (i : Issue) (qs qb : Nat) : w.1.Landed c (w.close i qs qb) := by
  unfold Work.close
  dsimp only
  refine Dev.Landed.trans ?_ (Dev.landed_forL c _ _ _ fun r e => .of_noted (e.noted_record r))
  refine Dev.Landed.trans ?_ (.of_noted (Dev.noted_raise _ _ _))
  refine Dev.Landed.trans ?_ (Dev.landed_setCtx c _ _ _ _ fun _ hx => .inl hx)
  refine Dev.Landed.trans ?_ (e := Dev.countBanks _ _) (.of_ctxs rfl rfl)
  refine Dev.Landed.trans ?_ (.of_noted (Dev.noted_countBanks _ _))
  exact (Dev.Landed.of_noted (Dev.noted_quietFault _ _ _ _ _)).trans (Dev.landed_collide c _ _ _)

/-! ## The effects, one by one -/

theorem Dev.landed_freeScales (c : Nat) (d : Dev) (a : AccSet) (steps : List KStep) :
    d.Landed c (d.freeScales a steps).1 := by
  unfold Dev.freeScales
  refine forL_keeps (fun (x : Dev × AccSet) => d.Landed c x.1) _ _ (d, a) (.refl c d) fun b _ x hx => ?_
  dsimp only
  split
  · exact hx
  · exact hx.trans (.of_ctxs rfl rfl)

theorem AccSet.landed_landStep (c : Nat) (d : Dev) (a : AccSet) (st : KStep) (l : Nat) :
    d.Landed c (AccSet.landStep d a st l).1 := by
  unfold AccSet.landStep
  dsimp only
  split
  · exact .refl c d
  · split
    · exact d.landed_freeScales c _ _
    · exact .refl c d

theorem Dev.landed_landProduct (c : Nat) (d : Dev) (f : Nat) (set clr : Bool) (steps : List KStep) (l : Nat)
    (site : NevSite) : d.Landed c (d.landProduct f set clr steps l site).1 := by
  have hset (e : Dev) (a : AccSet) : e.Landed c (e.setAcc f set a) := .of_ctxs rfl rfl
  unfold Dev.landProduct
  dsimp only
  refine Dev.Landed.trans ?_ (hset _ _)
  exact forL_keeps (fun (x : Dev × AccSet × List NevHit) => d.Landed c x.1) _ _ _ (.refl c d) fun _ _ _ hx =>
    hx.trans (AccSet.landed_landStep c _ _ _ _)

theorem Dev.landed_evalRng (c : Nat) (d : Dev) (f l : Nat) : d.Landed c (d.evalRng f l).2 := by
  have hrng (m : NatMap) : d.Landed c { d with rng := m } := .of_ctxs rfl rfl
  rw [Dev.evalRng_dev]
  exact (hrng _).trans (.of_noted (Dev.noted_countFacet _ _ _ _ _))

theorem Dev.landed_drainRow (c : Nat) (d : Dev) (j : DrainJob) (r : Nat) : d.Landed c (d.drainRow j r).1 := by
  unfold Dev.drainRow
  dsimp only
  refine forL_keeps (fun (x : Dev × List Nat × List (Ev × Nat × Nat)) => d.Landed c x.1) _ _ _ (.refl c d) fun b _ x hx => ?_
  dsimp only
  refine hx.trans ?_
  split
  · exact x.1.landed_evalRng c _ _
  · exact .refl c _

/-- A row that lands in cycle c puts the next one on its way for the cycle after. -/
theorem landed_landRow (c : Nat) (i : Issue) (j : DrainJob) (r : Nat) (w : Work) : w.1.Landed c (landRow i c j r w).1 := by
  have hwrite (d : Dev) (f : Nat) (bs : List (Nat × Byte)) : d.Landed c (d.lsWrite f bs) := .of_ctxs rfl rfl
  have hrow (bs : List (Nat × Byte)) := ((w.1.landed_drainRow c j r).trans (hwrite _ j.facet bs)).trans
    (.of_noted (Dev.noted_countFacet _ j.facet 5 noSub 1))
  unfold landRow
  dsimp only
  split
  · rw [Work.dev, Work.hit_dev, touch_dev]
    exact (hrow _).trans (Dev.landed_later (Nat.lt_succ_self c) _ _ _ _)
  · rw [Work.hit_dev, Work.hit_dev, touch_dev]
    exact hrow _

theorem Dev.landed_wedgeReady (c : Nat) (d : Dev) (f : Nat) : d.Landed c (d.wedgeReady f).1 := by
  unfold Dev.wedgeReady
  dsimp only
  split
  · exact .refl c d
  · exact .of_ctxs rfl rfl

theorem landed_landEffect (c : Nat) (i : Issue) (e : Effect) (w : Work) : w.1.Landed c (landEffect i c e w).1 := by
  cases e with
  | store f ord bidx a n bs =>
    unfold landEffect
    dsimp only
    rw [Work.dev, touch_dev]
    exact .of_ctxs rfl rfl
  | cond r m v => exact w.1.landed_setCtx c _ _ _ fun _ hx => .inl hx
  | product f set clr steps l site read => exact w.1.landed_landProduct c _ _ _ _ _ _
  | drainRow j r => exact landed_landRow c i j r w
  | wedgeReady f => exact w.1.landed_wedgeReady c _
  | _ => exact .of_ctxs rfl rfl

/-! ## A rank whose turn is over -/

theorem Dev.landed_takeDue (d : Dev) (h n c k : Nat) : d.Landed c (d.takeDue h n c k).2 :=
  d.landed_setCtx c h n _ fun _ hx => .inl (List.mem_filter.1 hx).1

theorem landTurn_landed (i : Issue) (c k : Nat) (w : Work) :
    (w.1.takeDue i.h i.n c k).2.Landed c (landTurn i c k w).1 :=
  forL_keeps (fun x : Work => (w.1.takeDue i.h i.n c k).2.Landed c x.1) _ _ _ (.refl c _) fun e _ x hx =>
    hx.trans (landed_landEffect c i e x)

theorem landTurns_landed (i : Issue) (c : Nat) (l : List Nat) (w : Work) : w.1.Landed c (forL l (landTurn i c) w).1 :=
  forL_keeps (fun x : Work => w.1.Landed c x.1) l _ w (.refl c _) fun k _ x hx =>
    hx.trans ((x.1.landed_takeDue i.h i.n c k).trans (landTurn_landed i c k x))

/-- What is still due in the cycle after the turn of rank k is of another rank. -/
theorem landTurn_clears {i : Issue} {c k : Nat} {w : Work} {x : Delayed}
    (hx : x ∈ ((landTurn i c k w).1.ctx i.h i.n).inflight) (hc : x.due = c) : x.eff.rank ≠ k := by
  have hleft := ((landTurn_landed i c k w).inflight _ _ x hx).resolve_right (by omega)
  simp only [Dev.takeDue, Dev.ctx_setCtx_same, List.mem_filter] at hleft
  simpa [hc] using hleft.2

/-- What is still due in the cycle after the turns of several ranks is of none of them. -/
theorem landTurns_clear {i : Issue} {c : Nat} (l : List Nat) (w : Work) :
    ∀ x ∈ ((forL l (landTurn i c) w).1.ctx i.h i.n).inflight, x.due = c → x.eff.rank ∉ l := by
  induction l generalizing w with
  | nil => exact fun _ _ _ => List.not_mem_nil
  | cons k l ih =>
    intro x hx hc
    have hmem := ((landTurns_landed i c l (landTurn i c k w)).inflight _ _ x hx).resolve_right (by omega)
    rw [List.mem_cons, not_or]
    exact ⟨landTurn_clears hmem hc, ih _ x hx hc⟩

/-! ## One op of a sector slot, in its cycle -/

/-- An op of a sector slot that may act: it acts on the device as the op finds it, and where it puts nothing on its way for
its own cycle, the rest of the cycle keeps what it leaves, box units included. -/
theorem Dev.siteOp_rest {d : Dev} {s : Site} (hok : d.siteOk s = true) {f : Issue → Work → Work}
    (hf : ∀ w, ∀ x ∈ ((f (d.issueOf s.c) w).1.ctx s.c.h.val s.c.n.val).inflight, x.due = (d.issueOf s.c).cyc →
      x ∈ (w.1.ctx s.c.h.val s.c.n.val).inflight) :
    ∃ w : Work, w.1 = atIssue d s.c 4 ∧ (f (d.issueOf s.c) w).1.Still s.c.h.val s.c.n.val (d.siteOp s 4 f) ∧
      (d.siteOp s 4 f).box = (f (d.issueOf s.c) w).1.box := by
  generalize hw : landRanks (d.issueOf s.c) (d.issueOf s.c).cyc 0 4
    (d.settle s.c.h.val s.c.n.val (d.issueOf s.c).cyc, {}) = w
  have hop : d.siteOp s 4 f =
      (landRanks (d.issueOf s.c) (d.issueOf s.c).cyc 0 4 (f (d.issueOf s.c) w)).close (d.issueOf s.c) 0 0 := by
    rw [Dev.siteOp, if_pos hok, ← hw]
    rfl
  have hrest := landTurns_none (i := d.issueOf s.c) (c := (d.issueOf s.c).cyc)
    ((List.range 5).filter fun k => decide (0 ≤ k)) (f (d.issueOf s.c) w) fun x hx hc => by
      have hbefore := hf w x hx hc
      rw [← hw, landRanks_turns] at hbefore
      exact landTurns_clear _ _ x hbefore hc
  refine ⟨w, by rw [← hw]; rfl, ?_, ?_⟩
  · rw [hop]
    exact hrest.1.trans (Work.still_close _ _ _ _ _ _)
  · rw [hop, (Work.landed_close 0 _ _ _ _).box, landRanks_turns, (landTurns_landed _ _ _ _).box]

end Sys2Proof.Machine

/-! PROOFS (08_vision_operators.md, family of the vision operators): the steps of the wedge engine and of the box unit. -/

namespace Sys2Proof.Machine

/-! ## The wedge engine (R157 to R160) -/

@[simp] theorem touchSpans_dev (i : Issue) (f ord : Nat) (spans : List (Nat × Nat)) (w : Work) :
    (touchSpans i f ord spans w).1 = w.1 := by
  unfold touchSpans
  dsimp only
  split <;> rfl

theorem wedgeRead_dev (i : Issue) (f : Nat) (t : WedgeTile) (n : Nat) (w : Work) : (wedgeRead i f t n w).2.1 = w.1 :=
  touchSpans_dev ..

/-- The tile whose pass a MAC step of facet f serves: the one in progress or, where its buffer is free, a new one (R157). -/
def Dev.passTile (d : Dev) (i : Issue) (o : WedgeOp) (f : Nat) : Option WedgeTile :=
  match (d.cell f).cur with
  | some t => some t
  | none =>
    if (d.cell f).tiles.any fun t => t.buf == (d.cell f).pass % 2 then none else
    some { steps := [], ready := none, out := [], written := 0, wo0 := bits (d.areg f o.ar.toNat) 15 0,
           ho := bits (d.areg f o.ar.toNat) 31 16, block := bits (d.areg f o.ar.toNat) 39 32,
           buf := (d.cell f).pass % 2, desc := d.wdesc f o.d.toNat, site := i.site 3 (f / 16 * 16) }

/-- The tile with what step `n` of its pass reads. -/
def macRead (i : Issue) (f n : Nat) (w : Work) (t : WedgeTile) : WedgeTile :=
  { t with steps := t.steps ++ [(wedgeRead i f t n w).1], site := i.site 3 (f / 16 * 16) }

/-- The device after a MAC step of facet f has counted. -/
def Dev.macCounted (d : Dev) (f : Nat) : Dev := d.countFacet f 0xD noSub 1

/-- Facet f's cell after the last MAC step of the pass of tile `t`, which is kept where it computes a channel. -/
def WedgeCell.passed (a : WedgeCell) (i : Issue) (t : WedgeTile) : WedgeCell :=
  { pass := a.pass + 1, step := 0, cur := none,
    tiles := if wdCh t.desc t.block != 0 then a.tiles ++ [{ t with ready := some (i.cyc + 20) }] else a.tiles }

/-- What a MAC step of facet f leaves in the device when it serves tile `t`. -/
def Dev.macTurn (d : Dev) (i : Issue) (f : Nat) (t : WedgeTile) (w : Work) : Dev :=
  if (d.cell f).step + 1 < wdSteps t.desc then
    (d.macCounted f).setCell f
      { d.cell f with step := (d.cell f).step + 1, cur := some (macRead i f (d.cell f).step w t) }
  else if wdCh t.desc t.block != 0 then
    ((d.macCounted f).setCell f ((d.cell f).passed i (macRead i f (d.cell f).step w t))).later i.h i.n (i.cyc + 20)
      (.wedgeReady f)
  else (d.macCounted f).setCell f ((d.cell f).passed i (macRead i f (d.cell f).step w t))

section

variable (i : Issue) (o : WedgeOp) (f : Nat) (w : Work)

theorem macStep_eq : (macStep i o f w).1 =
    match w.1.passTile i o f with
    | none => w.1
    | some t => w.1.macTurn i f t w := by
  have hstep : macStep i o f w =
      match w.1.passTile i o f with
      | none => wedgeErr i f o.d.toNat w
      | some t =>
        let u := (wedgeRead i f t (w.1.cell f).step w).2.dev fun d => d.macCounted f
        let u' := u.dev fun d => d.setCell f ((w.1.cell f).passed i (macRead i f (w.1.cell f).step w t))
        if (w.1.cell f).step + 1 < wdSteps t.desc then u.dev fun d => d.setCell f
          { w.1.cell f with step := (w.1.cell f).step + 1, cur := some (macRead i f (w.1.cell f).step w t) }
        else if wdCh t.desc t.block != 0 then i.later 20 (.wedgeReady f) u' else u' := rfl
  rw [hstep]
  split
  · rfl
  · simp only [Dev.macTurn, apply_ite Prod.fst, Issue.later, Work.dev, wedgeRead_dev]

/-- A write step does nothing where no tile is ready, and else writes bytes of the facet and changes its cell. -/
theorem writeStep_cases : (writeStep i o f w).1 = w.1 ∨
    ∃ bs c, (writeStep i o f w).1 = (w.1.lsWrite f bs).setCell f c := by
  unfold writeStep
  dsimp only
  split
  case h_1 => exact .inl rfl
  case h_2 =>
    split
    case h_2 => exact .inl rfl
    case h_1 =>
      split
      · exact .inl rfl
      · exact .inr ⟨_, _, by rw [Work.dev, touchSpans_dev]⟩

/-- What a facet's WEDGE keeps, if it is kept by what is reported, by a write of the facet's local store, by a change of its
cell and by a pass that will be ready. -/
theorem wedgeOn_keeps (P : Dev → Prop) (h0 : P w.1) (hnoted : ∀ d e : Dev, P d → d.Noted e → P e)
    (hwrite : ∀ d bs, P d → P (d.lsWrite f bs)) (hcell : ∀ d c, P d → P (d.setCell f c))
    (hlater : ∀ d, P d → P (d.later i.h i.n (i.cyc + 20) (.wedgeReady f))) : P (wedgeOn i o f w).1 := by
  have hcounted : P (w.1.macCounted f) := hnoted _ _ h0 (w.1.noted_countFacet f 0xD noSub 1)
  unfold wedgeOn
  split
  · exact h0
  · split
    · rcases writeStep_cases i o f w with h | ⟨bs, c, h⟩
      · exact h ▸ h0
      · exact h ▸ hcell _ _ (hwrite _ _ h0)
    · rw [macStep_eq]
      split
      · exact h0
      · unfold Dev.macTurn
        split
        · exact hcell _ _ hcounted
        · split
          · exact hlater _ (hcell _ _ hcounted)
          · exact hcell _ _ hcounted

end

/-! ## A step of one facet's cell -/

@[simp] theorem Dev.cell_setCell_same (d : Dev) (f : Nat) (c : WedgeCell) : (d.setCell f c).cell f = c :=
  alGet_alSet_same ..

theorem Dev.cell_setCell_other (d : Dev) {f g : Nat} (h : g ≠ f) (c : WedgeCell) : (d.setCell f c).cell g = d.cell g :=
  alGet_alSet_other _ _ _ _ _ h

@[simp] theorem Dev.cell_later (d : Dev) (h n due : Nat) (e : Effect) (f : Nat) : (d.later h n due e).cell f = d.cell f := rfl

/-- The cell of a facet after a write step of its oldest tile x (R159). -/
def WedgeCell.wrote (a : WedgeCell) (x : WedgeTile) (rest : List WedgeTile) : WedgeCell :=
  { a with tiles := if wdWrites x.desc x.block ≤ x.written + 1 then rest
      else { x with written := x.written + 1 } :: rest }

section

variable {i : Issue} {o : WedgeOp} {f : Nat} {w : Work}

theorem writeStep_cell {x : WedgeTile} {rest : List WedgeTile} {r : Nat} (ht : (w.1.cell f).tiles = x :: rest)
    (hr : x.ready = some r) (hc : r ≤ i.cyc) : (writeStep i o f w).1.cell f = (w.1.cell f).wrote x rest := by
  unfold writeStep
  simp [ht, hr, hc, Work.dev, WedgeCell.wrote]

variable {t : WedgeTile}

theorem macStep_serves (ht : w.1.passTile i o f = some t) : (macStep i o f w).1 = w.1.macTurn i f t w := by
  rw [macStep_eq, ht]

theorem Dev.macTurn_within (hs : (w.1.cell f).step + 1 < wdSteps t.desc) :
    (w.1.macTurn i f t w).cell f =
      { w.1.cell f with step := (w.1.cell f).step + 1, cur := some (macRead i f (w.1.cell f).step w t) } := by
  rw [Dev.macTurn, if_pos hs, Dev.cell_setCell_same]

theorem Dev.macTurn_last (hs : ¬ (w.1.cell f).step + 1 < wdSteps t.desc) :
    (w.1.macTurn i f t w).cell f = (w.1.cell f).passed i (macRead i f (w.1.cell f).step w t) := by
  rw [Dev.macTurn, if_neg hs]
  split
  · rw [Dev.cell_later, Dev.cell_setCell_same]
  · rw [Dev.cell_setCell_same]

theorem Dev.macTurn_ready (hs : ¬ (w.1.cell f).step + 1 < wdSteps t.desc) (hch : wdCh t.desc t.block ≠ 0) :
    (⟨i.cyc + 20, .wedgeReady f⟩ : Delayed) ∈ ((w.1.macTurn i f t w).ctx i.h i.n).inflight := by
  rw [Dev.macTurn, if_neg hs, if_pos (bne_iff_ne.2 hch)]
  exact Dev.mem_later ..

end

/-- A pass is in progress or may begin: its tile has the descriptor and the block of the pass in progress, or else those that
the issue names. -/
theorem Dev.passTile_some {d : Dev} {i : Issue} {o : WedgeOp} {f : Nat}
    (h : (d.cell f).cur.isSome = true ∨ ((d.cell f).tiles.any fun x => x.buf == (d.cell f).pass % 2) = false) :
    ∃ t, d.passTile i o f = some t ∧
      t.desc = (match (d.cell f).cur with | some x => x.desc | none => d.wdesc f o.d.toNat) ∧
      t.block = (match (d.cell f).cur with | some x => x.block | none => bits (d.areg f o.ar.toNat) 39 32) := by
  unfold Dev.passTile
  cases hcur : (d.cell f).cur with
  | some x => exact ⟨x, rfl, rfl, rfl⟩
  | none =>
    have hfree := h.resolve_left (by simp [hcur])
    simp [hfree]

/-! ## The facets of a site, each by itself -/

/-- From d to e nothing that a wedge step of facet f reads besides local store changes, and all that is due after cycle k
stays on its way. -/
structure Dev.KeepsFacet (k f : Nat) (d e : Dev) : Prop where
  cell : e.cell f = d.cell f
  aregs : e.aregs = d.aregs
  wds : e.wds = d.wds
  carries : Dev.Carries k d e

theorem Dev.KeepsFacet.refl (k f : Nat) (d : Dev) : d.KeepsFacet k f d := ⟨rfl, rfl, rfl, .refl k d⟩

theorem Dev.KeepsFacet.trans {k f : Nat} {d e g : Dev} (a : d.KeepsFacet k f e) (b : e.KeepsFacet k f g) :
    d.KeepsFacet k f g :=
  ⟨b.cell.trans a.cell, b.aregs.trans a.aregs, b.wds.trans a.wds, a.carries.trans b.carries⟩

theorem Dev.KeepsFacet.of_noted {k f : Nat} {d e : Dev} (hn : d.Noted e) : d.KeepsFacet k f e := by
  refine ⟨?_, ?_, ?_, .of_noted hn⟩ <;> rw [hn.rest] <;> rfl

/-- WEDGE in one facet leaves the cell of another alone. -/
theorem wedgeOn_keepsFacet (k : Nat) (i : Issue) (o : WedgeOp) {f g : Nat} (h : g ≠ f) (w : Work) :
    w.1.KeepsFacet k g (wedgeOn i o f w).1 :=
  wedgeOn_keeps i o f w (fun e => w.1.KeepsFacet k g e) (.refl k g _) (fun _ _ a hn => a.trans (.of_noted hn))
    (fun _ _ a => a.trans ⟨rfl, rfl, rfl, .of_ctxs rfl⟩)
    (fun d c a => a.trans ⟨d.cell_setCell_other h c, rfl, rfl, .of_ctxs rfl⟩)
    (fun d a => a.trans ⟨rfl, rfl, rfl, d.carries_later k _ _ _ _⟩)

/-- WEDGE in a facet puts nothing on its way for its own cycle. -/
theorem wedgeOn_landed (i : Issue) (o : WedgeOp) (f : Nat) (w : Work) : w.1.Landed i.cyc (wedgeOn i o f w).1 :=
  wedgeOn_keeps i o f w (fun e => w.1.Landed i.cyc e) (.refl _ _) (fun _ _ a hn => a.trans (.of_noted hn))
    (fun _ _ a => a.trans (.of_ctxs rfl rfl)) (fun _ _ a => a.trans (.of_ctxs rfl rfl))
    (fun _ a => a.trans (Dev.landed_later (by omega) _ _ _ _))

/-- In a loop over distinct things whose turns leave each other's state alone, the turn of each starts in what the loop
started in, as far as it is concerned, and what it leaves stands after the loop. -/
theorem forL_turn {β γ : Type} {l : List β} (hl : l.Nodup) (f : β → γ → γ) (a : γ) (R : β → γ → γ → Prop)
    (hrefl : ∀ b x, R b x x) (htrans : ∀ b x y z, R b x y → R b y z → R b x z)
    (hother : ∀ b b' x, b' ≠ b → R b x (f b' x)) {b : β} (hb : b ∈ l) :
    ∃ x, R b a x ∧ R b (f b x) (forL l f a) := by
  obtain ⟨l₁, l₂, rfl⟩ := List.append_of_mem hb
  obtain ⟨-, htail, hdisj⟩ := List.nodup_append.1 hl
  have hne₁ : b ∉ l₁ := fun h => hdisj b h b List.mem_cons_self rfl
  have hne₂ : b ∉ l₂ := (List.nodup_cons.1 htail).1
  have hrest (m : List β) (hm : b ∉ m) (x : γ) : R b x (forL m f x) :=
    forL_keeps (fun y => R b x y) m f x (hrefl b x) fun b' hb' y hy =>
      htrans b x y _ hy (hother b b' y fun he => hm (he ▸ hb'))
  refine ⟨forL l₁ f a, hrest l₁ hne₁ a, ?_⟩
  have happend : forL (l₁ ++ b :: l₂) f a = forL l₂ f (f b (forL l₁ f a)) := by simp [forL]
  rw [happend]
  exact hrest l₂ hne₂ _

/-- WEDGE at a site that may act: each facet of the site takes its step from what it held as the op came, and what the step
leaves in its cell and on its way for later stands after the cycle. -/
theorem Dev.wedge_turn {d : Dev} {s : Site} (hok : d.siteOk s = true) (o : WedgeOp) {f : Nat} (hf : f ∈ siteFacets s) :
    ∃ w : Work, (atIssue d s.c 4).KeepsFacet (d.issueOf s.c).cyc f w.1 ∧
      (d.siteOp s 4 fun i => siteEach s (wedgeOn i o)).cell f = (wedgeOn (d.issueOf s.c) o f w).1.cell f ∧
      ∀ x : Delayed, (d.issueOf s.c).cyc < x.due →
        x ∈ ((wedgeOn (d.issueOf s.c) o f w).1.ctx s.c.h.val s.c.n.val).inflight →
        x ∈ ((d.siteOp s 4 fun i => siteEach s (wedgeOn i o)).ctx s.c.h.val s.c.n.val).inflight := by
  have hlanded (w : Work) : w.1.Landed (d.issueOf s.c).cyc (siteEach s (wedgeOn (d.issueOf s.c) o) w).1 :=
    forL_keeps (fun x : Work => w.1.Landed (d.issueOf s.c).cyc x.1) _ _ w (.refl _ _) fun g _ x hx =>
      hx.trans (wedgeOn_landed _ o g x)
  obtain ⟨w₀, hw₀, hstill, -⟩ := Dev.siteOp_rest hok (f := fun i => siteEach s (wedgeOn i o)) fun w x hx hc =>
    ((hlanded w).inflight _ _ x hx).resolve_right (by omega)
  obtain ⟨w, hbefore, hafter⟩ := forL_turn (siteFacets_nodup s) (wedgeOn (d.issueOf s.c) o) w₀
    (fun g x y => x.1.KeepsFacet (d.issueOf s.c).cyc g y.1) (fun g x => .refl _ g x.1) (fun _ _ _ _ a b => a.trans b)
    (fun g g' x h => wedgeOn_keepsFacet _ _ o h.symm x) hf
  refine ⟨w, hw₀ ▸ hbefore, ?_, fun x hx hm => ?_⟩
  · rw [← hafter.cell, Dev.cell, hstill.cells]
    rfl
  · rw [hstill.inflight]
    exact hafter.carries _ _ x hx hm

end Sys2Proof.Machine

/-! PROOFS (08_vision_operators.md, family of the vision operators): the first step of a job of the box unit. -/

namespace Sys2Proof.Machine

/-! ## The jobs of the box units (R161, R164) -/

theorem alPut_find {α : Type} (m : List (Nat × α)) (k : Nat) (x : α) :
    (alPut m k x).find? (fun e => e.1 == k) = some (k, x) := by
  induction m with
  | nil => simp [alPut]
  | cons e m ih =>
    unfold alPut
    split
    · simp
    · split
      · simp
      · next hne => rw [List.find?_cons_of_neg (by simpa using fun h : e.1 = k => hne h.symm), ih]

theorem Dev.boxJob_of_box {d e : Dev} (h : e.box = d.box) (n : Nat) : e.boxJob n = d.boxJob n := by
  rw [Dev.boxJob, h, Dev.boxJob]

@[simp] theorem Dev.boxJob_setBoxJob_same (d : Dev) (h : Nat) (j : BoxJob) : (d.setBoxJob h (some j)).boxJob h = some j := by
  simp [Dev.boxJob, Dev.setBoxJob, alPut_find]

theorem boxRead_dev (i : Issue) (v b base k n : Nat) (w : Work) : (boxRead i v b base k n w).2.1 = w.1 := by
  unfold boxRead
  dsimp only
  split
  · rfl
  · rw [touchSpans_dev]

/-- A fetch adds to the words that a job has read, and leaves the device alone. -/
theorem boxFetch_reads (i : Issue) (j : BoxJob) (s : Nat) (w : Work) :
    (∃ scr dlt anc, (boxFetch i j s w).1 = { j with scr, dlt, anc }) ∧ (boxFetch i j s w).2.1 = w.1 := by
  unfold boxFetch
  dsimp only
  split
  · exact ⟨⟨_, _, _, rfl⟩, by rw [boxRead_dev, boxRead_dev]⟩
  · split
    · exact ⟨⟨_, _, _, rfl⟩, by rw [boxRead_dev]⟩
    · exact ⟨⟨_, _, _, rfl⟩, rfl⟩

/-- What a step of a job writes is local store. -/
theorem boxWrite_ctxs (i : Issue) (j : BoxJob) (n : Nat) (w : Work) : (boxWrite i j n w).1.ctxs = w.1.ctxs := by
  have hwritten (d : Dev) (f : Nat) (bs : List (Nat × Byte)) : (d.lsWrite f bs).ctxs = d.ctxs := rfl
  unfold boxWrite
  dsimp only
  split
  · rfl
  · split
    · rw [Work.hit_dev, Work.dev, touchSpans_dev, hwritten]
    · rw [Work.dev, touchSpans_dev, hwritten]

/-- A job with its output, which the first of its writing steps forms. -/
def BoxJob.formed (j : BoxJob) : BoxJob :=
  if j.done = bxSteps j.desc - (ceilDiv (bxMaxOut j.desc) 2 + 1) then
    { j with out := j.output.1, hits := hitsOf j.site [(j.output.2, 0, 0)] }
  else j

theorem BoxJob.formed_eq (j : BoxJob) : ∃ out hits, j.formed = { j with out, hits } := by
  unfold BoxJob.formed
  split
  · exact ⟨_, _, rfl⟩
  · exact ⟨_, _, rfl⟩

/-- A step that is not a job's last counts, and may add to what the job has read and to its output. -/
theorem boxStep_within {i : Issue} {j : BoxJob} (hs : j.done + 1 < bxSteps j.desc) (w : Work) :
    ∃ u : Dev, ∃ scr dlt anc out hits, (boxStep i j w).1 =
      u.setBoxJob i.h (some { j with scr, dlt, anc, out, hits, done := j.done + 1 }) := by
  obtain ⟨⟨scr, dlt, anc, hread⟩, -⟩ := boxFetch_reads i j j.done w
  obtain ⟨out, hits, hform⟩ := ({ j with scr, dlt, anc } : BoxJob).formed_eq
  have hstep : ∃ u : Dev, (boxStep i j w).1 = u.setBoxJob i.h
      (if bxSteps j.desc ≤ ({ j with scr, dlt, anc } : BoxJob).formed.done + 1 then none
       else some { ({ j with scr, dlt, anc } : BoxJob).formed with
         done := ({ j with scr, dlt, anc } : BoxJob).formed.done + 1 }) := by
    unfold boxStep
    dsimp only
    rw [hread]
    exact ⟨_, rfl⟩
  obtain ⟨u, hu⟩ := hstep
  rw [hform, if_neg (Nat.not_le.2 hs)] at hu
  exact ⟨u, _, _, _, _, _, hu⟩

/-- The job that a BOX issue of sector slot `slot` begins with descriptor `dn` of facet f (R161). -/
def Dev.newBoxJob (d : Dev) (i : Issue) (slot dn f : Nat) : BoxJob where
  slot := slot
  d := dn
  facet := f
  desc := d.wdesc f dn
  done := 0
  scr := []
  dlt := []
  anc := []
  out := []
  hits := []
  site := i.site 4 (facetOf i.h slot 0)

/-- An idle box unit begins a job, and takes its first step in the same issue. -/
theorem boxIssue_begins {i : Issue} {slot dn f : Nat} {fs : List Nat} {w : Work} (hidle : w.1.boxJob i.h = none)
    (hkind : wdKind (w.1.wdesc f dn) ≠ 0)
    (hheld : ∀ k, k < 4 → w.1.holds i.p (i.h * 8 + bits (wdAt (w.1.wdesc f dn) (0x10 + k) 1) 6 4) = true) :
    boxIssue i slot dn (f :: fs) w = boxStep i (w.1.newBoxJob i slot dn f) w := by
  have hall : ((List.range 4).all fun k => w.1.holds i.p (i.h * 8 + bits (wdAt (w.1.wdesc f dn) (0x10 + k) 1) 6 4)) =
      true := List.all_eq_true.2 fun k hk => hheld k (List.mem_range.1 hk)
  unfold boxIssue
  dsimp only
  rw [hidle]
  dsimp only
  rw [hall, if_neg (by simp [hkind])]
  rfl

/-- A BOX issue puts nothing on its way. -/
theorem boxStep_ctxs (i : Issue) (j : BoxJob) (w : Work) : (boxStep i j w).1.ctxs = w.1.ctxs := by
  unfold boxStep
  exact (boxWrite_ctxs ..).trans (congrArg Dev.ctxs (boxFetch_reads i j j.done w).2)

theorem boxIssue_ctxs (i : Issue) (slot dn : Nat) (fs : List Nat) (w : Work) :
    (boxIssue i slot dn fs w).1.ctxs = w.1.ctxs := by
  unfold boxIssue
  split
  · rfl
  · split
    · split
      · rfl
      · exact boxStep_ctxs ..
    · dsimp only
      split
      · rfl
      · exact boxStep_ctxs ..

end Sys2Proof.Machine

/-! PROOFS (08_vision_operators.md, family of the vision operators): WEDGE and BOX. -/

namespace Sys2Proof

open Machine

section

variable {st : State} {s : Site} (hr : st.dev.sys.railsUp = true)

include hr

theorem exec_wedge (o : WedgeOp) :
    exec (.wedge s o) st = .next (withDev st (st.dev.siteOp s 4 fun i => siteEach s (wedgeOn i o))) :=
  State.act_eq st (fun d => d.siteOp s 4 fun i => siteEach s (wedgeOn i o)) hr

theorem exec_box (dn : BitVec 3) (hb : st.dev.holdsBox (st.dev.issueOf s.c).p s.c.h.val = true) :
    exec (.box s dn) st =
      .next (withDev st (st.dev.siteOp s 4 fun i => boxIssue i s.slot.val dn.toNat (siteFacets s))) := by
  have hheld : (!st.dev.holdsBox (st.dev.ctx s.c.h.val s.c.n.val).part s.c.h.val) = false := by
    rw [Bool.not_eq_false']
    exact hb
  refine (State.act_eq st (fun d => if !d.holdsBox (d.ctx s.c.h.val s.c.n.val).part s.c.h.val then d
    else d.siteOp s 4 fun i => boxIssue i s.slot.val dn.toNat (siteFacets s)) hr).trans ?_
  rw [hheld]
  rfl

end

section

/-! `e` is the device as the op finds it. -/

variable {d e : Dev} {s : Site} (hok : d.siteOk s = true) (he : atIssue d s.c 4 = e)

include hok he

/-- A MAC step of a facet whose pass goes on or may begin: within the pass it counts; the last step begins the next pass, and
the tile is on its way to be ready where it computes a channel (R157, R158). -/
theorem Dev.siteOp_macStep {o : WedgeOp} (hph : o.ph = false) {f : Nat} (hf : f ∈ siteFacets s) {t : WedgeTile}
    (hkind : wdKind (e.wdesc f o.d.toNat) ≠ 1)
    (ht : e.passTile (d.issueOf s.c) o f = some t) :
    let a := e.cell f
    let u := d.siteOp s 4 fun i => siteEach s (wedgeOn i o)
    if a.step + 1 < wdSteps t.desc then (u.cell f).pass = a.pass ∧ (u.cell f).step = a.step + 1
    else (u.cell f).pass = a.pass + 1 ∧ (u.cell f).step = 0 ∧ (u.cell f).cur = none ∧
      (wdCh t.desc t.block ≠ 0 → onItsWay u s.c ((d.issueOf s.c).cyc + 20) (.wedgeReady f)) := by
  intro a u
  subst he
  obtain ⟨w, hbefore, hcell, hway⟩ := Dev.wedge_turn hok o hf
  have hserves : w.1.passTile (d.issueOf s.c) o f = some t := by
    rw [← ht]
    unfold Dev.passTile Dev.areg Dev.wdesc
    rw [hbefore.cell, hbefore.aregs, hbefore.wds]
  have hturn : (wedgeOn (d.issueOf s.c) o f w).1 = w.1.macTurn (d.issueOf s.c) f t w := by
    have hmac : wdKind (w.1.wdesc f o.d.toNat) ≠ 1 := by rwa [Dev.wdesc, hbefore.wds]
    rw [wedgeOn, if_neg hmac, hph, if_neg Bool.false_ne_true, macStep_serves hserves]
  rw [hturn] at hcell hway
  have ha : w.1.cell f = a := hbefore.cell
  replace hcell : u.cell f = _ := hcell
  replace hway : ∀ x : Delayed, _ → _ → x ∈ (u.ctx s.c.h.val s.c.n.val).inflight := hway
  clear_value a u
  subst ha
  split
  next hs =>
    rw [hcell, Dev.macTurn_within hs]
    exact ⟨rfl, rfl⟩
  next hs =>
    rw [hcell, Dev.macTurn_last hs]
    have hready (hch : wdCh t.desc t.block ≠ 0) := Dev.macTurn_ready (i := d.issueOf s.c) hs hch
    exact ⟨rfl, rfl, rfl, fun hch => hway _ (Nat.lt_add_of_pos_right (by decide)) (hready hch)⟩

/-- A write step of a facet whose oldest tile is ready counts it written (R159). -/
theorem Dev.siteOp_writeStep {o : WedgeOp} (hph : o.ph = true) {f : Nat} (hf : f ∈ siteFacets s) {x : WedgeTile}
    {rest : List WedgeTile} {r : Nat} (hkind : wdKind (e.wdesc f o.d.toNat) ≠ 1)
    (ht : (e.cell f).tiles = x :: rest) (hx : x.ready = some r) (hc : r ≤ (d.issueOf s.c).cyc) :
    (d.siteOp s 4 fun i => siteEach s (wedgeOn i o)).cell f = (e.cell f).wrote x rest := by
  subst he
  obtain ⟨w, hbefore, hcell, -⟩ := Dev.wedge_turn hok o hf
  have hwrite : wdKind (w.1.wdesc f o.d.toNat) ≠ 1 := by rwa [Dev.wdesc, hbefore.wds]
  rw [← hbefore.cell] at ht ⊢
  rw [hcell, wedgeOn, if_neg hwrite, if_pos hph, writeStep_cell ht hx hc]

/-- A BOX issue that finds the unit idle leaves it with a job of the facet's descriptor, one step done (R161). -/
theorem Dev.siteOp_box {dn f : Nat} {fs : List Nat} (hf : siteFacets s = f :: fs)
    (hidle : e.boxJob s.c.h.val = none) (hkind : wdKind (e.wdesc f dn) ≠ 0)
    (hheld : ∀ k, k < 4 → e.holds (d.issueOf s.c).p
      (s.c.h.val * 8 + bits (wdAt (e.wdesc f dn) (0x10 + k) 1) 6 4) = true)
    (hs : 1 < bxSteps (e.wdesc f dn)) :
    ∃ scr dlt anc out hits,
      (d.siteOp s 4 fun i => boxIssue i s.slot.val dn (siteFacets s)).boxJob s.c.h.val =
        some { e.newBoxJob (d.issueOf s.c) s.slot.val dn f with scr, dlt, anc, out, hits, done := 1 } := by
  subst he
  obtain ⟨w, hw, -, hbox⟩ := Dev.siteOp_rest hok (f := fun i => boxIssue i s.slot.val dn (siteFacets s)) fun w x hx _ => by
    rwa [Dev.ctx, boxIssue_ctxs] at hx
  rw [← hw] at hidle hkind hheld hs ⊢
  obtain ⟨u, scr, dlt, anc, out, hits, hstep⟩ :=
    boxStep_within (i := d.issueOf s.c) (j := w.1.newBoxJob (d.issueOf s.c) s.slot.val dn f) hs w
  refine ⟨scr, dlt, anc, out, hits, (Dev.boxJob_of_box hbox _).trans ?_⟩
  rw [hf, boxIssue_begins hidle hkind hheld, hstep]
  exact u.boxJob_setBoxJob_same _ _

end

/-- Settles O14: the facets' cells are independent, so each facet of the site takes its step from what it held as the op came,
and nothing that the cycle still does changes a cell or the box unit. -/
theorem wedgeAndBoxSteps : Obligations.WedgeAndBoxSteps := by
  intro st s o dn hr hok d i
  have hd : atIssue st.dev s.c 4 = d := rfl
  clear_value d
  constructor
  · refine ⟨_, exec_wedge hr o, rfl, ?_⟩
    intro f hf a hkind
    constructor
    · intro hph hpass v b
      obtain ⟨t, ht, hdesc, hblock⟩ := Dev.passTile_some (i := i) (o := o) hpass
      have hv : t.desc = v := hdesc
      have hb : t.block = b := hblock
      clear_value v b
      subst hv hb
      exact Dev.siteOp_macStep hok hd hph hf hkind ht
    · intro hph x rest r ht hx hc
      exact Dev.siteOp_writeStep hok hd hph hf hkind ht hx hc
  · intro f fs hf hunit hidle hkind hheld hs
    obtain ⟨scr, dlt, anc, out, hits, hjob⟩ := Dev.siteOp_box hok hd hf hidle hkind hheld hs
    exact ⟨_, _, exec_box hr dn hunit, rfl, hjob, rfl, rfl, rfl, rfl, rfl⟩

end Sys2Proof

/-! PROOFS (09_memory_tiers.md, family of the memory tiers): granules that are read, merged and scrubbed, and a threshold that is
lowered. -/

namespace Sys2Proof.Machine

/-! ## Where no counter slot counts (R306, R307) -/

theorem Dev.countOn_uncounted {d : Dev} (h : uncounted d) (l : List PmuSlot) (evt : Nat) (sub : Nat → Bool) (p : Option Nat)
    (n : Nat) : d.countOn l evt sub p n = d := by
  unfold Dev.countOn
  rcases h with hfrozen | hnone
  · simp [hfrozen]
  · simp [hnone]

theorem Dev.countMem_uncounted {d : Dev} (h : uncounted d) (x c evt : Nat) (p : Option Nat) (n : Nat) :
    d.countMem x c evt p n = d := Dev.countOn_uncounted h ..

theorem uncounted_of_regs {d e : Dev} (h : uncounted d) (hr : e.regs = d.regs) : uncounted e := by
  rwa [uncounted, Dev.flag, Dev.reg_of_regs hr, hr]

theorem mem_alDrop {α : Type} {m : List (Nat × α)} {k : Nat} {e : Nat × α} (h : e ∈ alDrop m k) : e ∈ m := by
  induction m with
  | nil => exact h
  | cons y m ih =>
    rw [alDrop] at h
    grind

theorem mem_alPut {α : Type} {m : List (Nat × α)} {k : Nat} {x : α} {e : Nat × α} (h : e ∈ alPut m k x) :
    e = (k, x) ∨ e ∈ m := by
  induction m with
  | nil => exact .inl (List.mem_singleton.1 h)
  | cons y m ih =>
    rw [alPut] at h
    grind

/-- After a write a sparse array lists the value written and nothing else that is new. -/
theorem mem_alSet {α : Type} [DecidableEq α] {d : α} {m : List (Nat × α)} {k : Nat} {x : α} {e : Nat × α}
    (h : e ∈ alSet d m k x) : e = (k, x) ∨ e ∈ m := by
  unfold alSet at h
  split at h
  · exact .inr (mem_alDrop h)
  · exact mem_alPut h

theorem uncounted_rim {d : Dev} (h : uncounted d) (m : Memory) : uncounted { d with rim := m } := uncounted_of_regs h rfl

theorem uncounted_mem {d : Dev} (h : uncounted d) (m : Mem) : uncounted { d with mem := m } := uncounted_of_regs h rfl

theorem uncounted_setErrs {d : Dev} (h : uncounted d) (a : Nat) (e : SymErrs) : uncounted (d.setErrs a e) := uncounted_mem h _

/-- A write of a register outside the PMU starts no count. -/
theorem uncounted_setReg {d : Dev} (h : uncounted d) {off : Nat} (hoff : off < rPmuCtrl) (v : Nat) :
    uncounted (d.setReg off v) := by
  have hpmu : rPmuCtrl ≠ off := Nat.ne_of_gt hoff
  rcases h with hfrozen | hnone
  · exact .inl ((d.flag_setReg_other off v _ _ hpmu).trans hfrozen)
  · refine .inr (List.any_eq_false.2 fun e he => ?_)
    rcases mem_alSet he with rfl | he
    · have hslot : ¬ 0x3100000 ≤ off := by unfold rPmuCtrl at hoff; omega
      simp [slotCounts, hslot]
    · exact List.any_eq_false.1 hnone e he

theorem uncounted_bump {d : Dev} (h : uncounted d) {off : Nat} (hoff : off < rPmuCtrl) (n : Nat) : uncounted (d.bump off n) :=
  uncounted_setReg h hoff _

theorem Dev.countWrites_uncounted {d : Dev} (h : uncounted d) (bs : List (Nat × Byte)) : d.countWrites bs = d := by
  unfold Dev.countWrites
  split
  · rfl
  · refine forL_keeps (· = d) _ _ d rfl fun g _ e he => ?_
    subst he
    simp only [Dev.countMem_uncounted h, ite_self]

/-! ## Symbol errors of a read (R172) -/

/-- An error of a read stands beside those of other symbols, and changes the one of its own. -/
abbrev addErr (l : SymErrs) (e : Nat × BitVec 16) : SymErrs :=
  if l.any fun x => x.1 == e.1 then l.map fun x => if x.1 = e.1 then (x.1, x.2 ^^^ e.2) else x else l ++ [e]

theorem foldl_addErr (errs l : SymErrs) (h : ((l ++ errs).map fun e => e.1).Nodup) : errs.foldl addErr l = l ++ errs := by
  induction errs generalizing l with
  | nil => exact (List.append_nil l).symm
  | cons e errs ih =>
    have happart := (List.nodup_append.1 (List.map_append ▸ h)).2.2
    have hnew : addErr l e = l ++ [e] := if_neg fun hany => by
      obtain ⟨x, hx, hsame⟩ := List.any_eq_true.1 hany
      exact happart x.1 (List.mem_map_of_mem hx) e.1 List.mem_cons_self (beq_iff_eq.1 hsame)
    rw [List.foldl_cons, hnew, ih _ (List.append_cons l e errs ▸ h), ← List.append_cons]

/-- A granule without stored errors is read with those given, where they are errors of distinct symbols. -/
theorem filter_foldl_addErr {errs : SymErrs} (hin : ∀ e ∈ errs, e.1 < 42 ∧ e.2 ≠ 0) (hdistinct : (errs.map fun e => e.1).Nodup) :
    (((errs.filter fun e => e.1 < 42).foldl addErr []).filter fun e => e.2 != 0) = errs := by
  have hplace : (errs.filter fun e => e.1 < 42) = errs := List.filter_eq_self.2 fun e he => decide_eq_true (hin e he).1
  have hvalue : (errs.filter fun e => e.2 != 0) = errs := List.filter_eq_self.2 fun e he => bne_iff_ne.2 (hin e he).2
  rw [hplace, foldl_addErr errs [] hdistinct, List.nil_append, hvalue]

theorem Dev.errsAt_nil {d : Dev} (h : d.mem.errs = []) (a : Nat) : d.errsAt a = [] := by
  rw [Dev.errsAt, h]
  rfl

/-! ## Granules without stored errors (R172, R173) -/

/-- A granule without errors is read as it stands. -/
theorem Dev.readGranule_clean {d : Dev} (hu : uncounted d) (he : d.mem.errs = []) (a src : Nat) :
    d.readGranule a src [] = (d, none) := by
  unfold Dev.readGranule
  simp only [Dev.countMem_uncounted hu, ite_self, Dev.errsAt_nil he]
  rfl

/-- The place of the counter of corrected errors of a granule, below the PMU. -/
theorem rMemCe_lt {a : Nat} (h : a < rimTop) : rMemCe (rimMap a).stack (rimMap a).pc < rPmuCtrl := by
  have hstack : (rimMap a).stack < 8 := by
    change a / sectorBytes / 2 < 8
    dsimp only [rimTop, sectorBytes, GiB] at *
    omega
  have hpc : (rimMap a).pc < 32 := by
    have hlow (o : Nat) : o % 16 < 2 ^ 4 := Nat.mod_lt o (by decide)
    have hsel := Nat.xor_lt_two_pow (Nat.xor_lt_two_pow (hlow (a % sectorBytes / 2 ^ 8)) (hlow (a % sectorBytes / 2 ^ 16)))
      (hlow (a % sectorBytes / 2 ^ 24))
    have hpc' : (rimMap a).pc = a / sectorBytes % 2 * 16 + (a % sectorBytes / 2 ^ 8 % 16 ^^^ a % sectorBytes / 2 ^ 16 % 16 ^^^
      a % sectorBytes / 2 ^ 24 % 16) := rfl
    omega
  unfold rMemCe rMemStk rPmuCtrl
  omega

/-- The device after a correction: what it leaves of a granule is written back, without errors, and it counts. -/
def Dev.corrected (d : Dev) (a : Nat) (errs fix : SymErrs) : Dev :=
  (({ d with rim := d.rim.write a (symXor fix (symXor errs (d.rim.read a 64))) } : Dev).setErrs a []).bump
    (rMemCe (rimMap a).stack (rimMap a).pc)

@[simp] theorem Dev.setErrs_sys (d : Dev) (a : Nat) (e : SymErrs) : (d.setErrs a e).sys = d.sys := rfl

theorem Dev.inCarve_of_sys {d e : Dev} (h : e.sys = d.sys) (a : Nat) : e.inCarve a = d.inCarve a := by
  rw [Dev.inCarve, Dev.carveBytes, h]
  rfl

/-- Errors that decode to a correction, of a granule outside the carve-out. -/
theorem Dev.readGranule_corrected {d : Dev} (hu : uncounted d) (he : d.mem.errs = []) {a : Nat} (ha : a < rimTop)
    (hc : d.inCarve a = false) {errs fix : SymErrs} (hin : ∀ e ∈ errs, e.1 < 42 ∧ e.2 ≠ 0)
    (hdistinct : (errs.map fun e => e.1).Nodup) (hdec : rsDecode errs = .fixed fix) (hfix : fix ≠ []) (src : Nat) :
    d.readGranule a src errs = ((d.corrected a errs fix).trackRow a, none) := by
  have hsome : errs.isEmpty = false := by
    cases errs with
    | nil => exact absurd (Decoded.fixed.inj hdec).symm hfix
    | cons e es => rfl
  have hcount : uncounted (d.corrected a errs fix) := uncounted_bump (uncounted_setErrs (uncounted_rim hu _) _ _) (rMemCe_lt ha) 1
  have hcarve : (d.corrected a errs fix).inCarve a = false := (Dev.inCarve_of_sys (by simp [Dev.corrected]) a).trans hc
  obtain ⟨f, fs, rfl⟩ := List.exists_cons_of_ne_nil hfix
  unfold Dev.readGranule
  dsimp only
  rw [Dev.countMem_uncounted hu, hc, if_neg Bool.false_ne_true, Dev.errsAt_nil he, filter_foldl_addErr hin hdistinct, hsome,
    if_neg Bool.false_ne_true, hdec]
  dsimp only
  rw [← Dev.corrected, Dev.countMem_uncounted hcount, hcarve]
  rfl

/-- The device whose scrub stands at other granules. -/
def Dev.scrubTo (d : Dev) (m : NatMap) : Dev := { d with mem := { d.mem with scrub := m } }

theorem Dev.countMem_scrubTo {d : Dev} (h : uncounted d) (m : NatMap) (x c evt : Nat) (p : Option Nat) (n : Nat) :
    ({ d with mem := { d.mem with scrub := m } } : Dev).countMem x c evt p n = d.scrubTo m :=
  Dev.countMem_uncounted (uncounted_mem h _) ..

theorem Dev.readGranule_scrubTo {d : Dev} (hu : uncounted d) (he : d.mem.errs = []) (m : NatMap) (a src : Nat) :
    (d.scrubTo m).readGranule a src [] = (d.scrubTo m, none) := by
  have hscrub : uncounted (d.scrubTo m) := uncounted_mem hu _
  exact Dev.readGranule_clean hscrub he a src

/-! ## Accesses of granules while no channel is under repair (R184) -/

theorem Dev.chanHeld_idle {d : Dev} (h : d.mem.repairing = []) (a len : Nat) : d.chanHeld a len = false := by
  rw [Dev.chanHeld, h]
  rfl

theorem Dev.rimRead_corrected {d : Dev} (hu : uncounted d) (he : d.mem.errs = []) (hr : d.mem.repairing = []) {a : Nat}
    (ha : a / 64 * 64 < rimTop) (hc : d.inCarve (a / 64 * 64) = false) {errs fix : SymErrs}
    (hin : ∀ e ∈ errs, e.1 < 42 ∧ e.2 ≠ 0) (hdistinct : (errs.map fun e => e.1).Nodup) (hdec : rsDecode errs = .fixed fix)
    (hfix : fix ≠ []) : d.rimRead a errs = (d.corrected (a / 64 * 64) errs fix).trackRow (a / 64 * 64) := by
  unfold Dev.rimRead
  dsimp only
  rw [if_neg (Nat.not_le.2 ha), Dev.chanHeld_idle hr, if_neg Bool.false_ne_true,
    Dev.readGranule_corrected hu he ha hc hin hdistinct hdec hfix]

theorem mem_placeBytes {a : Nat} {bs : List Byte} {e : Nat × Byte} (h : e ∈ placeBytes a bs) : e.1 < a + bs.length := by
  obtain ⟨x, hx, rfl⟩ := List.mem_map.1 h
  have hlt := List.mem_range.1 (List.of_mem_zip hx).1
  exact Nat.add_lt_add_left hlt a

/-- Bytes below the top of rim memory reach no local store, and where no granule has errors they all stand as written. -/
theorem Dev.gwrite_rim {d : Dev} (hu : uncounted d) (he : d.mem.errs = []) {a : Nat} {bs : List Byte}
    (ha : a + bs.length ≤ rimTop) : d.gwrite a bs = { d with rim := d.rim.writeAt (placeBytes a bs) } := by
  have hlow : ∀ e ∈ placeBytes a bs, e.1 < rimTop := fun e h => Nat.lt_of_lt_of_le (mem_placeBytes h) ha
  have hrim : ((placeBytes a bs).filter fun e => decide (e.1 < rimTop)) = placeBytes a bs :=
    List.filter_eq_self.2 fun e h => decide_eq_true (hlow e h)
  have hls : ((placeBytes a bs).filter fun e => isLs e.1 && decide (lsLocal e.1 < lsTop)) = [] := by
    refine List.filter_eq_nil_iff.2 fun e h => ?_
    have htop : ¬ 0x100000000000 ≤ e.1 := Nat.not_le.2 (Nat.lt_trans (hlow e h) (by decide))
    simp [isLs, htop]
  unfold Dev.gwrite Dev.gput Dev.rimPut
  dsimp only
  rw [hrim, hls, Dev.countWrites_uncounted hu, he]
  rfl

/-- A write of part of a granule without errors merges its bytes. -/
theorem Dev.rimPartialWrite_merges {d : Dev} (hu : uncounted d) (he : d.mem.errs = []) (hr : d.mem.repairing = []) {a : Nat}
    {bs : List Byte} (ha : a < rimTop) (hpart : a % 64 + bs.length < 64) :
    d.rimPartialWrite a bs [] = { d with rim := d.rim.writeAt (placeBytes a bs) } := by
  have htop : a + bs.length ≤ rimTop := by
    unfold rimTop sectorBytes GiB at *
    omega
  unfold Dev.rimPartialWrite
  dsimp only
  rw [List.take_of_length_le (by omega), if_neg (Nat.not_le.2 ha), Dev.chanHeld_idle hr, if_neg Bool.false_ne_true,
    if_neg (by omega), Dev.readGranule_clean hu he]
  exact Dev.gwrite_rim hu he htop

end Sys2Proof.Machine

namespace Sys2Proof

open Machine

section

variable {st : State} (hr : st.dev.sys.railsUp = true) (hu : uncounted st.dev) (he : st.dev.mem.errs = [])
  (hidle : st.dev.mem.repairing = [])

include hr hu he hidle

theorem exec_rimPartialWrite {a : BitVec 48} {bs : List Byte} (ha : a.toNat < rimTop) (hpart : a.toNat % 64 + bs.length < 64) :
    exec (.rimPartialWrite a bs []) st =
      .next (withDev st { st.dev with rim := st.dev.rim.writeAt (placeBytes a.toNat bs) }) :=
  act_of_eq hr (f := fun d => d.rimPartialWrite a.toNat bs [])
    (Dev.rimPartialWrite_merges hu he hidle ha hpart)

theorem exec_scrubRead {x : Fin 8} {pc : Fin 32} (hon : st.dev.fld rMemCfg 7 0 ≠ 0) (hok : st.dev.pcOk x.val pc.val = true) :
    exec (.scrubRead x pc []) st = .next (withDev st (st.dev.scrubTo (st.dev.mem.scrub.set (chanKey x.val pc.val)
      ((st.dev.mem.scrub.get (chanKey x.val pc.val) + 1) % (3 * 2 ^ 24))))) := by
  change execScrubRead x pc [] st = _
  unfold execScrubRead
  refine act_of_eq hr ((if_neg ?_).trans ?_)
  · simp [hon, hok, hidle]
  · extract_lets +onlyGivenNames g a
    rw [Dev.countMem_scrubTo hu]
    extract_lets d r
    have hread : r = (d, none) := Dev.readGranule_scrubTo hu he _ a 1
    clear_value r
    subst hread
    rfl

end

/-- Settles O25: nothing counts and no channel is under repair, so that each access is its read of one granule: errors that decode
are corrected, and a granule without errors is read as it stands. -/
theorem rimGranulesAreRead : Obligations.RimGranulesAreRead := by
  intro st a bytes errs fix x pc hr hu he hidle hin hdistinct g
  refine ⟨fun hg hc hdec hfix => ?_, fun ha hpart => ?_, fun hon hok => ?_⟩
  · exact act_of_eq hr (f := fun d => d.rimRead a.toNat errs)
      (Dev.rimRead_corrected hu he hidle hg hc hin hdistinct hdec hfix)
  · exact ⟨_, exec_rimPartialWrite hr hu he hidle ha hpart, rfl, rfl, rfl⟩
  · exact ⟨_, exec_scrubRead hr hu he hidle hon hok, rfl, rfl, rfl⟩

/-! ## A threshold that is lowered (R175, R185) -/

/-- MEM_SCRUB_CFG with PART 0xFF, the device: 24 hours, as at reset, and a threshold of 2 corrected errors. -/
def lowerThreshold : FetchedCmd where
  seq := 0
  q := 0
  sqhd := 0
  entry := leBytes 8 0x301 ++ leBytes 24 0xFF ++ leBytes 96 (2 * 2 ^ 8 + 24)
  buf := []
  started := false
  interim := false
  mute := false

/-- A device that has met three corrected errors in row 0 of bank 5 of stack 0, channel 0, where CE_THR is 8 as at reset, and
that has fetched this command. -/
def hotRowDev : Dev :=
  { Dev.reset with
    mem := { Dev.reset.mem with rows := [(0, [(5, 3)])] }
    hq := { Dev.reset.hq with fetched := [lowerThreshold] } }

theorem lowerThreshold_accepted :
    Accepted hotRowDev 0 0x301 [.num 1, .num 1] lowerThreshold (hotRowDev.setFetched (began lowerThreshold)) where
  head := by decide +kernel
  opcode := by decide +kernel
  device := by decide +kernel
  partition := by decide +kernel
  params := by decide +kernel
  plain _ := rfl
  signed h := absurd h (by decide +kernel)
  digest h := absurd h (by decide +kernel)

/-- The row is at the new threshold: its record is posted, and its entry cleared. -/
theorem hotRowDev_memScrubCfg : ∃ t, exec (.memScrubCfg 0) ⟨hotRowDev, []⟩ = .next t ∧ t.dev.mem.rows = [] :=
  ⟨_, rfl, by decide +kernel⟩

/-- Refutes O34: its clause on MEM_SCRUB_CFG leaves out the rows that have met as many corrected errors as the lowered threshold
asks for, whose records are posted and whose entries are cleared in the same command. -/
theorem not_memoryCommands : ¬ Obligations.MemoryCommands := by
  intro h
  obtain ⟨hscrub, -⟩ := h ⟨hotRowDev, []⟩ 0 lowerThreshold _ 0 0 rfl
  have ht := hscrub lowerThreshold_accepted (by decide +kernel) (by decide +kernel) (by decide +kernel)
  obtain ⟨t, ht', hrows⟩ := hotRowDev_memScrubCfg
  obtain rfl := Host.Outcome.next.inj (ht.symm.trans ht')
  exact absurd hrows (by decide +kernel)

end Sys2Proof
